-- ==== Sys2Proof/Word.lean ====
section
/-! DEFINITION. The word types of Quiran and their plainest arithmetic (00 R2). -/

namespace Sys2Proof

/-- A byte of memory (00 R2). -/
abbrev Byte := BitVec 8

/-- A 64-bit register (04 R91). -/
abbrev Word := BitVec 64

/-- A vector lane, and a 32-bit instruction word (04 R85, R91). -/
abbrev Lane := BitVec 32

/-- The low `n` bits of a natural number as a bit vector of width `w` shifted into place: used to
write words out field by field. -/
def bits (w : Nat) (x : Nat) : BitVec w := BitVec.ofNat w x

end Sys2Proof
end

