-- ==== Sys2Proof/Syntax.lean ====
section
/-! DEFINITION. The instructions and machine steps of Quiran: one constructor for each row of the
opcode table (operations with operands first, then those without, then
machine steps with operands). Register and code fields keep the width of their encoding field; agents, units and
registers named by a machine step are natural numbers. `w` and `t` of a control transfer are the
window bit and word number of 04 R102; `party` is the owner code of 13 R348 (1 host port on X0,
2 host port on X1, 3 device side); `p` is an agent number (0 to 287 a core by its PCORE, 288 + c the
hub program slot of context c); `q` is a tile number; `qd` and `qa` are OPX bits 0 and 1 of 06 R157. -/

namespace Sys2Proof

/-- An operation of a slot, a lane group or a tile, or one of the machine's own steps. -/
inductive Instr where
  /-- Adds two s registers modulo 2^64 (R119). -/
  | add (d a b : BitVec 5)
  /-- Subtracts two s registers modulo 2^64 (R119). -/
  | sub (d a b : BitVec 5)
  /-- Bitwise AND of two s registers (R119). -/
  | and (d a b : BitVec 5)
  /-- Bitwise OR of two s registers (R119). -/
  | or (d a b : BitVec 5)
  /-- Bitwise XOR of two s registers (R119). -/
  | xor (d a b : BitVec 5)
  /-- Shifts left with zero fill by y[5:0] (R119). -/
  | sll (d a b : BitVec 5)
  /-- Shifts right with zero fill by y[5:0] (R119). -/
  | srl (d a b : BitVec 5)
  /-- Shifts right arithmetically by y[5:0] (R119). -/
  | sra (d a b : BitVec 5)
  /-- Low 64 bits of the product, latency 3 (R119). -/
  | mul (d a b : BitVec 5)
  /-- High 64 bits of the signed product (R119). -/
  | mulh (d a b : BitVec 5)
  /-- High 64 bits of the unsigned product (R119). -/
  | mulhu (d a b : BitVec 5)
  /-- Signed division rounding toward zero with fixed borderline results (R120). -/
  | div (d a b : BitVec 5)
  /-- Unsigned division with fixed result for a zero divisor (R120). -/
  | divu (d a b : BitVec 5)
  /-- Signed remainder taking the sign of the dividend (R120). -/
  | rem (d a b : BitVec 5)
  /-- Unsigned remainder (R120). -/
  | remu (d a b : BitVec 5)
  /-- Smaller of two signed values (R119). -/
  | min (d a b : BitVec 5)
  /-- Larger of two signed values (R119). -/
  | max (d a b : BitVec 5)
  /-- Smaller of two unsigned values (R119). -/
  | minu (d a b : BitVec 5)
  /-- Larger of two unsigned values (R119). -/
  | maxu (d a b : BitVec 5)
  /-- Sets 1 if signed x < y (R119). -/
  | slt (d a b : BitVec 5)
  /-- Sets 1 if unsigned x < y (R119). -/
  | sltu (d a b : BitVec 5)
  /-- Counts leading zero bits (R119). -/
  | clz (d a : BitVec 5)
  /-- Counts trailing zero bits (R119). -/
  | ctz (d a : BitVec 5)
  /-- Counts 1 bits (R119). -/
  | popc (d a : BitVec 5)
  /-- Sign-extends the low byte (R119). -/
  | sextB (d a : BitVec 5)
  /-- Sign-extends the low half (R119). -/
  | sextH (d a : BitVec 5)
  /-- Sign-extends the low word (R119). -/
  | sextW (d a : BitVec 5)
  /-- Zero-extends the low byte (R119). -/
  | zextB (d a : BitVec 5)
  /-- Zero-extends the low half (R119). -/
  | zextH (d a : BitVec 5)
  /-- Zero-extends the low word (R119). -/
  | zextW (d a : BitVec 5)
  /-- Adds a sign-extended 16-bit immediate (R121). -/
  | addi (d a : BitVec 5) (imm : BitVec 16)
  /-- ANDs a zero-extended immediate (R121). -/
  | andi (d a : BitVec 5) (imm : BitVec 16)
  /-- ORs a zero-extended immediate (R121). -/
  | ori (d a : BitVec 5) (imm : BitVec 16)
  /-- XORs a zero-extended immediate (R121). -/
  | xori (d a : BitVec 5) (imm : BitVec 16)
  /-- Shifts left by an immediate (R121). -/
  | slli (d a : BitVec 5) (sh : BitVec 6)
  /-- Shifts right logically by an immediate (R121). -/
  | srli (d a : BitVec 5) (sh : BitVec 6)
  /-- Shifts right arithmetically by an immediate (R121). -/
  | srai (d a : BitVec 5) (sh : BitVec 6)
  /-- Sets 1 if signed x is below the immediate (R121). -/
  | slti (d a : BitVec 5) (imm : BitVec 16)
  /-- Shifts x left 16 and inserts a 16-bit immediate (R121). -/
  | lih (d a : BitVec 5) (imm : BitVec 16)
  /-- Adds an s register to an a register (R123). -/
  | aadd (d a : BitVec 4) (b : BitVec 5)
  /-- Copies an a register (R123). -/
  | amov (d a : BitVec 4)
  /-- Copies an a register to an s register (R123). -/
  | movsa (d : BitVec 5) (a : BitVec 4)
  /-- Copies an s register to an a register (R123). -/
  | movas (d : BitVec 4) (a : BitVec 5)
  /-- Adds a signed immediate to an a register (R123). -/
  | aaddi (d a : BitVec 4) (imm : BitVec 16)
  /-- Sets a predicate to x = y (R124). -/
  | cmpEq (p : BitVec 3) (a b : BitVec 5)
  /-- Sets a predicate to x ≠ y (R124). -/
  | cmpNe (p : BitVec 3) (a b : BitVec 5)
  /-- Sets a predicate to signed x < y (R124). -/
  | cmpLt (p : BitVec 3) (a b : BitVec 5)
  /-- Sets a predicate to signed x ≥ y (R124). -/
  | cmpGe (p : BitVec 3) (a b : BitVec 5)
  /-- Sets a predicate to unsigned x < y (R124). -/
  | cmpLtu (p : BitVec 3) (a b : BitVec 5)
  /-- Sets a predicate to unsigned x ≥ y (R124). -/
  | cmpGeu (p : BitVec 3) (a b : BitVec 5)
  /-- ANDs two predicates (R124). -/
  | pand (d a b : BitVec 3)
  /-- ORs two predicates (R124). -/
  | por (d a b : BitVec 3)
  /-- Inverts a predicate (R124). -/
  | pnot (d a : BitVec 3)
  /-- Transfers unconditionally to a target, popping loop levels it leaves (R126). -/
  | br (w : Bool) (t : BitVec 12)
  /-- Transfers when the predicate is 1 (R126). -/
  | brp (p : BitVec 3) (w : Bool) (t : BitVec 12)
  /-- Transfers when the predicate is 0 (R126). -/
  | brpN (p : BitVec 3) (w : Bool) (t : BitVec 12)
  /-- Writes the sequential successor to a link register and transfers (R126). -/
  | call (r : BitVec 5) (w : Bool) (t : BitVec 12)
  /-- Transfers to the word address held in an s register (R127). -/
  | ret (r : BitVec 5)
  /-- Pushes a hardware loop level or skips to the target on a zero count (R128). -/
  | loop (r : BitVec 5) (w : Bool) (t : BitVec 12)
  /-- Inverts ISPSEL, pops all loop levels, performs ifence and transfers (R130). -/
  | bswap (w : Bool) (t : BitVec 12)
  /-- Loads a sign-extended byte from the own vault at latency 5 (R133). -/
  | sldB (r : BitVec 5) (a : BitVec 4) (imm : BitVec 16)
  /-- Loads a sign-extended half from the own vault (R133). -/
  | sldH (r : BitVec 5) (a : BitVec 4) (imm : BitVec 16)
  /-- Loads a sign-extended word from the own vault (R133). -/
  | sldW (r : BitVec 5) (a : BitVec 4) (imm : BitVec 16)
  /-- Loads a doubleword from the own vault (R133). -/
  | sldD (r : BitVec 5) (a : BitVec 4) (imm : BitVec 16)
  /-- Stores a byte to the own vault as a gated store (R133). -/
  | sstB (r : BitVec 5) (a : BitVec 4) (imm : BitVec 16)
  /-- Stores a half as a gated store (R133). -/
  | sstH (r : BitVec 5) (a : BitVec 4) (imm : BitVec 16)
  /-- Stores a word as a gated store (R133). -/
  | sstW (r : BitVec 5) (a : BitVec 4) (imm : BitVec 16)
  /-- Stores a doubleword as a gated store (R133). -/
  | sstD (r : BitVec 5) (a : BitVec 4) (imm : BitVec 16)
  /-- Blocking G-space load, optionally acquire or invariant, due at vc n + 8 (R135). -/
  | gld (r : BitVec 5) (a : BitVec 4) (off : BitVec 11) (wid : BitVec 2) (acq inv : Bool)
  /-- G-space store, gated for normal pages and irrevocable for MMIO pages (R136). -/
  | gst (r : BitVec 5) (a : BitVec 4) (off : BitVec 11) (wid : BitVec 2) (rel : Bool)
  /-- Writes a matrix parameter register from an s register (R137). -/
  | msetp (k : BitVec 3) (a : BitVec 5)
  /-- Reads a matrix parameter register into an s register (R137). -/
  | mgetp (d : BitVec 5) (k : BitVec 3)
  /-- Writes FMT with latency 4 (R138). -/
  | setfmt (a : BitVec 5)
  /-- Writes MPC with latency 1, overriding that vc's advance (R139). -/
  | setmpc (a : BitVec 5)
  /-- Reads MPC before its vc's advance (R139). -/
  | getmpc (d : BitVec 5)
  /-- Reads a system register, sampled at issue (R144). -/
  | sysrd (d : BitVec 5) (n : BitVec 16)
  /-- Writes a system register by its access kind, effective at vc n + 1 (R144). -/
  | syswr (n : BitVec 16) (a : BitVec 5)
  /-- Records ECODE, EPC and ESTAT, enters supervisor mode and transfers to SVEC (R141). -/
  | trap (code : BitVec 16)
  /-- Fires the common snapshot trigger stamped with GTC, tag and PCORE (R150). -/
  | snap (tag : BitVec 8)
  /-- Reads a launch descriptor and creates a launch, returning its handle (R332). -/
  | hlaunch (d a : BitVec 5)
  /-- Seals a graph of the current phase (R332). -/
  | hlaunchSealg (a : BitVec 5)
  /-- Waits until a counter reaches a threshold or its item is cancelled, gone or none (R329). -/
  | hwaitc (d a b : BitVec 5)
  /-- Cancels a launch, graph, phase or job (R334). -/
  | hcancel (a : BitVec 5)
  /-- Sets a sync counter and re-evaluates edges (R327). -/
  | hsetc (a b : BitVec 5)
  /-- Adds to a sync counter and re-evaluates edges (R327). -/
  | hsetcAdd (a b : BitVec 5)
  /-- Returns a counter's value (R328). -/
  | hreadc (d a : BitVec 5)
  /-- Returns an item's status word (R328). -/
  | hreadcSt (d a : BitVec 5)
  /-- Sends stop requests to every running unit of a launch or context (R341). -/
  | hstop (a : BitVec 5)
  /-- Sends a stop request to one unit (R341). -/
  | hstopU (a b : BitVec 5)
  /-- Creates a context and starts a job from a job image header (R325). -/
  | hctx (d a : BitVec 5)
  /-- Cancels a context's job and frees the context (R325). -/
  | hctxKill (a : BitVec 5)
  /-- Prevents units of a context from starting or resuming (R325). -/
  | hctxHold (a : BitVec 5)
  /-- Undoes hctx.hold (R325). -/
  | hctxRun (a : BitVec 5)
  /-- Returns the static placement of a unit (R339). -/
  | hdeal (d a b : BitVec 5)
  /-- Returns E of a launch (R339). -/
  | hdealE (d a : BitVec 5)
  /-- Sets EVT.HUB in every member running a unit (R339). -/
  | hdealRing (a b : BitVec 5)
  /-- Integer add per active lane (R160). -/
  | vadd (d a b : BitVec 5) (et : BitVec 3) (qd qa : Bool)
  /-- Integer subtract per active lane (R160). -/
  | vsub (d a b : BitVec 5) (et : BitVec 3) (qd qa : Bool)
  /-- Integer multiply per active lane (R160). -/
  | vmul (d a b : BitVec 5) (et : BitVec 3) (qd qa : Bool)
  /-- Upper element bits of the integer product (R160). -/
  | vmulh (d a b : BitVec 5) (et : BitVec 3) (qd qa : Bool)
  /-- Integer minimum (R160). -/
  | vmin (d a b : BitVec 5) (et : BitVec 3) (qd qa : Bool)
  /-- Integer maximum (R160). -/
  | vmax (d a b : BitVec 5) (et : BitVec 3) (qd qa : Bool)
  /-- Bitwise AND on element bits (R160). -/
  | vand (d a b : BitVec 5) (et : BitVec 3) (qd qa : Bool)
  /-- Bitwise OR on element bits (R160). -/
  | vor (d a b : BitVec 5) (et : BitVec 3) (qd qa : Bool)
  /-- Bitwise XOR on element bits (R160). -/
  | vxor (d a b : BitVec 5) (et : BitVec 3) (qd qa : Bool)
  /-- Complement of element bits (R160). -/
  | vnot (d a : BitVec 5) (et : BitVec 3) (qd qa : Bool)
  /-- Shift left with zero fill (R160). -/
  | vshl (d a b : BitVec 5) (et : BitVec 3) (qd qa : Bool)
  /-- Logical shift right (R160). -/
  | vshr (d a b : BitVec 5) (et : BitVec 3) (qd qa : Bool)
  /-- Arithmetic shift right (R160). -/
  | vsra (d a b : BitVec 5) (et : BitVec 3) (qd qa : Bool)
  /-- Integer absolute value (R160). -/
  | vabs (d a : BitVec 5) (et : BitVec 3) (qd qa : Bool)
  /-- Integer negation (R160). -/
  | vneg (d a : BitVec 5) (et : BitVec 3) (qd qa : Bool)
  /-- Selects va or vb per lane by a mask (R161). -/
  | vsel (d a b : BitVec 5) (kc : BitVec 3) (et : BitVec 3) (qd qa : Bool)
  /-- Integer equal compare into a mask (R161). -/
  | vcmpEq (kd : BitVec 3) (a b : BitVec 5) (et : BitVec 3) (qa : Bool)
  /-- Integer not-equal compare into a mask (R161). -/
  | vcmpNe (kd : BitVec 3) (a b : BitVec 5) (et : BitVec 3) (qa : Bool)
  /-- Integer less-than compare into a mask (R161). -/
  | vcmpLt (kd : BitVec 3) (a b : BitVec 5) (et : BitVec 3) (qa : Bool)
  /-- Integer less-or-equal compare into a mask (R161). -/
  | vcmpLe (kd : BitVec 3) (a b : BitVec 5) (et : BitVec 3) (qa : Bool)
  /-- Integer greater-than compare into a mask (R161). -/
  | vcmpGt (kd : BitVec 3) (a b : BitVec 5) (et : BitVec 3) (qa : Bool)
  /-- Integer greater-or-equal compare into a mask (R161). -/
  | vcmpGe (kd : BitVec 3) (a b : BitVec 5) (et : BitVec 3) (qa : Bool)
  /-- Floating-point add rounded once (R162). -/
  | vfadd (d a b : BitVec 5) (et : BitVec 3) (qd qa : Bool)
  /-- Floating-point subtract (R162). -/
  | vfsub (d a b : BitVec 5) (et : BitVec 3) (qd qa : Bool)
  /-- Floating-point multiply (R162). -/
  | vfmul (d a b : BitVec 5) (et : BitVec 3) (qd qa : Bool)
  /-- Fused x × y + z (R162). -/
  | vfma (d a b c : BitVec 5) (et : BitVec 3) (qd qa : Bool)
  /-- Fused x × y − z (R162). -/
  | vfms (d a b c : BitVec 5) (et : BitVec 3) (qd qa : Bool)
  /-- Fused z − x × y (R162). -/
  | vfnma (d a b c : BitVec 5) (et : BitVec 3) (qd qa : Bool)
  /-- Floating-point minimum with NaN rules (R163). -/
  | vfmin (d a b : BitVec 5) (et : BitVec 3) (qd qa : Bool)
  /-- Floating-point maximum with NaN rules (R163). -/
  | vfmax (d a b : BitVec 5) (et : BitVec 3) (qd qa : Bool)
  /-- Clears the sign (R162). -/
  | vfabs (d a : BitVec 5) (et : BitVec 3) (qd qa : Bool)
  /-- Inverts the sign (R162). -/
  | vfneg (d a : BitVec 5) (et : BitVec 3) (qd qa : Bool)
  /-- Floating-point equal compare into a mask (R163). -/
  | vfcmpEq (kd : BitVec 3) (a b : BitVec 5) (et : BitVec 3) (qa : Bool)
  /-- Floating-point not-equal compare (R163). -/
  | vfcmpNe (kd : BitVec 3) (a b : BitVec 5) (et : BitVec 3) (qa : Bool)
  /-- Floating-point less-than compare (R163). -/
  | vfcmpLt (kd : BitVec 3) (a b : BitVec 5) (et : BitVec 3) (qa : Bool)
  /-- Floating-point less-or-equal compare (R163). -/
  | vfcmpLe (kd : BitVec 3) (a b : BitVec 5) (et : BitVec 3) (qa : Bool)
  /-- Floating-point greater-than compare (R163). -/
  | vfcmpGt (kd : BitVec 3) (a b : BitVec 5) (et : BitVec 3) (qa : Bool)
  /-- Floating-point greater-or-equal compare (R163). -/
  | vfcmpGe (kd : BitVec 3) (a b : BitVec 5) (et : BitVec 3) (qa : Bool)
  /-- Correctly rounded reciprocal (R164). -/
  | vfrcp (d a : BitVec 5) (et : BitVec 3) (qd qa : Bool)
  /-- Correctly rounded reciprocal square root (R164). -/
  | vfrsq (d a : BitVec 5) (et : BitVec 3) (qd qa : Bool)
  /-- Correctly rounded 2^x (R164). -/
  | vfexp2 (d a : BitVec 5) (et : BitVec 3) (qd qa : Bool)
  /-- Correctly rounded log2 x (R164). -/
  | vflog2 (d a : BitVec 5) (et : BitVec 3) (qd qa : Bool)
  /-- Correctly rounded tanh x (R164). -/
  | vftanh (d a : BitVec 5) (et : BitVec 3) (qd qa : Bool)
  /-- Correctly rounded logistic sigmoid (R164). -/
  | vfsigm (d a : BitVec 5) (et : BitVec 3) (qd qa : Bool)
  /-- Converts to a vector or matrix format (R165). -/
  | vcvt (d a code : BitVec 5) (et : BitVec 3) (qd qa : Bool)
  /-- Converts one weight per lane for TWQ to TW8 (R168). -/
  | vcvtTwq (d a b code : BitVec 5) (qd qa : Bool)
  /-- Converts from a matrix format to a vector format (R167). -/
  | vcvtm (d a code : BitVec 5) (et : BitVec 3) (qd qa : Bool)
  /-- Expands a BFP16 block into lanes (R172). -/
  | vbfpi (d a : BitVec 5) (et : BitVec 3)
  /-- Forms a BFP16 block from 16 lanes (R171). -/
  | vbfpo (d a : BitVec 5) (et : BitVec 3)
  /-- Multiplies by an E8M0 scale (R169). -/
  | vscale (d a b : BitVec 5) (et : BitVec 3) (qd qa : Bool)
  /-- Shuffles lanes within a group (R173). -/
  | vshuf (d a b : BitVec 5) (et : BitVec 3)
  /-- Rotates lanes within a group (R173). -/
  | vrot (d a : BitVec 5) (n : BitVec 4) (et : BitVec 3)
  /-- Broadcasts one lane within a group (R173). -/
  | vbcast (d a : BitVec 5) (n : BitVec 4) (et : BitVec 3)
  /-- Pairwise-tree sum over active lanes (R174). -/
  | vredadd (d a : BitVec 5) (et : BitVec 3)
  /-- Tree maximum over active lanes (R174). -/
  | vredmax (d a : BitVec 5) (et : BitVec 3)
  /-- Tree minimum over active lanes (R174). -/
  | vredmin (d a : BitVec 5) (et : BitVec 3)
  /-- Inclusive running add, max or min over active lanes (R175). -/
  | vscan (d a op : BitVec 5) (et : BitVec 3)
  /-- Packs active lanes to the bottom, zeroing the rest (R176). -/
  | vcompress (d a : BitVec 5) (et : BitVec 3)
  /-- Copies a register from another lane group (R177). -/
  | vxg (d a : BitVec 5) (gs : BitVec 3) (et : BitVec 3)
  /-- Broadcasts one lane of another group's register (R177). -/
  | vxgb (d a : BitVec 5) (gs : BitVec 3) (n : BitVec 4) (et : BitVec 3)
  /-- ANDs two masks (R178). -/
  | kand (kd ka kb : BitVec 3) (et : BitVec 3)
  /-- ORs two masks (R178). -/
  | kor (kd ka kb : BitVec 3) (et : BitVec 3)
  /-- XORs two masks (R178). -/
  | kxor (kd ka kb : BitVec 3) (et : BitVec 3)
  /-- Complements a mask (R178). -/
  | knot (kd ka : BitVec 3) (et : BitVec 3)
  /-- Counts the 1 bits of a mask into lanes (R178). -/
  | kpopc (d : BitVec 5) (ka : BitVec 3)
  /-- Sets mask bits where lanes are nonzero (R178). -/
  | kset (kd : BitVec 3) (a : BitVec 5) (et : BitVec 3)
  /-- Sets a mask to 2^n − 1 (R178). -/
  | ksetN (kd : BitVec 3) (n : BitVec 5) (et : BitVec 3)
  /-- Copies an element (R179). -/
  | vmov (d a : BitVec 5) (et : BitVec 3) (qd qa : Bool)
  /-- Writes a 15-bit immediate into active lanes (R179). -/
  | vmovi (d : BitVec 5) (imm : BitVec 15) (et : BitVec 3) (qd : Bool)
  /-- Broadcasts an s register into active lanes (R179). -/
  | vmovs (d a : BitVec 5) (et : BitVec 3) (qd : Bool)
  /-- Draws a random value per active lane (R180). -/
  | vrand (d : BitVec 5) (et : BitVec 3)
  /-- Seeds the group's random source (R180). -/
  | vrandSeed (a : BitVec 5)
  /-- Reads the group's random source (R180). -/
  | vrandGet (d : BitVec 5)
  /-- Enqueues a numbered call of a tile routine with captured parameters (R216). -/
  | mcall (idx : BitVec 10)
  /-- Key race returning the minimum line and key at vc n + 40 (R219). -/
  | mrmin (d a : BitVec 5) (ty : BitVec 4) (nm1 : BitVec 7)
  /-- Key race returning the maximum line and key (R219). -/
  | mrmax (d a : BitVec 5) (ty : BitVec 4) (nm1 : BitVec 7)
  /-- Key race returning the rank of every line (R219). -/
  | mrank (d a : BitVec 5) (ty : BitVec 4) (nm1 : BitVec 7)
  /-- Key race returning the top k lines (R219). -/
  | mtopk (d a : BitVec 5) (ty : BitVec 4) (nm1 km1 : BitVec 7)
  /-- Numbered operation writing selected accumulator banks to a pannier block (R220). -/
  | mspill (mask : BitVec 4)
  /-- Numbered operation loading selected banks and SAT from a pannier block (R220). -/
  | mfill (mask : BitVec 4)
  /-- Reads TSTATE, TRGTC or TRSTAT after earlier numbered operations, optionally clearing SAT (R223). -/
  | mqry (d : BitVec 5) (sel : BitVec 2) (clr : Bool)
  /-- Vector load from L- or C-space (R272). -/
  | vld (v : BitVec 5) (a : BitVec 4) (msel : BitVec 3) (wid gsc : BitVec 2) (pi : Bool) (off : BitVec 10)
  /-- Vector store as a gated store (R272). -/
  | vst (v : BitVec 5) (a : BitVec 4) (msel : BitVec 3) (wid gsc : BitVec 2) (pi : Bool) (off : BitVec 10)
  /-- Vector load carrying the invariant promise (R272). -/
  | vldInv (v : BitVec 5) (a : BitVec 4) (msel : BitVec 3) (wid gsc : BitVec 2) (pi : Bool) (off : BitVec 10)
  /-- Gathers one element per lane from L-space (R273). -/
  | vldx (v vi : BitVec 5) (a : BitVec 4) (msel : BitVec 3) (wid sc : BitVec 2)
  /-- Scatters one element per lane as gated stores (R273). -/
  | vstx (v vi : BitVec 5) (a : BitVec 4) (msel : BitVec 3) (wid sc : BitVec 2)
  /-- Numbered one-row copy on a copy engine (R274). -/
  | cpy (ad as : BitVec 4) (sl sn : BitVec 5) (eng : Bool)
  /-- Numbered strided copy (R274). -/
  | cpys (ad as : BitVec 4) (sl sn : BitVec 5) (eng : Bool)
  /-- Numbered gather copy through an index table (R274). -/
  | cpyg (ad as : BitVec 4) (sl sn : BitVec 5) (eng : Bool)
  /-- Numbered scatter copy through an index table (R274). -/
  | cpysc (ad as : BitVec 4) (sl sn : BitVec 5) (eng : Bool)
  /-- Numbered copy that also writes the CRC-32C of the source (R276). -/
  | cpySum (ad as : BitVec 4) (sl sn : BitVec 5) (eng : Bool)
  /-- Numbered fill of a destination with a 64-bit pattern (R274). -/
  | cpyFill (ad : BitVec 4) (sl sn : BitVec 5) (eng : Bool)
  /-- Binds a stream port to a descriptor from vc n + 6 (R278). -/
  | bind (q : BitVec 3) (a : BitVec 4)
  /-- Unbinds a stream port (R280). -/
  | unbind (q : BitVec 3)
  /-- Returns a stream port's status (R280). -/
  | qstat (d : BitVec 5) (q : BitVec 3)
  /-- Atomic add (R283). -/
  | atomAdd (d : BitVec 5) (a : BitVec 4) (ss : BitVec 5) (wd : Bool) (sem : BitVec 2)
  /-- Atomic minimum (R283). -/
  | atomMin (d : BitVec 5) (a : BitVec 4) (ss : BitVec 5) (wd u : Bool) (sem : BitVec 2)
  /-- Atomic maximum (R283). -/
  | atomMax (d : BitVec 5) (a : BitVec 4) (ss : BitVec 5) (wd u : Bool) (sem : BitVec 2)
  /-- Atomic AND (R283). -/
  | atomAnd (d : BitVec 5) (a : BitVec 4) (ss : BitVec 5) (wd : Bool) (sem : BitVec 2)
  /-- Atomic OR (R283). -/
  | atomOr (d : BitVec 5) (a : BitVec 4) (ss : BitVec 5) (wd : Bool) (sem : BitVec 2)
  /-- Atomic XOR (R283). -/
  | atomXor (d : BitVec 5) (a : BitVec 4) (ss : BitVec 5) (wd : Bool) (sem : BitVec 2)
  /-- Atomic swap (R283). -/
  | atomSwap (d : BitVec 5) (a : BitVec 4) (ss : BitVec 5) (wd : Bool) (sem : BitVec 2)
  /-- Atomic compare-and-swap (R283). -/
  | atomCas (d : BitVec 5) (a : BitVec 4) (ss sc : BitVec 5) (wd : Bool) (sem : BitVec 2)
  /-- Adds an FP32 or BF16 value into a wide cell (R285). -/
  | atomFadd (a : BitVec 4) (ss : BitVec 5) (bf : Bool)
  /-- Initialises a wide cell with a cell exponent (R285). -/
  | wcinit (a : BitVec 4) (ce : BitVec 8)
  /-- Reads a wide cell's value converted to FP32 or BF16 (R285). -/
  | wcread (d : BitVec 5) (a : BitVec 4) (bf : Bool)
  /-- Holds until a timeline reaches a threshold, acquiring those operations (R286). -/
  | tlwait (k : BitVec 3) (ss : BitVec 5)
  /-- Reads a timeline (R287). -/
  | tlread (d : BitVec 5) (k : BitVec 3)
  /-- Raises a user timeline to a value (R287). -/
  | tladv (k : BitVec 3) (ss : BitVec 5)
  /-- Releases and raises a user timeline of another core of the cluster (R287). -/
  | tlsig (k : BitVec 3) (ss : BitVec 5) (a : BitVec 4)
  /-- Full fence at a scope (R288). -/
  | fence (sc : BitVec 3)
  /-- Acquire fence at a scope (R288). -/
  | fenceAcq (sc : BitVec 3)
  /-- Release fence at a scope (R288). -/
  | fenceRel (sc : BitVec 3)
  /-- Numbered drain of writes to a memory or path (R289). -/
  | drainPath (a : BitVec 4) (sn : BitVec 5) (eng : Bool)
  /-- Numbered drain of the core's stream write ports (R289). -/
  | drainPathStreams (sn : BitVec 5) (eng : Bool)
  /-- Fills a region table descriptor mapping vault lines to G-space (R290). -/
  | mapreg (i : BitVec 3) (a : BitVec 4) (sl : BitVec 5) (wb : Bool)
  /-- Numbered write-back and freeing of a region (R291). -/
  | unmapreg (i : BitVec 3) (sn : BitVec 5) (eng : Bool)
  /-- Numbered write-back of a region's dirty lines (R291). -/
  | wbreg (i : BitVec 3) (sn : BitVec 5) (eng : Bool)
  /-- Numbered fill of unfilled mapped lines in a range (R291). -/
  | touch (a : BitVec 4) (sl sn : BitVec 5) (eng : Bool)
  /-- Irrevocably sends a message to another core's receive queue (R292). -/
  | send (a : BitVec 4) (st : BitVec 5) (ln : BitVec 3) (sn : BitVec 5) (eng : Bool)
  /-- Pops the oldest received message into the vault (R293). -/
  | recv (d : BitVec 5) (a : BitVec 4)
  /-- Hands a collective descriptor to the collective engine (R294). -/
  | coll (sn : BitVec 5) (a : BitVec 4)
  /-- Pushes a containment region (R401). -/
  | cxopen (a : BitVec 4) (tol : BitVec 2) (w : Bool) (t : BitVec 12)
  /-- Adds a value to the unit's audit signature (R405). -/
  | audmark (ss : BitVec 5)
  /-- Adds a value to the next tandem comparison (R405). -/
  | tcheck (ss : BitVec 5)
  /-- Loads weights of the current K block into the arrays (R228). -/
  | tscWld (a : BitVec 4)
  /-- Loads weights through TWQ conversion (R228). -/
  | tscWconv (a : BitVec 4)
  /-- Sets the activation stream for the current block (R228). -/
  | tscXstr (a : BitVec 4)
  /-- Sets bank modes and applies the accumulate prelude (R230). -/
  | tscAccmode (a : BitVec 4)
  /-- Selects the bank and first row (R230). -/
  | tscAccsel (a : BitVec 4)
  /-- Writes accumulator rows as BFP16 blocks to L-space (R232). -/
  | tscHandoff (a : BitVec 4)
  /-- Turns on triangular masking (R231). -/
  | tscTri (a b : BitVec 4)
  /-- Skips n words when the current K block is disabled (R233). -/
  | tscSkip (n : BitVec 6)
  /-- Pushes a tile loop with an immediate count (R233). -/
  | tscLoopImm (c : BitVec 16)
  /-- Pushes a tile loop with a count from a t register (R233). -/
  | tscLoopReg (c : BitVec 4)
  /-- Branches when a t-register bit equals v (R233). -/
  | tscBrc (a : BitVec 4) (b : BitVec 6) (v : Bool) (t : BitVec 13)
  /-- Adds a sign-extended immediate to a t register (R233). -/
  | tscSetp (d a : BitVec 4) (imm : BitVec 16)
  /-- Adds an immediate shifted by 16 (R233). -/
  | tscSetpHi (d a : BitVec 4) (imm : BitVec 16)
  /-- Adds two t registers (R233). -/
  | tscSetpReg (d a b : BitVec 4)
  /-- Writes 8-byte entry images to L-space (R232). -/
  | tscEmit (a : BitVec 4)
  /-- Races keys in memory and writes the minimum (R235). -/
  | tscRmin (a b : BitVec 4) (ty : BitVec 4) (nm1 : BitVec 7)
  /-- Races keys in memory and writes the maximum (R235). -/
  | tscRmax (a b : BitVec 4) (ty : BitVec 4) (nm1 : BitVec 7)
  /-- Races keys in memory and writes ranks (R235). -/
  | tscRank (a b : BitVec 4) (ty : BitVec 4) (nm1 : BitVec 7)
  /-- Races keys in memory and writes the top k lines (R235). -/
  | tscTopk (a b : BitVec 4) (ty : BitVec 4) (nm1 km1 : BitVec 7)
  /-- Reads a trim word in force (R236). -/
  | tscTrimrd (d a : BitVec 4)
  /-- Writes a trim word (R236). -/
  | tscTrimwr (a b : BitVec 4)
  /-- Makes one truing measurement of a TDC (R236). -/
  | tscRefrace (d a : BitVec 4) (kind : BitVec 2)
  /-- S-slot no-operation with no effect (R122). -/
  | nop
  /-- Ends a member in a checkpoint bundle, releasing its remaining stores (R131). -/
  | halt
  /-- Restores the mode from ESTAT.PSV and transfers to EPC (R142). -/
  | tret
  /-- Discards prefetched words so later fetches read the ISP afresh (R149). -/
  | ifence
  /-- Reissues its checkpoint bundle each vc until an enabled event is pending (R151). -/
  | wfe
  /-- Seals every open graph and the phase, and opens the next phase (R332). -/
  | hlaunchSealp
  /-- Seals the phase and ends the job's hub program (R332). -/
  | hlaunchEnd
  /-- The lane group does nothing (R94). -/
  | vnop
  /-- Numbered request for a truing round of the tile (R221). -/
  | mtrue
  /-- Numbered fence that completes after all earlier numbered operations (R222). -/
  | mfence
  /-- Pops the innermost containment region (R401). -/
  | cxclose
  /-- Withdraws the unit from auditing (R405). -/
  | audoff
  /-- Races the activation stream against the loaded weights into accumulator entries (R229). -/
  | tscRace
  /-- Turns off triangular masking (R231). -/
  | tscTriOff
  /-- Pushes a tile loop with count KB (R233). -/
  | tscLoopKb
  /-- Advances or pops the innermost tile loop (R233). -/
  | tscEndl
  /-- Waits until the routine's earlier reads and writes have completed (R234). -/
  | tscWaitq
  /-- Ends the routine (R233). -/
  | tscHalt
  /-- Releases gated stores, captures the shadow and commits stream positions before slots issue (R40). -/
  | checkpointBundle
  /-- An absent slot with its REIS bit set re-issues its recorded operation, stepped (R88). -/
  | reissue
  /-- A repeated bundle issues again in the next vc (R89). -/
  | bundleRepetition
  /-- An operation's result lands in its register at vc n + L (R96). -/
  | resultLanding
  /-- The GTC reaches SNAPGTC and fires a trigger (R358). -/
  | snapshotGtcMatch
  /-- The snapshot pin fires a trigger (R358). -/
  | snapshotPin
  /-- Every block's state is latched into its snapshot record at tick S (R358). -/
  | snapshotLatch
  /-- Every 10 µs the package power estimate is formed (R362). -/
  | powerEstimate
  /-- Every 1 ms above 2,400 W the clock is lowered, or raised back (R460). -/
  | powerEmergencyStep
  /-- Every 1 ms a telemetry record is written and TELHEAD incremented (R365). -/
  | telemetryRecord
  /-- At GTC AT the staged relation takes effect (R356). -/
  | ptpCommitApply
  /-- The reset pin starts a cold reset (R357). -/
  | resetPin
  /-- The invalidation completes and GO is cleared (R257). -/
  | invalidationComplete
  /-- A bundle with PRES = 0, and with no CK bit and no re-issue, issues and counts one vc (R86). -/
  | headerOnlyBundle
  /-- Power is applied to the module, which sets RSTSTAT.LAST to 2, clears HPLAN.P11 and then performs a cold reset (R357). -/
  | powerOn
  /-- A held bundle issues once its late requirement is met (R16). -/
  | holdEnd (p : Nat)
  /-- A released SOLO C-space or G-space store performs at a later wall instant (R42). -/
  | storePerform (p i : Nat)
  /-- A fault reported by an engine or routine is delivered to its issuing core (R418). -/
  | lateFaultDelivery (p : Nat)
  /-- A sampled unit is replayed as freewheel and the signatures compared (R408). -/
  | auditReplay (i : Nat) (sig : BitVec 64)
  /-- A launch becomes ready once its edges, earlier phases and context allow (R333). -/
  | launchReady (c lid : Nat)
  /-- The die hub loads images and inputs and starts a unit on a free peloton (R336). -/
  | unitStart (c lid u : Nat)
  /-- A unit retires, counters advance, writes are released and cores offered (R338). -/
  | unitRetire (c lid u : Nat)
  /-- The device hub answers a hub operation and its result lands (R320). -/
  | hubAnswer (i : Nat)
  /-- At T − 1000D the die hub sends a stop request or renews the slice (R340). -/
  | sliceCheck (c lid u : Nat)
  /-- After members stop and engine work completes the unit's state is saved (R342). -/
  | unitSave (c lid u : Nat)
  /-- A pre-empted unit resumes on a free eligible slot from its save record (R343). -/
  | resume (c lid u : Nat)
  /-- A copy-engine operation completes and its timeline advances (R275). -/
  | engineOpComplete (p e : Nat)
  /-- The tile starts the next numbered operation after the previous one completes (R210). -/
  | tileOpStart (q : Nat)
  /-- A numbered tile operation completes and tl2 advances (R209). -/
  | tileOpComplete (q : Nat)
  /-- A collective's results perform at FABRIC scope and tl3 advances (R294). -/
  | collComplete (i : Nat)
  /-- A sent message enters the target's receive queue (R292). -/
  | messageDelivered (i : Nat)
  /-- A tlsig raises the target core's timeline (R287). -/
  | tlsigEffect (i : Nat)
  /-- A mapped vault line is filled from G-space (R259). -/
  | lineFill (q off : Nat)
  /-- A page walk completes and resolves or squashes predicted reads (R256). -/
  | pageWalk (c : Nat) (va : BitVec 56)
  /-- A read port reads an element from the vault (R279). -/
  | streamReadAhead (p e : Nat)
  /-- A write port writes a pushed element to the vault (R279). -/
  | streamWriteDrain (p e : Nat)
  /-- A data-stack controller merges a write and sends the delta to the parity agent (R263). -/
  | hbmWrite (pa : Nat) (data : List (BitVec 8)) (lc : Option (BitVec 4))
  /-- A sector is read, corrected, rebuilt or classed (R428). -/
  | hbmRead (pa : Nat)
  /-- The parity agent applies a journal entry to its parity unit (R263). -/
  | parityUpdate (k : Nat)
  /-- A stack fails, LOST is set and torn sectors are marked (R432). -/
  | stackLost (k : Nat)
  /-- INTV ms after the last round a truing round is due (R202). -/
  | truingIntervalExpiry (q : Nat)
  /-- The tile temperature sensor updates TNOW every 10 µs (R205). -/
  | tempUpdate (q : Nat) (t : BitVec 16)
  /-- The controller starts a truing round at the next routine boundary (R202). -/
  | truingRoundStart (q : Nat)
  /-- A truing run commits its trim words or fails (R201). -/
  | truingRunEnd (q : Nat) (ok : Bool)
  /-- The GTC reaches EVGTC and sets EVT.GTCM (R147). -/
  | gtcMatch (p : Nat)
  /-- A host write of SNAPHW.TRIG fires a snapshot trigger (R358). -/
  | snaphwTrig (party : BitVec 2)
  /-- At each TEMP update the thermal gear and frequency are adjusted (R363). -/
  | thermalStep (d : Nat) (t : BitVec 16)
  /-- A write to FREQ.SET changes the die clock (R361). -/
  | freqSet (party : BitVec 2) (d : Nat) (mhz : BitVec 12)
  /-- A write of RCOMMIT.GO stages a commit of the PTP relation (R356). -/
  | ptpCommit (party : BitVec 2)
  /-- A write of KIND 1 performs a warm reset (R357). -/
  | warmReset (party : BitVec 2)
  /-- A write of KIND 2 performs a cold reset with authentication and truing (R357). -/
  | coldReset (party : BitVec 2)
  /-- Compare-and-swaps a semaphore owner (R348). -/
  | semcas (party : BitVec 2) (v : BitVec 64)
  /-- Changes host routing after routed accesses perform (R349). -/
  | hrouteWrite (party : BitVec 2) (mode : BitVec 2)
  /-- A write of LINKj.VAL forms a link from its ports (R352). -/
  | linkForm (party : BitVec 2) (j : Nat) (val : Bool)
  /-- Starts a translation invalidation of a range (R257). -/
  | tictlGo (party : BitVec 2) (v : BitVec 64)
  /-- Reads a trim word and advances WORD when AINC is 1 (R206). -/
  | trdataRead (q : Nat)
  /-- Writes a trim word and advances WORD when AINC is 1 (R206). -/
  | trdataWrite (q : Nat) (v : BitVec 32)
  /-- A write with GO = 1 starts a job in a free context or is rejected (R323). -/
  | jstart (party : BitVec 2) (v : BitVec 64)
  /-- Takes a V-die offline in orderly fashion with evacuation (R450). -/
  | doffreq (party : BitVec 2) (d : BitVec 3)
  /-- Makes the module viral (R409). -/
  | vforce (party : BitVec 2)
  /-- A missing temperature reading or unanswered mesh links take a die offline (R449). -/
  | dieOfflineTimeout (d : Nat) (mesh : Bool)
  /-- A rail fault takes a die offline abruptly (R449). -/
  | railFault (d : Nat)
  /-- A Waiwell port's training state changes (R352). -/
  | portStateChange (k : Nat) (st : BitVec 2)
  /-- A flit arrives and is delivered in sequence order (R351). -/
  | flitReceived (link : Nat) (seq : BitVec 12) (bad : Bool)
  /-- A port with too many errors or no acknowledgement is shed (R457). -/
  | portShed (k : Nat)
  /-- A viral flit disables the peer and its keys (R410). -/
  | viralFlitReceived (peer : Nat) (key : BitVec 24)
  /-- A peer access is admitted by a key or refused (R353). -/
  | incomingAccess (peer : Nat) (key : BitVec 24) (right : BitVec 2) (off : BitVec 41) (data : List (BitVec 8))
  /-- A host CXL.mem access reads or writes HBM (R347). -/
  | hostMemAccess (wr : Bool) (pa : Nat) (data : List (BitVec 8))
  /-- Writes a BAR0 register that has no row of its own (R473). -/
  | registerWrite (party : BitVec 2) (off : Nat) (data : List (BitVec 8))
  /-- A core reaches a bundle whose header, slot or LGOP is not an instruction or has a nonzero reserved field, or fetches from outside the code ranges, and faults at issue (R414). -/
  | notAnInstruction (cause : BitVec 8) (enc : BitVec 32)
  /-- The tile controller reaches a microstore word that is not an instruction, or runs past word 8,191, and the routine faults (R417). -/
  | tscNotAnInstruction (w : BitVec 32)
  /-- A syswr to EVSET sets EVT.PEER in the named peloton members (R148). -/
  | evset (a : BitVec 5)
  /-- A write of EVGTC arms or disarms the GTC comparison (R147). -/
  | evgtcWrite (a : BitVec 5)
  deriving DecidableEq, Repr

end Sys2Proof
end

