-- ==== Sys2Proof/WellFormed.lean ====
section
/-! DEFINITION. Which instructions have an encoding: the code lists of chapters 04, 06, 08, 10 and 16.
An instruction outside them is no instruction of Quiran (17 R414). -/

namespace Sys2Proof

/-- Element types of the integer forms (06 R160). -/
def etInt (et : BitVec 3) : Bool := 3 ≤ et.toNat && et.toNat ≤ 6
/-- Element types 0 to 6: code 7 names none (04 R94). -/
def etAll (et : BitVec 3) : Bool := et.toNat ≤ 6
/-- Element types of the floating-point forms (06 R162). -/
def etFp (et : BitVec 3) : Bool := et.toNat ≤ 2
/-- Element types of vrand (06 R180). -/
def etRand (et : BitVec 3) : Bool := et == 0 || et == 3
/-- Destination codes of vcvt (06 R165). -/
def codeAny (c : BitVec 5) : Bool :=
  c.toNat ≤ 6 || (8 ≤ c.toNat && c.toNat ≤ 14) || (16 ≤ c.toNat && c.toNat ≤ 18)
/-- Source codes of vcvtm (06 R167). -/
def codeMat (c : BitVec 5) : Bool :=
  (8 ≤ c.toNat && c.toNat ≤ 14) || (16 ≤ c.toNat && c.toNat ≤ 18)
/-- Source codes of vcvt.twq (06 R168). -/
def codeTwq (c : BitVec 5) : Bool := c == 5 || c == 12 || c == 13
/-- Operation codes of vscan (06 R175). -/
def scanOp (c : BitVec 5) : Bool := c.toNat ≤ 2
/-- Lengths of kset with a number (06 R178). -/
def maskLen (n : BitVec 5) : Bool := n.toNat ≤ 16
/-- Key type codes (08 R218; 07 R189). -/
def keyType (t : BitVec 4) : Bool := t.toNat ≤ 8
/-- Selectors of mqry (08 R223). -/
def querySel (s : BitVec 2) : Bool := s != 3
/-- Element widths and group spacings of the vector accesses (10 R271). -/
def widthOk (x : BitVec 2) : Bool := x != 3
/-- Measurement kinds of refrace (08 R227). -/
def refKind (k : BitVec 2) : Bool := k != 3
/-- Parameter registers of the copies that read s[SL+1] (10 R274). -/
def pairReg (r : BitVec 5) : Bool := r != 31
/-- Fence scopes (04 R108). -/
def scopeOk (s : BitVec 3) : Bool := s != 7
/-- Tolerances of cxopen (16 R401). -/
def tolOk (t : BitVec 2) : Bool := t != 3

/-- Does the instruction have an encoding? Machine steps have none and are well formed. -/
def Instr.wf : Instr → Bool
  | .vadd _ _ _ et _ _ | .vsub _ _ _ et _ _ | .vmul _ _ _ et _ _ | .vmulh _ _ _ et _ _
  | .vmin _ _ _ et _ _ | .vmax _ _ _ et _ _ | .vshl _ _ _ et _ _ | .vshr _ _ _ et _ _
  | .vsra _ _ _ et _ _ | .vabs _ _ et _ _ | .vneg _ _ et _ _ | .vcmpEq _ _ _ et _
  | .vcmpNe _ _ _ et _ | .vcmpLt _ _ _ et _ | .vcmpLe _ _ _ et _ | .vcmpGt _ _ _ et _
  | .vcmpGe _ _ _ et _ => etInt et
  | .vand _ _ _ et _ _ | .vor _ _ _ et _ _ | .vxor _ _ _ et _ _ | .vnot _ _ et _ _
  | .vsel _ _ _ _ et _ _ | .vshuf _ _ _ et | .vrot _ _ _ et | .vbcast _ _ _ et
  | .vredadd _ _ et | .vredmax _ _ et | .vredmin _ _ et | .vcompress _ _ et | .vxg _ _ _ et
  | .vxgb _ _ _ _ et | .kand _ _ _ et | .kor _ _ _ et | .kxor _ _ _ et | .knot _ _ et
  | .kset _ _ et | .vmov _ _ et _ _ | .vmovi _ _ et _ | .vmovs _ _ et _ => etAll et
  | .vfadd _ _ _ et _ _ | .vfsub _ _ _ et _ _ | .vfmul _ _ _ et _ _ | .vfma _ _ _ _ et _ _
  | .vfms _ _ _ _ et _ _ | .vfnma _ _ _ _ et _ _ | .vfmin _ _ _ et _ _ | .vfmax _ _ _ et _ _
  | .vfabs _ _ et _ _ | .vfneg _ _ et _ _ | .vfcmpEq _ _ _ et _ | .vfcmpNe _ _ _ et _
  | .vfcmpLt _ _ _ et _ | .vfcmpLe _ _ _ et _ | .vfcmpGt _ _ _ et _ | .vfcmpGe _ _ _ et _
  | .vfrcp _ _ et _ _ | .vfrsq _ _ et _ _ | .vfexp2 _ _ et _ _ | .vflog2 _ _ et _ _
  | .vftanh _ _ et _ _ | .vfsigm _ _ et _ _ | .vbfpi _ _ et | .vbfpo _ _ et
  | .vscale _ _ _ et _ _ => etFp et
  | .vcvt _ _ c et _ _ => etAll et && codeAny c
  | .vcvtm _ _ c et _ _ => etAll et && codeMat c
  | .vcvtTwq _ _ _ c _ _ => codeTwq c
  | .vscan _ _ op et => scanOp op && etAll et
  | .ksetN _ n et => maskLen n && etAll et
  | .vrand _ et => etRand et
  | .mrmin _ _ t _ | .mrmax _ _ t _ | .mrank _ _ t _ | .mtopk _ _ t _ _ => keyType t
  | .mqry _ s _ => querySel s
  | .vld _ _ _ w g _ _ | .vst _ _ _ w g _ _ | .vldInv _ _ _ w g _ _ => widthOk w && widthOk g
  | .vldx _ _ _ _ w _ | .vstx _ _ _ _ w _ => widthOk w
  | .cpys _ _ sl _ _ | .cpyg _ _ sl _ _ | .cpysc _ _ sl _ _ | .cpySum _ _ sl _ _
  | .cpyFill _ sl _ _ => pairReg sl
  | .fence s | .fenceAcq s | .fenceRel s => scopeOk s
  | .cxopen _ t _ _ => tolOk t
  | .tscRmin _ _ t _ | .tscRmax _ _ t _ | .tscRank _ _ t _ | .tscTopk _ _ t _ _ => keyType t
  | .tscRefrace _ _ k => refKind k
  | _ => true

end Sys2Proof
end

