-- ==== Sys2Proof/Decode.lean ====
section
/-! DEFINITION. Decoding and encoding: bundles (04 R84 to R93), S slot words (04 R103, R104), LGOPs
(04 R94, R105), M slot words (04 R106), C slot words (04 R107) and tile stream code (04 R109). Total
on any word; a word that is no instruction is rejected by the name of its cause (17 R414). -/

namespace Sys2Proof

/-- Why a word is not an instruction (17 R414, causes 0x01 to 0x0A in order). -/
inductive NotInstr where
  | header | pslot | sOpcode | sReserved | lgopOpcode | lgopField | mslot | cOpcode | cField | tscWord
  deriving DecidableEq, Repr

/-- The CAUSE code of 17 R414. -/
def NotInstr.cause : NotInstr → BitVec 8
  | .header => 0x01 | .pslot => 0x02 | .sOpcode => 0x03 | .sReserved => 0x04 | .lgopOpcode => 0x05
  | .lgopField => 0x06 | .mslot => 0x07 | .cOpcode => 0x08 | .cField => 0x09 | .tscWord => 0x0A

/-- What a decoder answers. -/
abbrev Decoded := Except NotInstr Instr

/-- `i` if the condition on its reserved fields and codes holds, else the named rejection. -/
def need (c : Bool) (e : NotInstr) (i : Instr) : Decoded := if c then .ok i else .error e

/-- A field of a word: `n` bits from bit `lo`. -/
abbrev fld (w : BitVec 32) (lo n : Nat) : BitVec n := w.extractLsb' lo n

/-- A one-bit field. -/
abbrev flag (w : BitVec 32) (lo : Nat) : Bool := w.getLsbD lo

/-! ### S slot (04 R103, R104; 05; 12 R325 to R341) -/

/-- Forms of major 0x01 (04 R104, 05 R119). -/
def decodeOp (w : BitVec 32) : Decoded :=
  let d := fld w 21 5; let a := fld w 16 5; let b := fld w 11 5
  let hi := fld w 6 5
  let bin := fun (i : Instr) => need (hi == 0) .sReserved i
  let un := fun (i : Instr) => need (hi == 0 && b == 0) .sReserved i
  let ext := fun (x y z : Instr) =>
    match (fld w 6 2).toNat with
    | 0 => need (fld w 8 3 == 0 && b == 0) .sReserved x
    | 1 => need (fld w 8 3 == 0 && b == 0) .sReserved y
    | 2 => need (fld w 8 3 == 0 && b == 0) .sReserved z
    | _ => .error .sOpcode
  match (fld w 0 6).toNat with
  | 0 => bin (.add d a b)
  | 1 => bin (.sub d a b)
  | 2 => bin (.and d a b)
  | 3 => bin (.or d a b)
  | 4 => bin (.xor d a b)
  | 5 => bin (.sll d a b)
  | 6 => bin (.srl d a b)
  | 7 => bin (.sra d a b)
  | 8 => bin (.mul d a b)
  | 9 => bin (.mulh d a b)
  | 10 => bin (.mulhu d a b)
  | 11 => bin (.div d a b)
  | 12 => bin (.divu d a b)
  | 13 => bin (.rem d a b)
  | 14 => bin (.remu d a b)
  | 15 => bin (.min d a b)
  | 16 => bin (.max d a b)
  | 17 => bin (.minu d a b)
  | 18 => bin (.maxu d a b)
  | 19 => bin (.slt d a b)
  | 20 => bin (.sltu d a b)
  | 21 => un (.clz d a)
  | 22 => un (.ctz d a)
  | 23 => un (.popc d a)
  | 24 => ext (.sextB d a) (.sextH d a) (.sextW d a)
  | 25 => ext (.zextB d a) (.zextH d a) (.zextW d a)
  | _ => .error .sOpcode

/-- Forms of major 0x0B (05 R123). -/
def decodeAdr (w : BitVec 32) : Decoded :=
  let d := fld w 21 5; let a := fld w 16 5; let b := fld w 11 5
  let z := fld w 6 5 == 0
  match (fld w 0 6).toNat with
  | 0 => need (z && !flag w 25 && !flag w 20) .sReserved (.aadd (fld w 21 4) (fld w 16 4) b)
  | 1 => need (z && !flag w 25 && !flag w 20 && b == 0) .sReserved (.amov (fld w 21 4) (fld w 16 4))
  | 2 => need (z && !flag w 20 && b == 0) .sReserved (.movsa d (fld w 16 4))
  | 3 => need (z && !flag w 25 && b == 0) .sReserved (.movas (fld w 21 4) a)
  | _ => .error .sOpcode

/-- Forms of major 0x0D (05 R124). -/
def decodeCmp (w : BitVec 32) : Decoded :=
  let p := fld w 21 3; let a := fld w 16 5; let b := fld w 11 5
  let z := fld w 6 5 == 0 && fld w 24 2 == 0
  match (fld w 0 6).toNat with
  | 0 => need z .sReserved (.cmpEq p a b)
  | 1 => need z .sReserved (.cmpNe p a b)
  | 2 => need z .sReserved (.cmpLt p a b)
  | 3 => need z .sReserved (.cmpGe p a b)
  | 4 => need z .sReserved (.cmpLtu p a b)
  | 5 => need z .sReserved (.cmpGeu p a b)
  | _ => .error .sOpcode

/-- Forms of major 0x0E (05 R124). -/
def decodePrd (w : BitVec 32) : Decoded :=
  let d := fld w 21 3; let a := fld w 16 3; let b := fld w 11 3
  let z := fld w 6 5 == 0 && fld w 24 2 == 0 && fld w 19 2 == 0 && fld w 14 2 == 0
  match (fld w 0 6).toNat with
  | 0 => need z .sReserved (.pand d a b)
  | 1 => need z .sReserved (.por d a b)
  | 2 => need (z && b == 0) .sReserved (.pnot d a)
  | _ => .error .sOpcode

/-- Hub forms, majors 0x30 to 0x37 (12 R325 to R341): FUNC[5:0] selects the form, and FUNC[10:6] not 0
is a reserved field (17 R414). -/
def decodeHub (major : Nat) (w : BitVec 32) : Decoded :=
  let d := fld w 21 5; let a := fld w 16 5; let b := fld w 11 5
  let z := fld w 6 5 == 0
  match major, (fld w 0 6).toNat with
  | 0x30, 0 => need (z && b == 0) .sReserved (.hlaunch d a)
  | 0x30, 1 => need (z && d == 0 && b == 0) .sReserved (.hlaunchSealg a)
  | 0x30, 2 => need (z && d == 0 && a == 0 && b == 0) .sReserved .hlaunchSealp
  | 0x30, 3 => need (z && d == 0 && a == 0 && b == 0) .sReserved .hlaunchEnd
  | 0x31, f => need (z && f == 0) .sReserved (.hwaitc d a b)
  | 0x32, f => need (z && f == 0 && d == 0 && b == 0) .sReserved (.hcancel a)
  | 0x33, 0 => need (z && d == 0) .sReserved (.hsetc a b)
  | 0x33, 1 => need (z && d == 0) .sReserved (.hsetcAdd a b)
  | 0x34, 0 => need (z && b == 0) .sReserved (.hreadc d a)
  | 0x34, 1 => need (z && b == 0) .sReserved (.hreadcSt d a)
  | 0x35, 0 => need (z && d == 0 && b == 0) .sReserved (.hstop a)
  | 0x35, 1 => need (z && d == 0) .sReserved (.hstopU a b)
  | 0x36, 0 => need (z && b == 0) .sReserved (.hctx d a)
  | 0x36, 1 => need (z && d == 0 && b == 0) .sReserved (.hctxKill a)
  | 0x36, 2 => need (z && d == 0 && b == 0) .sReserved (.hctxHold a)
  | 0x36, 3 => need (z && d == 0 && b == 0) .sReserved (.hctxRun a)
  | 0x37, 0 => need z .sReserved (.hdeal d a b)
  | 0x37, 1 => need (z && b == 0) .sReserved (.hdealE d a)
  | 0x37, 2 => need (z && d == 0) .sReserved (.hdealRing a b)
  | _, _ => .error .sOpcode

/-- The S slot (04 R103). -/
def decodeS (w : BitVec 32) : Decoded :=
  let d := fld w 21 5; let a := fld w 16 5
  let imm := fld w 0 16; let a4 := fld w 16 4; let aok := !flag w 20
  let W := flag w 12; let t := fld w 0 12
  let rest := fld w 0 26 == 0
  let sh := fun (i : Instr) => need (fld w 6 10 == 0) .sReserved i
  match (fld w 26 6).toNat with
  | 0x00 => need rest .sReserved .nop
  | 0x01 => decodeOp w
  | 0x02 => .ok (.addi d a imm)
  | 0x03 => .ok (.andi d a imm)
  | 0x04 => .ok (.ori d a imm)
  | 0x05 => .ok (.xori d a imm)
  | 0x06 => sh (.slli d a (fld w 0 6))
  | 0x07 => sh (.srli d a (fld w 0 6))
  | 0x08 => sh (.srai d a (fld w 0 6))
  | 0x09 => .ok (.slti d a imm)
  | 0x0A => .ok (.lih d a imm)
  | 0x0B => decodeAdr w
  | 0x0C => need (aok && !flag w 25) .sReserved (.aaddi (fld w 21 4) a4 imm)
  | 0x0D => decodeCmp w
  | 0x0E => decodePrd w
  | 0x10 => need (fld w 13 13 == 0) .sReserved (.br W t)
  | 0x11 => need (fld w 13 9 == 0) .sReserved
      (if flag w 22 then .brpN (fld w 23 3) W t else .brp (fld w 23 3) W t)
  | 0x12 => need (fld w 13 8 == 0) .sReserved (.call d W t)
  | 0x13 => need (fld w 0 21 == 0) .sReserved (.ret d)
  | 0x14 => need (fld w 13 8 == 0) .sReserved (.loop d W t)
  | 0x15 => need (fld w 13 13 == 0) .sReserved (.bswap W t)
  | 0x16 => need rest .sReserved .halt
  | 0x18 => need aok .sReserved (.sldB d a4 imm)
  | 0x19 => need aok .sReserved (.sldH d a4 imm)
  | 0x1A => need aok .sReserved (.sldW d a4 imm)
  | 0x1B => need aok .sReserved (.sldD d a4 imm)
  | 0x1C => need aok .sReserved (.sstB d a4 imm)
  | 0x1D => need aok .sReserved (.sstH d a4 imm)
  | 0x1E => need aok .sReserved (.sstW d a4 imm)
  | 0x1F => need aok .sReserved (.sstD d a4 imm)
  | 0x20 => need (aok && !flag w 0) .sReserved
      (.gld d a4 (fld w 5 11) (fld w 3 2) (flag w 2) (flag w 1))
  | 0x21 => need (aok && !flag w 0 && !flag w 1) .sReserved (.gst d a4 (fld w 5 11) (fld w 3 2) (flag w 2))
  | 0x22 => need (fld w 24 2 == 0 && fld w 0 16 == 0) .sReserved (.msetp (fld w 21 3) a)
  | 0x23 => need (fld w 19 2 == 0 && fld w 0 16 == 0) .sReserved (.mgetp d (fld w 16 3))
  | 0x24 => need (d == 0 && fld w 0 16 == 0) .sReserved (.setfmt a)
  | 0x25 => need (d == 0 && fld w 0 16 == 0) .sReserved (.setmpc a)
  | 0x26 => need (fld w 0 21 == 0) .sReserved (.getmpc d)
  | 0x28 => need (a == 0) .sReserved (.sysrd d imm)
  | 0x29 => need (d == 0) .sReserved (.syswr imm a)
  | 0x2A => need (fld w 16 10 == 0) .sReserved (.trap imm)
  | 0x2B => need rest .sReserved .tret
  | 0x2C => need rest .sReserved .ifence
  | 0x2D => need (fld w 8 18 == 0) .sReserved (.snap (fld w 0 8))
  | 0x2E => need rest .sReserved .wfe
  | 0x30 => decodeHub 0x30 w
  | 0x31 => decodeHub 0x31 w
  | 0x32 => decodeHub 0x32 w
  | 0x33 => decodeHub 0x33 w
  | 0x34 => decodeHub 0x34 w
  | 0x35 => decodeHub 0x35 w
  | 0x36 => decodeHub 0x36 w
  | 0x37 => decodeHub 0x37 w
  | _ => .error .sOpcode

/-! ### LGOPs (04 R94, R105; 06) -/

/-- An LGOP (04 R94). ET lists, reserved fields and OPX bits are those of 06 R156 to R180. -/
def decodeLgop (w : BitVec 32) : Decoded :=
  let d := fld w 20 5; let a := fld w 15 5; let b := fld w 10 5; let c := fld w 5 5
  let et := fld w 2 3; let qd := flag w 0; let qa := flag w 1
  let kd := fld w 20 3; let ka := fld w 15 3; let kb := fld w 10 3
  let kdz := fld w 23 2 == 0; let kaz := fld w 18 2 == 0; let kbz := fld w 13 2 == 0
  let bz := b == 0; let cz := c == 0; let noq := fld w 0 2 == 0
  let ok := fun (x : Bool) (i : Instr) => need x .lgopField i
  match (fld w 25 7).toNat with
  | 0x00 => ok (fld w 0 25 == 0) .vnop
  | 0x01 => ok (cz && etInt et) (.vadd d a b et qd qa)
  | 0x02 => ok (cz && etInt et) (.vsub d a b et qd qa)
  | 0x03 => ok (cz && etInt et) (.vmul d a b et qd qa)
  | 0x04 => ok (cz && etInt et) (.vmulh d a b et qd qa)
  | 0x05 => ok (cz && etInt et) (.vmin d a b et qd qa)
  | 0x06 => ok (cz && etInt et) (.vmax d a b et qd qa)
  | 0x07 => ok (cz && etAll et) (.vand d a b et qd qa)
  | 0x08 => ok (cz && etAll et) (.vor d a b et qd qa)
  | 0x09 => ok (cz && etAll et) (.vxor d a b et qd qa)
  | 0x0A => ok (bz && cz && etAll et) (.vnot d a et qd qa)
  | 0x0B => ok (cz && etInt et) (.vshl d a b et qd qa)
  | 0x0C => ok (cz && etInt et) (.vshr d a b et qd qa)
  | 0x0D => ok (cz && etInt et) (.vsra d a b et qd qa)
  | 0x0E => ok (bz && cz && etInt et) (.vabs d a et qd qa)
  | 0x0F => ok (bz && cz && etInt et) (.vneg d a et qd qa)
  | 0x10 => ok (fld w 8 2 == 0 && etAll et) (.vsel d a b (fld w 5 3) et qd qa)
  | 0x11 => ok (kdz && cz && !qd && etInt et) (.vcmpEq kd a b et qa)
  | 0x12 => ok (kdz && cz && !qd && etInt et) (.vcmpNe kd a b et qa)
  | 0x13 => ok (kdz && cz && !qd && etInt et) (.vcmpLt kd a b et qa)
  | 0x14 => ok (kdz && cz && !qd && etInt et) (.vcmpLe kd a b et qa)
  | 0x15 => ok (kdz && cz && !qd && etInt et) (.vcmpGt kd a b et qa)
  | 0x16 => ok (kdz && cz && !qd && etInt et) (.vcmpGe kd a b et qa)
  | 0x20 => ok (cz && etFp et) (.vfadd d a b et qd qa)
  | 0x21 => ok (cz && etFp et) (.vfsub d a b et qd qa)
  | 0x22 => ok (cz && etFp et) (.vfmul d a b et qd qa)
  | 0x23 => ok (etFp et) (.vfma d a b c et qd qa)
  | 0x24 => ok (etFp et) (.vfms d a b c et qd qa)
  | 0x25 => ok (etFp et) (.vfnma d a b c et qd qa)
  | 0x26 => ok (cz && etFp et) (.vfmin d a b et qd qa)
  | 0x27 => ok (cz && etFp et) (.vfmax d a b et qd qa)
  | 0x28 => ok (bz && cz && etFp et) (.vfabs d a et qd qa)
  | 0x29 => ok (bz && cz && etFp et) (.vfneg d a et qd qa)
  | 0x2A => ok (kdz && cz && !qd && etFp et) (.vfcmpEq kd a b et qa)
  | 0x2B => ok (kdz && cz && !qd && etFp et) (.vfcmpNe kd a b et qa)
  | 0x2C => ok (kdz && cz && !qd && etFp et) (.vfcmpLt kd a b et qa)
  | 0x2D => ok (kdz && cz && !qd && etFp et) (.vfcmpLe kd a b et qa)
  | 0x2E => ok (kdz && cz && !qd && etFp et) (.vfcmpGt kd a b et qa)
  | 0x2F => ok (kdz && cz && !qd && etFp et) (.vfcmpGe kd a b et qa)
  | 0x30 => ok (bz && cz && etFp et) (.vfrcp d a et qd qa)
  | 0x31 => ok (bz && cz && etFp et) (.vfrsq d a et qd qa)
  | 0x32 => ok (bz && cz && etFp et) (.vfexp2 d a et qd qa)
  | 0x33 => ok (bz && cz && etFp et) (.vflog2 d a et qd qa)
  | 0x34 => ok (bz && cz && etFp et) (.vftanh d a et qd qa)
  | 0x35 => ok (bz && cz && etFp et) (.vfsigm d a et qd qa)
  | 0x40 => ok (bz && etAll et && codeAny c) (.vcvt d a c et qd qa)
  | 0x41 => ok (et == 0 && codeTwq c) (.vcvtTwq d a b c qd qa)
  | 0x42 => ok (bz && etAll et && codeMat c) (.vcvtm d a c et qd qa)
  | 0x43 => ok (bz && cz && noq && etFp et) (.vbfpi d a et)
  | 0x44 => ok (bz && cz && noq && etFp et) (.vbfpo d a et)
  | 0x45 => ok (cz && etFp et) (.vscale d a b et qd qa)
  | 0x50 => ok (cz && noq && etAll et) (.vshuf d a b et)
  | 0x51 => ok (bz && !flag w 9 && noq && etAll et) (.vrot d a (fld w 5 4) et)
  | 0x52 => ok (bz && !flag w 9 && noq && etAll et) (.vbcast d a (fld w 5 4) et)
  | 0x53 => ok (bz && cz && noq && etAll et) (.vredadd d a et)
  | 0x54 => ok (bz && cz && noq && etAll et) (.vredmax d a et)
  | 0x55 => ok (bz && cz && noq && etAll et) (.vredmin d a et)
  | 0x56 => ok (bz && scanOp c && noq && etAll et) (.vscan d a c et)
  | 0x57 => ok (bz && cz && noq && etAll et) (.vcompress d a et)
  | 0x58 => ok (kbz && cz && noq && etAll et) (.vxg d a kb et)
  | 0x59 => ok (kbz && !flag w 9 && noq && etAll et) (.vxgb d a kb (fld w 5 4) et)
  | 0x60 => ok (kdz && kaz && kbz && cz && noq && etAll et) (.kand kd ka kb et)
  | 0x61 => ok (kdz && kaz && kbz && cz && noq && etAll et) (.kor kd ka kb et)
  | 0x62 => ok (kdz && kaz && kbz && cz && noq && etAll et) (.kxor kd ka kb et)
  | 0x63 => ok (kdz && kaz && bz && cz && noq && etAll et) (.knot kd ka et)
  | 0x64 => ok (kaz && bz && cz && noq && et == 3) (.kpopc d ka)
  | 0x65 => if qa then .error .lgopField
      else if qd then ok (kdz && a == 0 && bz && maskLen c && etAll et) (.ksetN kd c et)
      else ok (kdz && bz && cz && etAll et) (.kset kd a et)
  | 0x68 => ok (bz && cz && etAll et) (.vmov d a et qd qa)
  | 0x69 => ok (!qa && etAll et) (.vmovi d (fld w 5 15) et qd)
  | 0x6A => ok (bz && cz && !qa && etAll et) (.vmovs d a et qd)
  | 0x6C =>
    match qa, qd with
    | false, false => ok (a == 0 && bz && cz && etRand et) (.vrand d et)
    | false, true => ok (d == 0 && bz && cz && et == 0) (.vrandSeed a)
    | true, false => ok (a == 0 && bz && cz && et == 3) (.vrandGet d)
    | true, true => .error .lgopOpcode
  | _ => .error .lgopOpcode

/-! ### M slot (04 R106; 08 R216 to R223) -/

/-- The M slot. -/
def decodeM (w : BitVec 32) : Decoded :=
  let d := fld w 23 5; let a := fld w 18 5; let ty := fld w 14 4; let n := fld w 7 7
  let race := fun (i : Instr) => need (keyType ty && fld w 0 7 == 0) .mslot i
  match (fld w 28 4).toNat with
  | 0x1 => need (fld w 0 18 == 0) .mslot (.mcall (fld w 18 10))
  | 0x2 => race (.mrmin d a ty n)
  | 0x3 => race (.mrmax d a ty n)
  | 0x4 => race (.mrank d a ty n)
  | 0x5 => need (keyType ty) .mslot (.mtopk d a ty n (fld w 0 7))
  | 0x6 => need (fld w 0 24 == 0) .mslot (.mspill (fld w 24 4))
  | 0x7 => need (fld w 0 24 == 0) .mslot (.mfill (fld w 24 4))
  | 0x8 => need (fld w 0 28 == 0) .mslot .mtrue
  | 0x9 => need (fld w 0 28 == 0) .mslot .mfence
  | 0xA => need (querySel (fld w 21 2) && fld w 0 20 == 0) .mslot (.mqry d (fld w 21 2) (flag w 20))
  | _ => .error .mslot

/-! ### C slot (04 R107; 10; 16 R401, R405) -/

/-- Copies, code 0x06 (10 R274). -/
def decodeCopy (w : BitVec 32) : Decoded :=
  let ad := fld w 23 4; let as := fld w 16 4; let sl := fld w 11 5; let sn := fld w 6 5
  let e := flag w 5; let z := fld w 0 5 == 0
  let two := fun (i : Instr) => if sl = 31 then .error .cOpcode else need z .cField i
  match (fld w 20 3).toNat with
  | 0 => need z .cField (.cpy ad as sl sn e)
  | 1 => two (.cpys ad as sl sn e)
  | 2 => two (.cpyg ad as sl sn e)
  | 3 => two (.cpysc ad as sl sn e)
  | 4 => two (.cpySum ad as sl sn e)
  | 5 => if sl = 31 then .error .cOpcode else need (z && as == 0) .cField (.cpyFill ad sl sn e)
  | _ => .error .cOpcode

/-- Integer atomics, code 0x0A (10 R282). -/
def decodeAtom (w : BitVec 32) : Decoded :=
  let a := fld w 23 4; let d := fld w 15 5; let ss := fld w 10 5; let sc := fld w 5 5
  let wd := flag w 4; let u := flag w 3; let sem := fld w 1 2
  let plain := fun (i : Instr) => need (sc == 0 && !u && !flag w 0) .cField i
  let mm := fun (i : Instr) => need (sc == 0 && !flag w 0) .cField i
  match (fld w 20 3).toNat with
  | 0 => plain (.atomAdd d a ss wd sem)
  | 1 => mm (.atomMin d a ss wd u sem)
  | 2 => mm (.atomMax d a ss wd u sem)
  | 3 => plain (.atomAnd d a ss wd sem)
  | 4 => plain (.atomOr d a ss wd sem)
  | 5 => plain (.atomXor d a ss wd sem)
  | 6 => plain (.atomSwap d a ss wd sem)
  | _ => need (!u && !flag w 0) .cField (.atomCas d a ss sc wd sem)

/-- The C slot. -/
def decodeC (w : BitVec 32) : Decoded :=
  let a := fld w 23 4; let az := a == 0
  let v := fld w 18 5; let ms := fld w 15 3; let wid := fld w 13 2; let gsc := fld w 11 2
  let pi := flag w 10; let off := fld w 0 10
  let r19 := fld w 15 5; let q := fld w 20 3; let qz := q == 0
  let vec := fun (i : Instr) => if wid = 3 ∨ gsc = 3 then .error .cOpcode else .ok i
  let idx := fun (i : Instr) =>
    if fld w 8 2 = 3 then .error .cOpcode else need (fld w 0 6 == 0) .cField i
  let fnc := fun (i : Instr) => need (az && fld w 0 18 == 0) .cField i
  match (fld w 27 5).toNat with
  | 0x01 => vec (.vld v a ms wid gsc pi off)
  | 0x02 => vec (.vst v a ms wid gsc pi off)
  | 0x03 => vec (.vldInv v a ms wid gsc pi off)
  | 0x04 => idx (.vldx v (fld w 13 5) a (fld w 10 3) (fld w 8 2) (fld w 6 2))
  | 0x05 => idx (.vstx v (fld w 13 5) a (fld w 10 3) (fld w 8 2) (fld w 6 2))
  | 0x06 => decodeCopy w
  | 0x07 => need (fld w 0 20 == 0) .cField (.bind q a)
  | 0x08 => need (az && fld w 0 20 == 0) .cField (.unbind q)
  | 0x09 => need (az && fld w 0 15 == 0) .cField (.qstat v (fld w 15 3))
  | 0x0A => decodeAtom w
  | 0x0B => need (fld w 15 8 == 0 && fld w 0 9 == 0) .cField (.atomFadd a (fld w 10 5) (flag w 9))
  | 0x0C => need (qz && fld w 0 12 == 0) .cField (.wcinit a (fld w 12 8))
  | 0x0D => need (qz && fld w 0 14 == 0) .cField (.wcread r19 a (flag w 14))
  | 0x0E => need (az && fld w 0 15 == 0) .cField (.tlwait q r19)
  | 0x0F => need (az && fld w 0 15 == 0) .cField (.tlread r19 q)
  | 0x10 => need (az && fld w 0 15 == 0) .cField (.tladv q r19)
  | 0x11 => need (fld w 0 15 == 0) .cField (.tlsig q r19 a)
  | 0x12 => if q = 7 then .error .cOpcode else
      match (fld w 18 2).toNat with
      | 0 => fnc (.fence q)
      | 1 => fnc (.fenceAcq q)
      | 2 => fnc (.fenceRel q)
      | _ => .error .cOpcode
  | 0x13 => if flag w 22 then need (az && fld w 0 16 == 0) .cField (.drainPathStreams (fld w 17 5) (flag w 16))
      else need (fld w 0 16 == 0) .cField (.drainPath a (fld w 17 5) (flag w 16))
  | 0x14 => need (fld w 0 14 == 0) .cField (.mapreg q a r19 (flag w 14))
  | 0x15 => need (az && fld w 0 14 == 0) .cField (.unmapreg q r19 (flag w 14))
  | 0x16 => need (az && fld w 0 14 == 0) .cField (.wbreg q r19 (flag w 14))
  | 0x17 => need (qz && fld w 0 9 == 0) .cField (.touch a r19 (fld w 10 5) (flag w 9))
  | 0x18 => need (qz && fld w 0 6 == 0) .cField (.send a r19 (fld w 12 3) (fld w 7 5) (flag w 6))
  | 0x19 => need (qz && fld w 0 15 == 0) .cField (.recv r19 a)
  | 0x1A => need (qz && fld w 0 15 == 0) .cField (.coll r19 a)
  | 0x1B => if fld w 21 2 = 3 then .error .cOpcode else
      need (fld w 0 8 == 0) .cField (.cxopen a (fld w 21 2) (flag w 20) (fld w 8 12))
  | 0x1C => need (fld w 0 27 == 0) .cField .cxclose
  | 0x1D =>
    match q.toNat with
    | 0 => need (az && fld w 0 15 == 0) .cField (.audmark r19)
    | 1 => need (az && r19 == 0 && fld w 0 15 == 0) .cField .audoff
    | 2 => need (az && fld w 0 15 == 0) .cField (.tcheck r19)
    | _ => .error .cOpcode
  | _ => .error .cOpcode

/-! ### Tile stream code (04 R109; 08 R227) -/

/-- One TSC word. -/
def decodeTsc (w : BitVec 32) : Decoded :=
  let a := fld w 22 4; let b := fld w 18 4
  let ok := fun (x : Bool) (i : Instr) => need x .tscWord i
  let one := fun (i : Instr) => ok (fld w 0 22 == 0) i
  let none26 := fun (i : Instr) => ok (fld w 0 26 == 0) i
  match (fld w 26 6).toNat with
  | 0x01 => one (.tscWld a)
  | 0x02 => one (.tscWconv a)
  | 0x03 => one (.tscXstr a)
  | 0x04 => none26 .tscRace
  | 0x05 => one (.tscAccmode a)
  | 0x06 => one (.tscAccsel a)
  | 0x07 => one (.tscHandoff a)
  | 0x08 => if flag w 0 then ok (fld w 1 17 == 0) (.tscTri a b) else none26 .tscTriOff
  | 0x09 => ok (fld w 6 20 == 0) (.tscSkip (fld w 0 6))
  | 0x0A =>
    match (fld w 24 2).toNat with
    | 0 => ok (fld w 16 8 == 0) (.tscLoopImm (fld w 0 16))
    | 1 => ok (fld w 22 2 == 0 && fld w 0 18 == 0) (.tscLoopReg b)
    | 2 => ok (fld w 0 24 == 0) .tscLoopKb
    | _ => .error .tscWord
  | 0x0B => none26 .tscEndl
  | 0x0C => ok (fld w 13 2 == 0) (.tscBrc a (fld w 16 6) (flag w 15) (fld w 0 13))
  | 0x0D => if flag w 17 then ok (!flag w 16 && fld w 0 12 == 0) (.tscSetpReg a b (fld w 12 4))
      else if flag w 16 then .ok (.tscSetpHi a b (fld w 0 16)) else .ok (.tscSetp a b (fld w 0 16))
  | 0x0E => none26 .tscWaitq
  | 0x0F => one (.tscEmit a)
  | 0x10 => ok (keyType (fld w 14 4) && fld w 0 7 == 0) (.tscRmin a b (fld w 14 4) (fld w 7 7))
  | 0x11 => ok (keyType (fld w 14 4) && fld w 0 7 == 0) (.tscRmax a b (fld w 14 4) (fld w 7 7))
  | 0x12 => ok (keyType (fld w 14 4) && fld w 0 7 == 0) (.tscRank a b (fld w 14 4) (fld w 7 7))
  | 0x13 => ok (keyType (fld w 14 4)) (.tscTopk a b (fld w 14 4) (fld w 7 7) (fld w 0 7))
  | 0x14 => ok (fld w 0 18 == 0) (.tscTrimrd a b)
  | 0x15 => ok (fld w 0 18 == 0) (.tscTrimwr a b)
  | 0x16 => ok (refKind (fld w 16 2) && fld w 0 16 == 0) (.tscRefrace a b (fld w 16 2))
  | 0x17 => none26 .tscHalt
  | _ => .error .tscWord

/-! ### Bundles (04 R84 to R93) -/

/-- A bundle taken apart: header fields, the prefix, and the slots present by slot code (17 R413). -/
structure Bundle where
  len   : Nat
  header : BitVec 32
  qp    : Bool
  ck    : Bool
  reis  : BitVec 5
  rpt   : Nat
  pslot : Option (BitVec 16)
  slots : List (Nat × BitVec 32)
  deriving DecidableEq, Repr

/-- The slots of 04 R85 in order: presence bit, slot code, width. -/
def slotOrder : List (Nat × Nat × Nat) :=
  [(0, 1, 16), (1, 2, 32), (2, 3, 16), (3, 4, 16), (4, 5, 32), (5, 6, 32), (6, 7, 32)]

/-- Does the header's PRES field have bit `k`? -/
def present (h : BitVec 32) (k : Nat) : Bool := h.getLsbD k

/-- Bits of the bundle whose header is `h`, less any fill. -/
def bundleBits (h : BitVec 32) : Nat :=
  slotOrder.foldl (fun n s => if present h s.1 then n + s.2.2 else n) 32

/-- Words of the bundle whose header is `h`, from 1 to 7 (04 R85). -/
def bundleLen (h : BitVec 32) : Nat := (bundleBits h + 31) / 32

/-- The bundle's words as one bit string (04 R85). -/
def bundleString : List (BitVec 32) → BitVec 224
  | [] => 0
  | w :: ws => (bundleString ws <<< 32) ||| w.setWidth 224

/-- The slots from bit `pos` of the string on. -/
def takeSlots (h : BitVec 32) (bb : BitVec 224) : List (Nat × Nat × Nat) → Nat → List (Nat × BitVec 32)
  | [], _ => []
  | (k, code, n) :: rest, pos =>
    if present h k then (code, (bb.extractLsb' pos n).setWidth 32) :: takeSlots h bb rest (pos + n)
    else takeSlots h bb rest pos

/-- A bundle from its words, the header first (04 R84, R85; 17 R414 cause 0x01). -/
def decodeBundle (ws : List (BitVec 32)) : Except NotInstr Bundle :=
  match ws with
  | [] => .error .header
  | h :: _ =>
    let n := bundleLen h
    let bb := bundleString (ws.take n)
    let fill := (bb >>> bundleBits h).toNat
    if fld h 28 4 = 0xA ∧ fld h 20 8 = 0 ∧ (flag h 19 → flag h 18) ∧ fill = 0 then
      let ss := takeSlots h bb slotOrder 32
      .ok { len := n, header := h, qp := flag h 19, ck := flag h 18, reis := fld h 13 5,
            rpt := (fld h 7 6).toNat,
            pslot := (ss.find? (fun s => s.1 == 1)).map (fun s => s.2.setWidth 16),
            slots := ss.filter (fun s => s.1 != 1) }
    else .error .header

/-- Is a P slot legal (04 R90, 17 R414 cause 0x02)? -/
def pslotOk (p : BitVec 16) : Bool :=
  p.extractLsb' 6 10 == 0 && (p.extractLsb' 0 3).ult 6 && p.extractLsb' 3 2 != 3

/-- The instruction in an S, M or C slot word by slot code. -/
def decodeSlot (code : Nat) (w : BitVec 32) : Decoded :=
  match code with
  | 2 => decodeS w
  | 5 => decodeM w
  | _ => decodeC w

/-- The words of a natural number, lowest first. -/
def wordsOf : Nat → Nat → List (BitVec 32)
  | 0, _ => []
  | k + 1, w => BitVec.ofNat 32 w :: wordsOf k (w / 4294967296)

/-- The instruction that the decoder reads from a table word: a bundle where the header's format
code stands (its only slot's operation, or the bundle's own step), else a word of tile stream code. -/
def decodeTableWord (_nbits w : Nat) : Option Instr :=
  let ws := wordsOf 7 w
  if fld (BitVec.ofNat 32 w) 28 4 = 0xA then
    match decodeBundle ws with
    | .error _ => none
    | .ok b =>
      match b.slots with
      | [] => some (if b.ck then .checkpointBundle else .headerOnlyBundle)
      | [(code, x)] => if code = 3 ∨ code = 4 then none else (decodeSlot code x).toOption
      | _ => none
  else (decodeTsc (BitVec.ofNat 32 w)).toOption

/-! ### Encoding, from the same tables -/

/-- Format SR (04 R103): major, rd, rs1, rs2, FUNC. -/
def encSR (m : BitVec 6) (d a b : BitVec 5) (f : BitVec 11) : BitVec 32 := m ++ d ++ a ++ b ++ f
/-- Format SI: major, rd, rs1, imm16. -/
def encSI (m : BitVec 6) (d a : BitVec 5) (i : BitVec 16) : BitVec 32 := m ++ d ++ a ++ i
/-- Format SB: major, [25:13], W, T. -/
def encSB (m : BitVec 6) (x : BitVec 13) (w : Bool) (t : BitVec 12) : BitVec 32 := m ++ x ++ BitVec.ofBool w ++ t
/-- Format SN: major, [25:0]. -/
def encSN (m : BitVec 6) (x : BitVec 26) : BitVec 32 := m ++ x
/-- An a register in a 5-bit field (05 R116). -/
def a5 (a : BitVec 4) : BitVec 5 := (0 : BitVec 1) ++ a
/-- A p, mp or k register, a port or a group in a 5-bit field (05 R116, 06 R156). -/
def p5 (p : BitVec 3) : BitVec 5 := (0 : BitVec 2) ++ p
/-- A 4-bit number in a 5-bit field (06 R173). -/
def n5 (n : BitVec 4) : BitVec 5 := (0 : BitVec 1) ++ n
/-- An LGOP (04 R94). -/
def encL (op : BitVec 7) (d a b c : BitVec 5) (et : BitVec 3) (qd qa : Bool) : BitVec 32 :=
  op ++ d ++ a ++ b ++ c ++ et ++ BitVec.ofBool qa ++ BitVec.ofBool qd
/-- A key race in the M slot (08 R218). -/
def encRace (op : BitVec 4) (d a : BitVec 5) (ty : BitVec 4) (n k : BitVec 7) : BitVec 32 :=
  op ++ d ++ a ++ ty ++ n ++ k
/-- A C slot word: OP, AN, [22:0] (04 R107). -/
def encC (op : BitVec 5) (a : BitVec 4) (x : BitVec 23) : BitVec 32 := op ++ a ++ x
/-- A C slot word with fields [22:20], [19:15], [14:0]. -/
def encC3 (op : BitVec 5) (a : BitVec 4) (q : BitVec 3) (r : BitVec 5) (x : BitVec 15) : BitVec 32 :=
  encC op a (q ++ r ++ x)
/-- A copy (10 R274). -/
def encCpy (sub : BitVec 3) (ad as : BitVec 4) (sl sn : BitVec 5) (e : Bool) : BitVec 32 :=
  encC 0x06 ad (sub ++ as ++ sl ++ sn ++ BitVec.ofBool e ++ (0 : BitVec 5))
/-- An integer atomic (10 R282). -/
def encAtom (sub : BitVec 3) (d : BitVec 5) (a : BitVec 4) (ss sc : BitVec 5) (wd u : Bool)
    (sem : BitVec 2) : BitVec 32 :=
  encC 0x0A a (sub ++ d ++ ss ++ sc ++ BitVec.ofBool wd ++ BitVec.ofBool u ++ sem ++ (0 : BitVec 1))
/-- A TSC word: opcode, [25:22], [21:18], [17:0] (08 R227). -/
def encT (op : BitVec 6) (a b : BitVec 4) (x : BitVec 18) : BitVec 32 := op ++ a ++ b ++ x
/-- A key race in tile stream code. -/
def encTRace (op : BitVec 6) (a b ty : BitVec 4) (n k : BitVec 7) : BitVec 32 := encT op a b (ty ++ n ++ k)

/-- The word of a well-formed slot operation, LGOP or TSC instruction; a machine step has none. -/
def encode : Instr → Option (BitVec 32)
  | .nop => some (encSN 0 0)
  | .add d a b => some (encSR 0x01 d a b 0)
  | .sub d a b => some (encSR 0x01 d a b 1)
  | .and d a b => some (encSR 0x01 d a b 2)
  | .or d a b => some (encSR 0x01 d a b 3)
  | .xor d a b => some (encSR 0x01 d a b 4)
  | .sll d a b => some (encSR 0x01 d a b 5)
  | .srl d a b => some (encSR 0x01 d a b 6)
  | .sra d a b => some (encSR 0x01 d a b 7)
  | .mul d a b => some (encSR 0x01 d a b 8)
  | .mulh d a b => some (encSR 0x01 d a b 9)
  | .mulhu d a b => some (encSR 0x01 d a b 10)
  | .div d a b => some (encSR 0x01 d a b 11)
  | .divu d a b => some (encSR 0x01 d a b 12)
  | .rem d a b => some (encSR 0x01 d a b 13)
  | .remu d a b => some (encSR 0x01 d a b 14)
  | .min d a b => some (encSR 0x01 d a b 15)
  | .max d a b => some (encSR 0x01 d a b 16)
  | .minu d a b => some (encSR 0x01 d a b 17)
  | .maxu d a b => some (encSR 0x01 d a b 18)
  | .slt d a b => some (encSR 0x01 d a b 19)
  | .sltu d a b => some (encSR 0x01 d a b 20)
  | .clz d a => some (encSR 0x01 d a 0 21)
  | .ctz d a => some (encSR 0x01 d a 0 22)
  | .popc d a => some (encSR 0x01 d a 0 23)
  | .sextB d a => some (encSR 0x01 d a 0 24)
  | .sextH d a => some (encSR 0x01 d a 0 88)
  | .sextW d a => some (encSR 0x01 d a 0 152)
  | .zextB d a => some (encSR 0x01 d a 0 25)
  | .zextH d a => some (encSR 0x01 d a 0 89)
  | .zextW d a => some (encSR 0x01 d a 0 153)
  | .addi d a imm => some (encSI 0x02 d a imm)
  | .andi d a imm => some (encSI 0x03 d a imm)
  | .ori d a imm => some (encSI 0x04 d a imm)
  | .xori d a imm => some (encSI 0x05 d a imm)
  | .slti d a imm => some (encSI 0x09 d a imm)
  | .lih d a imm => some (encSI 0x0A d a imm)
  | .slli d a sh => some (encSI 0x06 d a ((0 : BitVec 10) ++ sh))
  | .srli d a sh => some (encSI 0x07 d a ((0 : BitVec 10) ++ sh))
  | .srai d a sh => some (encSI 0x08 d a ((0 : BitVec 10) ++ sh))
  | .aadd d a b => some (encSR 0x0B (a5 d) (a5 a) b 0)
  | .amov d a => some (encSR 0x0B (a5 d) (a5 a) 0 1)
  | .movsa d a => some (encSR 0x0B d (a5 a) 0 2)
  | .movas d a => some (encSR 0x0B (a5 d) a 0 3)
  | .aaddi d a imm => some (encSI 0x0C (a5 d) (a5 a) imm)
  | .cmpEq p a b => some (encSR 0x0D (p5 p) a b 0)
  | .cmpNe p a b => some (encSR 0x0D (p5 p) a b 1)
  | .cmpLt p a b => some (encSR 0x0D (p5 p) a b 2)
  | .cmpGe p a b => some (encSR 0x0D (p5 p) a b 3)
  | .cmpLtu p a b => some (encSR 0x0D (p5 p) a b 4)
  | .cmpGeu p a b => some (encSR 0x0D (p5 p) a b 5)
  | .pand d a b => some (encSR 0x0E (p5 d) (p5 a) (p5 b) 0)
  | .por d a b => some (encSR 0x0E (p5 d) (p5 a) (p5 b) 1)
  | .pnot d a => some (encSR 0x0E (p5 d) (p5 a) 0 2)
  | .br w t => some (encSB 0x10 0 w t)
  | .brp p w t => some (encSB 0x11 (p ++ (0 : BitVec 10)) w t)
  | .brpN p w t => some (encSB 0x11 (p ++ (1 : BitVec 1) ++ (0 : BitVec 9)) w t)
  | .call r w t => some (encSB 0x12 (r ++ (0 : BitVec 8)) w t)
  | .ret r => some (encSN 0x13 (r ++ (0 : BitVec 21)))
  | .loop r w t => some (encSB 0x14 (r ++ (0 : BitVec 8)) w t)
  | .bswap w t => some (encSB 0x15 0 w t)
  | .halt => some (encSN 0x16 0)
  | .sldB r a imm => some (encSI 0x18 r (a5 a) imm)
  | .sldH r a imm => some (encSI 0x19 r (a5 a) imm)
  | .sldW r a imm => some (encSI 0x1A r (a5 a) imm)
  | .sldD r a imm => some (encSI 0x1B r (a5 a) imm)
  | .sstB r a imm => some (encSI 0x1C r (a5 a) imm)
  | .sstH r a imm => some (encSI 0x1D r (a5 a) imm)
  | .sstW r a imm => some (encSI 0x1E r (a5 a) imm)
  | .sstD r a imm => some (encSI 0x1F r (a5 a) imm)
  | .gld r a off wid acq inv => some (encSI 0x20 r (a5 a) (off ++ wid ++ BitVec.ofBool acq ++ BitVec.ofBool inv ++ (0 : BitVec 1)))
  | .gst r a off wid rel => some (encSI 0x21 r (a5 a) (off ++ wid ++ BitVec.ofBool rel ++ (0 : BitVec 2)))
  | .msetp k a => some (encSR 0x22 (p5 k) a 0 0)
  | .mgetp d k => some (encSR 0x23 d (p5 k) 0 0)
  | .setfmt a => some (encSR 0x24 0 a 0 0)
  | .setmpc a => some (encSR 0x25 0 a 0 0)
  | .getmpc d => some (encSR 0x26 d 0 0 0)
  | .sysrd d n => some (encSI 0x28 d 0 n)
  | .syswr n a => some (encSI 0x29 0 a n)
  | .trap code => some (encSN 0x2A ((0 : BitVec 10) ++ code))
  | .tret => some (encSN 0x2B 0)
  | .ifence => some (encSN 0x2C 0)
  | .snap tag => some (encSN 0x2D ((0 : BitVec 18) ++ tag))
  | .wfe => some (encSN 0x2E 0)
  | .hlaunch d a => some (encSR 0x30 d a 0 0)
  | .hlaunchSealg a => some (encSR 0x30 0 a 0 1)
  | .hlaunchSealp => some (encSR 0x30 0 0 0 2)
  | .hlaunchEnd => some (encSR 0x30 0 0 0 3)
  | .hwaitc d a b => some (encSR 0x31 d a b 0)
  | .hcancel a => some (encSR 0x32 0 a 0 0)
  | .hsetc a b => some (encSR 0x33 0 a b 0)
  | .hsetcAdd a b => some (encSR 0x33 0 a b 1)
  | .hreadc d a => some (encSR 0x34 d a 0 0)
  | .hreadcSt d a => some (encSR 0x34 d a 0 1)
  | .hstop a => some (encSR 0x35 0 a 0 0)
  | .hstopU a b => some (encSR 0x35 0 a b 1)
  | .hctx d a => some (encSR 0x36 d a 0 0)
  | .hctxKill a => some (encSR 0x36 0 a 0 1)
  | .hctxHold a => some (encSR 0x36 0 a 0 2)
  | .hctxRun a => some (encSR 0x36 0 a 0 3)
  | .hdeal d a b => some (encSR 0x37 d a b 0)
  | .hdealE d a => some (encSR 0x37 d a 0 1)
  | .hdealRing a b => some (encSR 0x37 0 a b 2)
  | .vnop => some (0)
  | .vadd d a b et qd qa => some (encL 0x01 d a b 0 et qd qa)
  | .vsub d a b et qd qa => some (encL 0x02 d a b 0 et qd qa)
  | .vmul d a b et qd qa => some (encL 0x03 d a b 0 et qd qa)
  | .vmulh d a b et qd qa => some (encL 0x04 d a b 0 et qd qa)
  | .vmin d a b et qd qa => some (encL 0x05 d a b 0 et qd qa)
  | .vmax d a b et qd qa => some (encL 0x06 d a b 0 et qd qa)
  | .vand d a b et qd qa => some (encL 0x07 d a b 0 et qd qa)
  | .vor d a b et qd qa => some (encL 0x08 d a b 0 et qd qa)
  | .vxor d a b et qd qa => some (encL 0x09 d a b 0 et qd qa)
  | .vshl d a b et qd qa => some (encL 0x0B d a b 0 et qd qa)
  | .vshr d a b et qd qa => some (encL 0x0C d a b 0 et qd qa)
  | .vsra d a b et qd qa => some (encL 0x0D d a b 0 et qd qa)
  | .vfadd d a b et qd qa => some (encL 0x20 d a b 0 et qd qa)
  | .vfsub d a b et qd qa => some (encL 0x21 d a b 0 et qd qa)
  | .vfmul d a b et qd qa => some (encL 0x22 d a b 0 et qd qa)
  | .vfmin d a b et qd qa => some (encL 0x26 d a b 0 et qd qa)
  | .vfmax d a b et qd qa => some (encL 0x27 d a b 0 et qd qa)
  | .vscale d a b et qd qa => some (encL 0x45 d a b 0 et qd qa)
  | .vnot d a et qd qa => some (encL 0x0A d a 0 0 et qd qa)
  | .vabs d a et qd qa => some (encL 0x0E d a 0 0 et qd qa)
  | .vneg d a et qd qa => some (encL 0x0F d a 0 0 et qd qa)
  | .vfabs d a et qd qa => some (encL 0x28 d a 0 0 et qd qa)
  | .vfneg d a et qd qa => some (encL 0x29 d a 0 0 et qd qa)
  | .vfrcp d a et qd qa => some (encL 0x30 d a 0 0 et qd qa)
  | .vfrsq d a et qd qa => some (encL 0x31 d a 0 0 et qd qa)
  | .vfexp2 d a et qd qa => some (encL 0x32 d a 0 0 et qd qa)
  | .vflog2 d a et qd qa => some (encL 0x33 d a 0 0 et qd qa)
  | .vftanh d a et qd qa => some (encL 0x34 d a 0 0 et qd qa)
  | .vfsigm d a et qd qa => some (encL 0x35 d a 0 0 et qd qa)
  | .vmov d a et qd qa => some (encL 0x68 d a 0 0 et qd qa)
  | .vsel d a b kc et qd qa => some (encL 0x10 d a b (p5 kc) et qd qa)
  | .vcmpEq kd a b et qa => some (encL 0x11 (p5 kd) a b 0 et false qa)
  | .vcmpNe kd a b et qa => some (encL 0x12 (p5 kd) a b 0 et false qa)
  | .vcmpLt kd a b et qa => some (encL 0x13 (p5 kd) a b 0 et false qa)
  | .vcmpLe kd a b et qa => some (encL 0x14 (p5 kd) a b 0 et false qa)
  | .vcmpGt kd a b et qa => some (encL 0x15 (p5 kd) a b 0 et false qa)
  | .vcmpGe kd a b et qa => some (encL 0x16 (p5 kd) a b 0 et false qa)
  | .vfcmpEq kd a b et qa => some (encL 0x2A (p5 kd) a b 0 et false qa)
  | .vfcmpNe kd a b et qa => some (encL 0x2B (p5 kd) a b 0 et false qa)
  | .vfcmpLt kd a b et qa => some (encL 0x2C (p5 kd) a b 0 et false qa)
  | .vfcmpLe kd a b et qa => some (encL 0x2D (p5 kd) a b 0 et false qa)
  | .vfcmpGt kd a b et qa => some (encL 0x2E (p5 kd) a b 0 et false qa)
  | .vfcmpGe kd a b et qa => some (encL 0x2F (p5 kd) a b 0 et false qa)
  | .vfma d a b c et qd qa => some (encL 0x23 d a b c et qd qa)
  | .vfms d a b c et qd qa => some (encL 0x24 d a b c et qd qa)
  | .vfnma d a b c et qd qa => some (encL 0x25 d a b c et qd qa)
  | .vcvt d a code et qd qa => some (encL 0x40 d a 0 code et qd qa)
  | .vcvtTwq d a b code qd qa => some (encL 0x41 d a b code 0 qd qa)
  | .vcvtm d a code et qd qa => some (encL 0x42 d a 0 code et qd qa)
  | .vbfpi d a et => some (encL 0x43 d a 0 0 et false false)
  | .vbfpo d a et => some (encL 0x44 d a 0 0 et false false)
  | .vredadd d a et => some (encL 0x53 d a 0 0 et false false)
  | .vredmax d a et => some (encL 0x54 d a 0 0 et false false)
  | .vredmin d a et => some (encL 0x55 d a 0 0 et false false)
  | .vcompress d a et => some (encL 0x57 d a 0 0 et false false)
  | .vshuf d a b et => some (encL 0x50 d a b 0 et false false)
  | .vrot d a n et => some (encL 0x51 d a 0 (n5 n) et false false)
  | .vbcast d a n et => some (encL 0x52 d a 0 (n5 n) et false false)
  | .vscan d a op et => some (encL 0x56 d a 0 op et false false)
  | .vxg d a gs et => some (encL 0x58 d a (p5 gs) 0 et false false)
  | .vxgb d a gs n et => some (encL 0x59 d a (p5 gs) (n5 n) et false false)
  | .kand kd ka kb et => some (encL 0x60 (p5 kd) (p5 ka) (p5 kb) 0 et false false)
  | .kor kd ka kb et => some (encL 0x61 (p5 kd) (p5 ka) (p5 kb) 0 et false false)
  | .kxor kd ka kb et => some (encL 0x62 (p5 kd) (p5 ka) (p5 kb) 0 et false false)
  | .knot kd ka et => some (encL 0x63 (p5 kd) (p5 ka) 0 0 et false false)
  | .kpopc d ka => some (encL 0x64 d (p5 ka) 0 0 3 false false)
  | .kset kd a et => some (encL 0x65 (p5 kd) a 0 0 et false false)
  | .ksetN kd n et => some (encL 0x65 (p5 kd) 0 0 n et true false)
  | .vmovi d imm et qd => some ((0x69 : BitVec 7) ++ d ++ imm ++ et ++ (0 : BitVec 1) ++ BitVec.ofBool qd)
  | .vmovs d a et qd => some (encL 0x6A d a 0 0 et qd false)
  | .vrand d et => some (encL 0x6C d 0 0 0 et false false)
  | .vrandSeed a => some (encL 0x6C 0 a 0 0 0 true false)
  | .vrandGet d => some (encL 0x6C d 0 0 0 3 false true)
  | .mcall idx => some ((0x1 : BitVec 4) ++ idx ++ (0 : BitVec 18))
  | .mrmin d a ty n => some (encRace 2 d a ty n 0)
  | .mrmax d a ty n => some (encRace 3 d a ty n 0)
  | .mrank d a ty n => some (encRace 4 d a ty n 0)
  | .mtopk d a ty n k => some (encRace 5 d a ty n k)
  | .mspill m => some ((0x6 : BitVec 4) ++ m ++ (0 : BitVec 24))
  | .mfill m => some ((0x7 : BitVec 4) ++ m ++ (0 : BitVec 24))
  | .mtrue => some (0x80000000)
  | .mfence => some (0x90000000)
  | .mqry d sel clr => some ((0xA : BitVec 4) ++ d ++ sel ++ BitVec.ofBool clr ++ (0 : BitVec 20))
  | .vld v a ms wid gsc pi off => some (encC 1 a (v ++ ms ++ wid ++ gsc ++ BitVec.ofBool pi ++ off))
  | .vst v a ms wid gsc pi off => some (encC 2 a (v ++ ms ++ wid ++ gsc ++ BitVec.ofBool pi ++ off))
  | .vldInv v a ms wid gsc pi off => some (encC 3 a (v ++ ms ++ wid ++ gsc ++ BitVec.ofBool pi ++ off))
  | .vldx v vi a ms wid sc => some (encC 4 a (v ++ vi ++ ms ++ wid ++ sc ++ (0 : BitVec 6)))
  | .vstx v vi a ms wid sc => some (encC 5 a (v ++ vi ++ ms ++ wid ++ sc ++ (0 : BitVec 6)))
  | .cpy ad as sl sn e => some (encCpy 0 ad as sl sn e)
  | .cpys ad as sl sn e => some (encCpy 1 ad as sl sn e)
  | .cpyg ad as sl sn e => some (encCpy 2 ad as sl sn e)
  | .cpysc ad as sl sn e => some (encCpy 3 ad as sl sn e)
  | .cpySum ad as sl sn e => some (encCpy 4 ad as sl sn e)
  | .cpyFill ad sl sn e => some (encCpy 5 ad 0 sl sn e)
  | .bind q a => some (encC3 0x07 a q 0 0)
  | .unbind q => some (encC3 0x08 0 q 0 0)
  | .qstat d q => some (encC 0x09 0 (d ++ q ++ (0 : BitVec 15)))
  | .atomAdd d a ss wd sem => some (encAtom 0 d a ss 0 wd false sem)
  | .atomAnd d a ss wd sem => some (encAtom 3 d a ss 0 wd false sem)
  | .atomOr d a ss wd sem => some (encAtom 4 d a ss 0 wd false sem)
  | .atomXor d a ss wd sem => some (encAtom 5 d a ss 0 wd false sem)
  | .atomSwap d a ss wd sem => some (encAtom 6 d a ss 0 wd false sem)
  | .atomMin d a ss wd u sem => some (encAtom 1 d a ss 0 wd u sem)
  | .atomMax d a ss wd u sem => some (encAtom 2 d a ss 0 wd u sem)
  | .atomCas d a ss sc wd sem => some (encAtom 7 d a ss sc wd false sem)
  | .atomFadd a ss bf => some (encC 0x0B a ((0 : BitVec 8) ++ ss ++ BitVec.ofBool bf ++ (0 : BitVec 9)))
  | .wcinit a ce => some (encC 0x0C a ((0 : BitVec 3) ++ ce ++ (0 : BitVec 12)))
  | .wcread d a bf => some (encC3 0x0D a 0 d (BitVec.ofBool bf ++ (0 : BitVec 14)))
  | .tlwait k ss => some (encC3 0x0E 0 k ss 0)
  | .tlread d k => some (encC3 0x0F 0 k d 0)
  | .tladv k ss => some (encC3 0x10 0 k ss 0)
  | .tlsig k ss a => some (encC3 0x11 a k ss 0)
  | .fence sc => some (encC 0x12 0 (sc ++ (0 : BitVec 2) ++ (0 : BitVec 18)))
  | .fenceAcq sc => some (encC 0x12 0 (sc ++ (1 : BitVec 2) ++ (0 : BitVec 18)))
  | .fenceRel sc => some (encC 0x12 0 (sc ++ (2 : BitVec 2) ++ (0 : BitVec 18)))
  | .drainPath a sn e => some (encC 0x13 a ((0 : BitVec 1) ++ sn ++ BitVec.ofBool e ++ (0 : BitVec 16)))
  | .drainPathStreams sn e => some (encC 0x13 0 ((1 : BitVec 1) ++ sn ++ BitVec.ofBool e ++ (0 : BitVec 16)))
  | .mapreg i a sl wb => some (encC3 0x14 a i sl (BitVec.ofBool wb ++ (0 : BitVec 14)))
  | .unmapreg i sn e => some (encC3 0x15 0 i sn (BitVec.ofBool e ++ (0 : BitVec 14)))
  | .wbreg i sn e => some (encC3 0x16 0 i sn (BitVec.ofBool e ++ (0 : BitVec 14)))
  | .touch a sl sn e => some (encC3 0x17 a 0 sl (sn ++ BitVec.ofBool e ++ (0 : BitVec 9)))
  | .send a st ln sn e => some (encC3 0x18 a 0 st (ln ++ sn ++ BitVec.ofBool e ++ (0 : BitVec 6)))
  | .recv d a => some (encC3 0x19 a 0 d 0)
  | .coll sn a => some (encC3 0x1A a 0 sn 0)
  | .cxopen a tol w t => some (encC 0x1B a (tol ++ BitVec.ofBool w ++ t ++ (0 : BitVec 8)))
  | .cxclose => some (encC 0x1C 0 0)
  | .audmark ss => some (encC3 0x1D 0 0 ss 0)
  | .audoff => some (encC3 0x1D 0 1 0 0)
  | .tcheck ss => some (encC3 0x1D 0 2 ss 0)
  | .tscWld a => some (encT 1 a 0 0)
  | .tscWconv a => some (encT 2 a 0 0)
  | .tscXstr a => some (encT 3 a 0 0)
  | .tscAccmode a => some (encT 5 a 0 0)
  | .tscAccsel a => some (encT 6 a 0 0)
  | .tscHandoff a => some (encT 7 a 0 0)
  | .tscEmit a => some (encT 15 a 0 0)
  | .tscRace => some (encT 4 0 0 0)
  | .tscEndl => some (encT 11 0 0 0)
  | .tscWaitq => some (encT 14 0 0 0)
  | .tscHalt => some (encT 23 0 0 0)
  | .tscTriOff => some (encT 8 0 0 0)
  | .tscTri a b => some (encT 8 a b 1)
  | .tscSkip n => some (encT 9 0 0 ((0 : BitVec 12) ++ n))
  | .tscLoopImm c => some (encT 0x0A 0 0 ((0 : BitVec 2) ++ c))
  | .tscLoopReg c => some (encT 0x0A 4 c 0)
  | .tscLoopKb => some (encT 0x0A 8 0 0)
  | .tscBrc a b v t => some ((0x0C : BitVec 6) ++ a ++ b ++ BitVec.ofBool v ++ (0 : BitVec 2) ++ t)
  | .tscSetp d a imm => some (encT 0x0D d a ((0 : BitVec 2) ++ imm))
  | .tscSetpHi d a imm => some (encT 0x0D d a ((1 : BitVec 2) ++ imm))
  | .tscSetpReg d a b => some (encT 0x0D d a ((2 : BitVec 2) ++ b ++ (0 : BitVec 12)))
  | .tscRmin a b ty n => some (encTRace 16 a b ty n 0)
  | .tscRmax a b ty n => some (encTRace 17 a b ty n 0)
  | .tscRank a b ty n => some (encTRace 18 a b ty n 0)
  | .tscTopk a b ty n k => some (encTRace 0x13 a b ty n k)
  | .tscTrimrd d a => some (encT 0x14 d a 0)
  | .tscTrimwr a b => some (encT 0x15 a b 0)
  | .tscRefrace d a kind => some (encT 0x16 d a (kind ++ (0 : BitVec 16)))
  | _ => none

end Sys2Proof
end

