-- ==== Sys2Proof/Config.lean ====
section
/-! DEFINITION. What an implementation or the outside world fixes and the manual leaves open: free
values, as constants without a body. Nothing can be proved about their values, so a statement holds
whatever they are. Each is applied to the counter `tick` of the state, or to the operands it depends
on. -/

namespace Sys2Proof.Config

/-- FREE VALUE: wall nanoseconds that pass before the step taken at `tick` (00 R5; 01 R16: wall time
is not architectural). Log entry 2. -/
opaque elapsed : Nat → Nat

/-- FREE VALUE: a choice between two outcomes that the manual lists with "Quiran does one of the
following" (00, Notation). Log entries 7, 16, 23, 25, 26. -/
opaque choice : Nat → Bool

/-- FREE VALUE: the bytes that an uncorrectable word with three or more flipped bits reads as
(18 R427: reported, miscorrected silently, or undetected). Log entry 16. -/
opaque miscorrect : Nat → BitVec 64

/-- FREE VALUE: the trim word that the measurements of a truing run settle on, for array `a` and
word index `i` of the run taken at `tick` (07 R200: analog measurements). Log entry 14. -/
opaque trimMeasured : Nat → Nat → Nat → BitVec 32

/-- FREE VALUE: how far a reading lies from the exact delay that its trims give, within a quarter of a delay unit
(07 R185; 08 R236): the error of the place `k`, in 1/256, is this modulo 129, less 64. Log entry 15. -/
opaque refraceMean : Nat → BitVec 64

/-- FREE VALUE: how the delay `t` of key line `i` of a tile splits over the line's four segments (07 R188, R199).
Log entry 104. -/
opaque keyShare : Nat → Nat → Nat

/-- FREE VALUE: the temperature and voltage that a cluster's sensors show (13 R362). Log entry 17. -/
opaque clusterTemp : Nat → Nat → Nat
opaque clusterVolt : Nat → Nat → Nat

/-- FREE VALUE: does the self-test of an orderly offline die pass at a warm reset (19 R461), does a
die authenticate at boot (19 R455): one bit per die. Log entry 19. -/
opaque selfTest : Nat → Nat → Bool

/-- FREE VALUE: the power estimate of V-die `d` in mW that a snapshot record shows at `tick` (13 R359; R362
defines only the package's). Log entry 34. -/
opaque diePower : Nat → Nat → Nat

/-- FREE VALUE: a number chosen where the manual fixes no order among candidates (the wall order of
agents). Log entry 1. -/
opaque pick : Nat → Nat

/-- FREE VALUE: what sysrd of register `n` returns on the hub program slot of context `c` where 12 R319
states no value (MODE, UCNT, PCORE, LCORE). Log entry 33. -/
opaque slotReg : Nat → Nat → BitVec 64

end Sys2Proof.Config
end

