-- ==== Sys2Proof/Machine/State.lean ====
section
/-! DEFINITION. The state of a Quiran module as plain data. Sparse maps are lists of (key, entry)
with rising keys and no default entries, so equal contents are equal data. -/

namespace Sys2Proof.Machine

/-- A sparse map: keys rising, no entry equal to the default that its reader names. -/
abbrev SMap (α : Type) := List (Nat × α)

/-- In whose name an operation acts: agent, slot code (17 R413), lane group, the V slot's MSEL and
RBASE (04 R93), the bundle's P slot (04 R90), the operation's encoding, the HCW entry, and whether
it is a re-issue. MODEL's own field. -/
structure Ctx where
  core  : Nat := 0
  slot  : BitVec 4 := 9
  group : Nat := 0
  msel  : BitVec 3 := 0
  rbase : BitVec 4 := 0
  rnd   : BitVec 3 := 0
  sat   : BitVec 2 := 0
  ftz   : Bool := false
  enc   : BitVec 32 := 0
  hcw   : Nat := 0
  reis  : Bool := false
  sv    : Bool := false
  deriving DecidableEq, Repr

/-- One operation of a bundle, with the context it acts in. -/
structure MicroOp where
  ctx   : Ctx
  instr : Instr
  deriving DecidableEq, Repr

/-- An off-grid reading that tile will meet (19 R444): array, vector, row or key line, class, segment,
deviation in 1/256 τ, whether it repeats after the retry, whether it saturated. MODEL's input. -/
structure OffGrid where
  arr : Nat
  vec : Nat := 0
  row : Nat := 0
  cls : Nat := 0
  seg : Nat := 0
  dev : Int
  again : Bool
  saturated : Bool
  deriving DecidableEq, Repr

/-- What may happen next. `begin p`: agent p, or the whole LOCK peloton it belongs to, goes through its
next vc: landings, then its bundles. `slots`: the sequencer of the hub program slots takes a turn (12 R319). `op`: one
operation of a bundle.
`tile q`: tile q runs its next TSC word. `engine p e`: copy engine e of agent p moves one request.
`event i`: a machine step. `upset`: stored bits flip. `offGrid`: a TDC or stamp of tile q reads off
the grid (19 R444). -/
inductive Turn where
  | begin (p : Nat)
  | slots
  | op (o : MicroOp)
  | tile (q : Nat)
  | engine (p e : Nat)
  | event (i : Instr)
  | upset (addr : Nat) (bit : Nat)
  | offGrid (q : Nat) (g : OffGrid)
  deriving DecidableEq, Repr, Inhabited

/-- A hardware loop level (05 R128). -/
structure Loop where
  start : Word
  stop  : Word
  count : Word
  deriving DecidableEq, Repr

/-- The address form of an access (09 R238): own vault or hub memory, cluster vault, global. -/
inductive Form where
  | l | c | g
  deriving DecidableEq, Repr

/-- One element of a load: where its value goes, its address in the form's space, its bytes. -/
structure Piece where
  key   : Nat
  addr  : Nat
  width : Nat
  deriving DecidableEq, Repr

/-- An atomic's operation (10 R283, R285): code 0 to 7 of R282, 8 fadd, 9 wcinit, 10 fadd.bf16. -/
structure AtomOp where
  sub : Nat
  w   : Nat
  u   : Bool
  x   : Word
  c   : Word
  deriving DecidableEq, Repr

/-- A stream port (02 R55, 10 R278): `pos` is the linear index of the next pop or push; `ahead`
holds elements read ahead, each with its class, or pushed elements with their addresses; `part` the bytes already read of
the element after those, with their classes, or as many entries as bytes of the first element have been written (11 R302). -/
structure Port where
  bound : Bool := false
  write : Bool := false
  lsz   : Nat := 0
  base  : Nat := 0
  str   : List Word := [0, 0, 0, 0]
  ext   : List Nat := [0, 0, 0, 0]
  pos   : Nat := 0
  ahead : List (Nat × Lane × Nat) := []
  part  : List (Byte × Nat) := []
  deriving DecidableEq, Repr

/-- Where a result lands (04 R99). -/
inductive Dest where
  | none
  | s (r : Nat)
  | a (r : Nat)
  | p (r : Nat)
  | lanes
  | push (q : Nat) (width : Nat)
  | k (key : Nat)
  | mp (k : Nat)
  | fmt
  | mpc
  | tl (k : Nat)
  | port (q : Nat)
  | region (i : Nat)
  deriving DecidableEq, Repr

/-- What a result in flight will be: a value already formed, or an access still to perform. `recorded`
is the value that the irrevocable record of agent p holds for a slot code (17 R419, R421). -/
inductive Src where
  | word (w : Word)
  | lanes (l : List (Nat × Lane))
  | mask (sel v : BitVec 16)
  | port (d : Port)
  | bytes (l : List Byte)
  | mmio (va : Nat) (d : List Byte)
  | load (f : Form) (ps : List Piece) (sx inv : Bool)
  | atomic (f : Form) (addr : Nat) (op : AtomOp) (ret : Bool)
  | wcread (addr : Nat) (bf : Bool)
  | query (sel : Nat) (clr : Bool) (id : Nat)
  | recorded (p code : Nat)
  deriving DecidableEq, Repr

/-- Details of a damaged read, for the record of a consumption (16 R394, 18 R431); `block` is the detecting block where it is
not the consumer's own. -/
structure Damage where
  cls    : Nat := 0
  va     : BitVec 64 := 0
  pa     : BitVec 64 := 0
  detail : BitVec 64 := 0
  kind   : Nat := 1
  block  : Option Nat := none
  deriving DecidableEq, Repr

/-- A fence that a core has issued (10 R288): its place in the access order, KIND and scope code. -/
structure Fence where
  pos   : Nat
  kind  : Nat
  scope : Nat
  deriving DecidableEq, Repr

/-- A result in flight: issued at vc `issue` by slot `ord`, performing its access at `perform`,
landing at `land`; `late` when it travels a late path of 01 R19 and must have arrived; `acq` and `rel` are
its annotations (11 R307), `enc` an atomic's encoding (17 R413). -/
structure Pending where
  dest    : Dest
  src     : Src
  issue   : Nat
  ord     : Nat
  perform : Nat
  land    : Nat
  late    : Bool := false
  arrived : Bool := false
  irrev   : Option Nat := none
  row     : Nat := 0
  acq     : Bool := false
  rel     : Bool := false
  enc     : BitVec 32 := 0
  dmg     : Damage := {}
  deriving DecidableEq, Repr

/-- An entry of the store gate buffer, or a released store (02 R41, R42): bytes in the form's space
(for a released G-space store at their physical addresses, with the page's layout code), or an atomic.
`pos` is the place that its release gives it in the access order (11 R298); `passed` the scope of a fence that a later
access has overtaken it across (11 R307); `bad` the classes of damaged bytes, by address (16 R394 (b)); `acq` an
atomic's acquire annotation; an audmark takes no entry. -/
structure Gated where
  form  : Form
  cells : List (Nat × Byte)
  atom  : Option (Nat × AtomOp) := none
  issue : Nat
  ord   : Nat
  rel   : Bool := false
  acq   : Bool := false
  sv    : Bool := false
  entry : Bool := true
  pos   : Nat := 0
  passed : Option Nat := none
  bad   : SMap Nat := []
  enc   : BitVec 32 := 0
  lc    : Nat := 0
  deriving DecidableEq, Repr

/-- An error record (16 R391), and, with `err` false, a message (10 R292) with the classes of its bytes. -/
structure Msg where
  sender : Nat
  bytes  : List Byte
  err    : Bool := false
  cls    : List Nat := []
  deriving DecidableEq, Repr

/-- A containment region (16 R398). -/
structure Region where
  w      : Bool
  t      : BitVec 12
  addr   : Nat
  tol    : Nat
  ldepth : Nat
  deriving DecidableEq, Repr

/-- The shadow of a core (02 R43), less the tile's part. -/
structure Shadow where
  s : SMap Word
  a : SMap Word
  p : BitVec 8
  v : SMap Lane
  k : SMap (BitVec 16)
  mp : SMap Word
  fmt : Word
  mpc : Word
  pc : Word
  ispsel : Bool
  loops : List Loop
  rnd : SMap Word
  ports : SMap Port
  msgs : List Msg
  deriving DecidableEq, Repr

/-- The irrevocable record (17 R419): bundle word, performed slots, values by slot code; `whole` tells that the bundle
completed (17 R411 (b)); `soft` are the slots of `done` whose operation has pushed or popped the region stack. -/
structure Irrev where
  valid : Bool := false
  word  : Word := 0
  done  : List Nat := []
  vals  : SMap Word := []
  whole : Bool := true
  soft  : List Nat := []
  deriving DecidableEq, Repr

/-- An error record before it is appended (16 R391). -/
structure Rec where
  va    : Nat := 0
  pa    : Nat := 0
  cpc   : Nat := 0xFFFFFFFFFFFFFFFF
  launch : Nat := 0
  unit  : Nat := 0
  block : Nat := 0
  core  : Nat := 0x1FF
  sev   : Nat := 5
  kind  : Nat := 0
  ctxd  : Nat := 0
  flags : Nat := 0
  detail : Nat := 0
  deriving DecidableEq, Repr

/-- A numbered operation of a copy engine or the collective engine (10 R269). `sub` 0 to 5 the
copies of R274, 6 drain of a path, 7 drain of streams, 8 unmapreg, 9 wbreg, 10 touch, 11 send,
12 coll. `prog` counts the bytes that a copy has put into requests, `flights` its requests outstanding, each by its offset
and length, `fail` the lowest request that faulted, with its record (10 R267; 18 R437). -/
structure EngOp where
  num  : Nat
  sub  : Nat
  dst  : Word := 0
  src  : Word := 0
  p1   : Word := 0
  p2   : Word := 0
  sv   : Bool := false
  data : List Byte := []
  prog : Nat := 0
  crc  : BitVec 32 := 0xFFFFFFFF
  lines : List Nat := []
  flights : List (Nat × Nat) := []
  fail  : Option (Nat × Rec) := none
  deriving DecidableEq, Repr

/-- What the tile is asked to do (08 R208), and the markers that keep the order of 07 R196: shadow
capture, restore, and a query's read. -/
inductive TKind where
  | mcall (idx : Nat)
  | mspill (mask : Nat)
  | mfill (mask : Nat)
  | mtrue
  | mfence
  | query (id sel : Nat) (clr : Bool)
  | capture
  | restore
  deriving DecidableEq, Repr

/-- An operation in the operand queue with its captures (08 R207), its issue vc (08 R210), and how many steps of its
unit's history stand before its issue, once known (08 R214). -/
structure TileOp where
  num  : Nat
  kind : TKind
  vc   : Nat := 0
  seen : Option Nat := none
  mp   : List Word := []
  fmt  : Word := 0
  rnd  : BitVec 3 := 0
  sat  : BitVec 2 := 0
  ftz  : Bool := false
  info : BitVec 32 := 0
  seed : Word := 0
  sv   : Bool := false
  deriving DecidableEq, Repr

/-- A TSC loop level (08 R226): the word after the loop word, the matching endl, index, count. -/
structure TLoop where
  start : Nat
  stop  : Nat
  idx   : Nat
  count : Nat
  deriving DecidableEq, Repr

/-- Triangular masking (08 R231). -/
structure Tri where
  diag : Int
  roff : Nat
  coff : Nat
  ca   : BitVec 36
  cc   : BitVec 2
  deriving DecidableEq, Repr

/-- The activation stream (08 R228): its image's address, its rows, and the scale that overrides the image's. -/
structure XStr where
  base : Word
  rows : Nat
  ovr  : Option Nat
  deriving DecidableEq, Repr

/-- Bytes that a routine fetched from a vault (08 R215): the issue vc of its call, its place in the instruction stream,
store address, bytes and classes. -/
structure Fetched where
  vc   : Nat
  at_  : Nat
  addr : Nat
  data : List Byte
  cls  : List Nat
  deriving DecidableEq, Repr

/-- A running routine (08 R217, R226). `cells` by array, row and cell, 0x77 where unlisted;
`scale` by column: weight exponent and whether the column is of class NaN. `used` are the arrays that it has used, `vc`
its call's issue, `at_` the words it has run; `wrote` the store ranges that it has written since its last waitq, `firm`
those before it, when the history had `firmAt` entries (08 R234). `out` what its last word has still to write, by address
(11 R302). -/
structure Routine where
  pc      : Nat
  t       : SMap Word := []
  loops   : List TLoop := []
  bank    : Nat := 0
  row0    : Nat := 0
  xstr    : Option XStr := none
  tri     : Option Tri := none
  accDone : Bool := false
  priv    : Bool := false
  sv      : Bool := false
  fmt     : Word := 0
  rnd     : BitVec 3 := 0
  sat     : BitVec 2 := 0
  ftz     : Bool := false
  info    : BitVec 32 := 0
  seed    : Word := 0
  used    : BitVec 4 := 0
  vc      : Nat := 0
  at_     : Nat := 0
  seen    : Option Nat := none
  wrote   : List (Nat × Nat) := []
  firm    : List (Nat × Nat) := []
  firmAt  : Nat := 0
  out     : List (Word × List Byte) := []
  cells   : SMap Byte := []
  scale   : SMap (Int × Bool) := []
  idx     : Nat := 0
  deriving DecidableEq, Repr

/-- A truing round (07 R202 (a) to (d)): the array whose turn it is, whether its run holds the array, the temperature at
the round's start, the last number that stood in the queue when a run of the round committed, and whether an mtrue asked
for it. -/
structure Round where
  arr  : Nat
  held : Bool := true
  temp : BitVec 16 := 0
  pass : Nat := 0
  mt   : Bool := false
  deriving DecidableEq, Repr

/-- A ballast round (07 R204): the arrays that hold a ballast run, those whose run has committed, the temperature at its
start. -/
structure Ballast where
  arrs : BitVec 4 := 0
  done : BitVec 4 := 0
  temp : BitVec 16 := 0
  deriving DecidableEq, Repr

/-- A race tile (07 R181). Accumulator entries by bank, row and column; trim words by array and
index, 0x8080_8080 where unlisted; `moved` the committed words where another word has been written since (07 R199,
R201). `boot`: the round of the cold reset has not been made (07 R202 (a)). `fetched`: what routines of LOCK pelotons
fetched (08 R215). -/
structure Tile where
  acc    : SMap (BitVec 36 × BitVec 2) := []
  shadow : Option (SMap (BitVec 36 × BitVec 2)) := none
  modes  : SMap Byte := []
  sat    : Bool := false
  live   : BitVec 4 := 0
  queue  : List TileOp := []
  busyOp : Option TileOp := none
  fin    : Bool := false
  run    : Option Routine := none
  trims  : SMap (BitVec 32) := []
  moved  : List (Nat × BitVec 32) := []
  balok  : Bool := true
  dtemp  : BitVec 5 := 16
  intv   : BitVec 4 := 10
  tlast  : BitVec 16 := 0
  tnow   : BitVec 16 := 0
  done   : BitVec 4 := 0
  trgtc  : BitVec 64 := 0
  ainc   : Bool := false
  arr    : BitVec 2 := 0
  word   : BitVec 12 := 0
  due    : Bool := false
  round  : Option Round := none
  ballast : Option Ballast := none
  fails  : SMap Nat := []
  wdrn   : Bool := false
  off    : List OffGrid := []
  image  : Option (Nat × Nat) := none
  fetched : List Fetched := []
  boot   : Bool := true
  deriving DecidableEq, Repr

/-- A fault reported and not yet delivered (17 R418): its record and the vc of the report. -/
structure Late where
  what : Rec
  due  : Nat := 0
  deriving DecidableEq, Repr

/-- The bundle in issue (04 R84, R89). -/
structure InIssue where
  word  : Word := 0
  len   : Nat := 0
  rpt   : Nat := 0
  rep   : Nat := 0
  ck    : Bool := false
  qp    : Bool := false
  rnd   : BitVec 3 := 0
  sat   : BitVec 2 := 0
  ftz   : Bool := false
  slots : List (Nat × BitVec 32) := []
  header : BitVec 32 := 0
  deriving DecidableEq, Repr

/-- A taken control transfer waiting for the bundle's last repetition (05 R125): target word, and
how it treats loop levels: 0 call, ret, trap, tret; 1 branch (R129); 2 loop of count 0 (R128);
3 bswap (R130); 4 the member halts (R131). -/
structure Taken where
  target : Word
  kind   : Nat
  deriving DecidableEq, Repr

/-- A sequencer: a core, or a hub program slot (04 R91, 12 R319). -/
structure Core where
  s : SMap Word := []
  a : SMap Word := []
  p : BitVec 8 := 0
  v : SMap Lane := []
  k : SMap (BitVec 16) := []
  mp : SMap Word := []
  fmt : Word := 0
  mpc : Word := 0
  pc : Word := 0
  ispsel : Bool := false
  loops : List Loop := []
  tl : SMap Word := []
  n0 : Nat := 0
  n1 : Nat := 0
  n3 : Nat := 0
  ni : Nat := 0
  rnd : SMap Word := []
  ports : SMap Port := []
  gate : List Gated := []
  released : List Gated := []
  pend : List Pending := []
  recs : SMap (BitVec 32) := []
  shadow : Option Shadow := none
  irrev : Irrev := {}
  irrevNew : Irrev := {}
  replay : Bool := false
  regions : List Region := []
  recvq : List Msg := []
  errq : List Msg := []
  sv : Bool := false
  snapen : Bool := false
  epc : Word := 0
  psv : Bool := false
  ecode : BitVec 16 := 0
  svec : BitVec 9 := 0
  evt : BitVec 5 := 0
  evmask : Word := 0
  evgtc : Word := 0xFFFFFFFFFFFFFFFF
  armed : Bool := false
  vc : Nat := 0
  hold : Nat := 0
  holdAt : Bool := false
  halted : Bool := false
  stopped : Bool := false
  stopVc : Nat := 0
  idle : Bool := true
  stopReq : Bool := false
  inIssue : InIssue := {}
  taken : Option Taken := none
  loopPush : Option Loop := none
  ckWord : Word := 0
  ckVc : Nat := 0
  ckQp : Bool := false
  ckDone : Bool := false
  ckRegions : List Region := []
  again : Bool := false
  needCk : Bool := false
  gatherAt : Option Nat := none
  rest : List MicroOp := []
  late : List Late := []
  pendFault : Option (List Byte) := none
  eng0 : List EngOp := []
  eng1 : List EngOp := []
  eng3 : List EngOp := []
  nid : Nat := 0
  marks : List Word := []
  tchecks : List Word := []
  fills : SMap (BitVec 3) := []
  fences : List Fence := []
  unit : Option (Nat × Nat × Nat) := none
  lastUnit : Option (Nat × Nat) := none
  deriving DecidableEq, Repr

/-- State of a unit as the hubs see it (12 R340 to R344). -/
inductive UState where
  | running
  | stopping (record : Nat)
  | saved (record : Nat)
  | lost
  deriving DecidableEq, Repr

/-- A unit that has started (02 R27 to R32). `members` are agent numbers, in tandem the primaries
and then the secondaries, none while it is saved; record 4096 + p names reserve area p (19 R450), 5000
none. `sliced`: it stopped at the end of its slice, at step `since` (12 R335 (d)). `retry`: the word whose comparison failed (16 R406).
`mem0` is memory at its start, on the cores `home`; `hist` the bytes that each later step changed, with the members of
that time (11 R313). -/
structure UnitRec where
  ctx     : Nat
  lid     : Nat
  u       : Nat
  mode    : Nat
  size    : Nat
  prio    : Nat
  members : List Nat
  slot    : Nat
  ucnt    : Word := 0
  tend    : Nat := 0
  st      : UState := .running
  cancel  : Bool := false
  boundary : Bool := false
  abandoned : Bool := false
  sliced  : Bool := false
  since   : Nat := 0
  sampled : Bool := false
  audited : Bool := true
  sig     : Word := 0
  logn    : Nat := 0
  log     : List (Nat × List Byte) := []
  retry   : Option Word := none
  mem0    : List Host.Cell := []
  home    : List Nat := []
  hist    : List (List Nat × List Host.Cell) := []
  stopGtc : Word := 0
  deriving DecidableEq, Repr

/-- A launch (12 R330, R331). Status: 0 waiting, 1 running, 2 finished, 3 cancelled (R328), 4 being cancelled; `up`:
cancelled with its graph, not by name (02 R34). -/
structure Launch where
  lid   : Nat
  serial : Nat
  kimg  : Word
  units : Nat
  mode  : Nat
  size  : Nat
  dies  : BitVec 8
  prio  : Nat
  phase : Nat
  graph : Nat
  edges : List (Word × Word)
  entry : BitVec 13
  vin   : Word
  vstride : Word
  vlen  : Nat
  voff  : Nat
  args  : List Word
  aregs : List Word
  reslen : Nat
  banklen : Nat
  hcwlen : Nat
  tilelen : Nat
  woff  : Nat
  wlen  : Nat
  live  : BitVec 4
  ispsave : Bool
  svec  : BitVec 9
  count : Word := 0
  status : Nat := 0
  ready : Bool := false
  started : Nat := 0
  gone  : List Nat := []
  up    : Bool := false
  deriving DecidableEq, Repr

/-- A graph or a phase: sealed, counter, status, children made, items of its level created before it (02 R32; 12
R326, R332). `up`: cancelled with its parent, 1 when it had been sealed, 2 while it was open (R34). -/
structure Group where
  sealed : Bool := false
  count  : Word := 0
  status : Nat := 0
  made   : Nat := 0
  born   : Nat := 0
  up     : Nat := 0
  deriving DecidableEq, Repr

/-- A job context (12 R324). Graphs by phase × 256 + graph number; `cancelled`: the job has been; `closing`: its last
sealed phase has finished, and what stands in the phase after it is being dropped (12 R323, R332). -/
structure Context where
  root  : Word
  save  : Word
  pannier : Word
  rsize : Nat
  nrec  : Nat
  drain : Nat
  slice : Nat
  pmax  : Nat
  creator : Option Nat := none
  held  : Bool := false
  ending : Bool := false
  cancelled : Bool := false
  closing : Bool := false
  killers : List (Nat × Nat) := []
  sync  : SMap Word := []
  phase : Nat := 0
  launches : List Launch := []
  graphs : SMap Group := []
  phases : SMap Group := []
  nlid  : Nat := 1
  used  : List Nat := []
  owed  : Nat := 0
  deriving DecidableEq, Repr

/-- A hub operation sent and not answered (12 R320): issuer, its answer number, major and FUNC,
operands, and the issuer's context and mode; for an hstop the units, by launch and number, that it names and has not yet
sent a request to, once known (R341). -/
structure HubReq where
  agent : Nat
  id    : Nat
  op    : Nat
  func  : Nat
  x     : Word
  y     : Word
  ctx   : Nat
  sv    : Bool
  enc   : BitVec 32
  reis  : Bool := false
  todo  : Option (List (Nat × Nat)) := none
  deriving DecidableEq, Repr

/-- A message in the mesh (10 R292): sender, its engine and number, target, the classes of its bytes, and the place of
its send in the access order. -/
structure InMesh where
  sender : Nat
  eng    : Nat
  num    : Nat
  target : Nat
  bytes  : List Byte
  cls    : List Nat := []
  pos    : Nat := 0
  deriving DecidableEq, Repr

/-- A tlsig on its way (10 R287): due at a PVC for a member of the same LOCK peloton. `k = 8` stands for
EVT.PEER, which a write of EVSET sets (05 R148). -/
structure InSig where
  sender : Nat
  target : Nat
  k      : Nat
  val    : Word
  due    : Option Nat
  pos    : Nat := 0
  deriving DecidableEq, Repr

/-- A contribution posted to a collective engine (13 R354): the 64 descriptor bytes, the member list, and
the source bytes as read with their classes; from a peer, its number and the key that it carried (R353). -/
structure Coll where
  agent : Nat
  num   : Nat
  addr  : Word
  ctx   : Nat
  desc  : List Byte
  list  : List Byte
  data  : List Byte
  cls   : List Nat
  sv    : Bool
  peer  : Option (Nat × BitVec 24) := none
  deriving DecidableEq, Repr

/-- A word written by a copy and not yet made usable (18 R442): `old` stood there before; `drain` are the engine and the
number of the drain that has completed after it. -/
structure Stale where
  key    : Nat
  old    : BitVec 32
  agent  : Nat
  eng    : Nat
  num    : Nat
  drained : Bool := false
  drain  : Nat × Nat := (0, 0)
  deriving DecidableEq, Repr

/-- What is stored of a 64-byte sector or line beside its data bytes: in HBM the layout tag and the poison mark (18 R426,
R427, R430); in every store the flipped bits: 0 to 511 of the data, from 512 on of the check bits, and in HBM from 576 on
of the three copies of the tag, four bits each (log entry 24). -/
structure Sector where
  tag   : BitVec 4 := 0
  mark  : Nat := 0
  flips : List Nat := []
  deriving DecidableEq, Repr

/-- A journal entry (09 R263): stripe, sector, the XOR of the stored images over data
(`delta`) and over tag and mark (`meta4`), the flipped bits of the old image, which the parity then bears (18 R472 (d));
`heal` names a torn sector that the entry makes whole. -/
structure JEntry where
  stripe : Nat
  sector : Nat
  delta  : List Byte
  meta4  : BitVec 8
  flips  : List Nat := []
  heal   : Option Nat := none
  deriving DecidableEq, Repr

/-- A translation cache entry (09 R254): context, page base, log2 of the page size, leaf entry. -/
structure TEntry where
  ctx  : Nat
  base : Nat
  lsz  : Nat
  leaf : Word
  deriving DecidableEq, Repr

/-- A sampled unit that has retired (16 R408), with the bytes of log that its inputs hold. -/
structure Audit where
  ctx  : Nat
  lid  : Nat
  u    : Nat
  size : Nat
  die  : Nat
  sig  : Word
  logn : Nat := 0
  deriving DecidableEq, Repr

/-- SEMRES of one party (13 R348). -/
structure SemRes where
  deny : Bool := false
  ok   : Bool := false
  seen : BitVec 2 := 0
  deriving DecidableEq, Repr

/-- What a write of the module's own is: the auditor's log, a telemetry record, or an error record, with whether MSI-X is
signalled for it (13 R365; 16 R403, R407). -/
inductive Own
  | audit
  | telemetry
  | record (irq : Bool)
  deriving DecidableEq, Repr

/-- A write of the module's own to host memory that waits for a host route to take force (13 R349). -/
structure OwnWrite where
  addr : Nat
  data : List Byte
  what : Own
  deriving DecidableEq, Repr

/-- Semaphores, host routing and the job registers (13 R348, 12 R321). `hnext`: a host route written and not yet in
force; `hcuts`: by core, the place in its access order before which its accesses had been routed; `hqueue`: the module's
own writes that wait for it (13 R349). `answer`: the last answer to a CXL.mem read (16 R409). `made`: by
context, the job that it holds, or held last, and the jobs that created that one, the nearest first; jobs are numbered by
`njob` as they start (12 R320, R325). -/
structure Ctl where
  sem    : SMap (BitVec 2) := []
  res1   : SemRes := {}
  res2   : SemRes := {}
  res3   : SemRes := {}
  hroute : BitVec 2 := 0
  hnext  : Option (BitVec 2) := none
  hcuts  : SMap Nat := []
  hqueue : List OwnWrite := []
  answer : List (Byte × Nat) := []
  made   : SMap (List Nat) := []
  njob   : Nat := 0
  jimg   : Word := 0
  jentry : BitVec 13 := 0
  jctx   : BitVec 4 := 0
  jrej   : Bool := false
  jbusy  : Bool := false
  jcnt   : SMap Word := []
  tiva   : BitVec 44 := 0
  tigo   : Bool := false
  tiall  : Bool := false
  tictx  : BitVec 4 := 0
  tilsz  : BitVec 6 := 12
  deriving DecidableEq, Repr

/-- A Waiwell link (13 R351, 19 R457): next sequence number to send, next expected, flits kept for replay, each with the
port that it left by, replay request outstanding, flits delivered, and whose turn it is among its ports. -/
structure Link where
  val  : Bool := false
  tx   : BitVec 12 := 0
  rx   : BitVec 12 := 0
  kept : List (BitVec 12 × Nat) := []
  ask  : Option (BitVec 12) := none
  got  : Nat := 0
  turn : Nat := 0
  deriving DecidableEq, Repr

/-- A Waiwell port (13 R352). -/
structure WPort where
  link  : BitVec 7 := 0
  state : BitVec 2 := 0
  member : Bool := false
  deriving DecidableEq, Repr

/-- A partition key entry (13 R352). -/
structure Key where
  val  : Bool := false
  rwa  : BitVec 3 := 0
  key  : BitVec 24 := 0
  len  : BitVec 11 := 0
  base : BitVec 11 := 0
  deriving DecidableEq, Repr

/-- A peer entry (13 R352). -/
structure Peer where
  val  : Bool := false
  link : BitVec 7 := 0
  fid  : BitVec 24 := 0
  deriving DecidableEq, Repr

/-- The Waiwell block (13 R352). -/
structure Fabric where
  ports : SMap WPort := []
  links : SMap Link := []
  peers : SMap Peer := []
  myfid : BitVec 24 := 0
  ckeys : SMap (BitVec 24) := []
  keys  : SMap Key := []
  deriving DecidableEq, Repr

/-- Power and heat of one V-die (13 R361, R363). `last` is the time of the last thermal change, `lastf` that of the last
step of CUR that the temperature made (19 R459). -/
structure Heat where
  thi   : BitVec 16 := 760
  tlo   : BitVec 16 := 720
  temp  : BitVec 16 := 0
  thot  : Bool := false
  floor : BitVec 2 := 0
  rmpg  : BitVec 2 := 0
  thg   : BitVec 2 := 0
  cur   : BitVec 12 := 2000
  setf  : BitVec 12 := 2000
  lbt   : Word := 0
  lbv   : Word := 0
  lt    : SMap (BitVec 16) := []
  last  : Option Nat := none
  lastf : Option Nat := none
  deriving DecidableEq, Repr

/-- Package power registers (13 R362, R364, R365). `counts` are events of classes 0 to 7 in the last
10 µs, `fillc` those of fill activity. `emergAt`: one more than the GTC of the last step of a power emergency whose rise is
not over, else 0; `emergNew`: an episode has begun, and its first step is to come (19 R460). -/
structure Power where
  heat  : SMap Heat := []
  ew    : SMap (BitVec 32) := []
  ramp  : BitVec 9 := 400
  fill  : Bool := false
  pest  : Nat := 0
  dn    : Int := 0
  pprev : Nat := 0
  counts : SMap Nat := []
  fillc : SMap Nat := []
  emerg : Bool := false
  emergAt : Nat := 0
  emergNew : Bool := false
  telbase : Word := 0
  telen : Bool := false
  teln  : BitVec 5 := 6
  telhead : Word := 0
  nest  : Nat := 0
  psum  : Nat := 0
  pmax  : Nat := 0
  pmin  : Nat := 0
  fsum  : Nat := 0
  deriving DecidableEq, Repr

/-- The PTP time unit (13 R356): staged and in force. -/
structure Ptp where
  sgtcb : Word := 0
  sptpb : Word := 0
  srate : BitVec 32 := 0
  sat   : Word := 0
  valid : Bool := false
  pend  : Bool := false
  gtcb  : Word := 0
  ptpb  : Word := 0
  rate  : BitVec 32 := 0
  src   : BitVec 11 := 0
  deriving DecidableEq, Repr

/-- Snapshot registers (13 R358); `trig` a trigger accepted and not yet latched, `fresh`: the last one accepted is latched, `hit`: SNAPGTC has been
reached, or was past when written. -/
structure Snap where
  en     : BitVec 5 := 0
  cmp    : Word := 0xFFFFFFFFFFFFFFFF
  armed  : Bool := false
  missed : BitVec 16 := 0
  pcore  : BitVec 9 := 0
  tag    : Byte := 0
  src    : BitVec 4 := 0
  stamp  : Word := 0
  latch  : Word := 0
  evsel  : BitVec 3 := 0
  trig   : Bool := false
  fresh  : Bool := false
  hit    : Bool := false
  deriving DecidableEq, Repr

/-- The error log, the auditor and the stack registers (16 R402, 18 R432, 19 R453, R456). `irqs` and `irqs1` count the
MSI-X signals on the ports of X0 and X1 (16 R403); `dcauses` is the cause of each V-die's last offline (19 R458). -/
structure Err where
  base   : Word := 0
  viral  : Bool := false
  irqsev : BitVec 3 := 7
  snapsev : BitVec 3 := 7
  n      : BitVec 5 := 6
  corr   : Bool := false
  en     : Bool := false
  head   : Word := 0
  cnt    : Word := 0
  auden  : Bool := false
  audk   : BitVec 5 := 0
  audkey : Word := 0
  audlog : Word := 0
  audlen : Word := 0
  skip   : BitVec 16 := 0
  mism   : BitVec 16 := 0
  mtch   : BitVec 16 := 0
  samp   : BitVec 16 := 0
  audused : Nat := 0
  audpos : Nat := 0
  lost   : BitVec 12 := 0
  boot   : BitVec 12 := 0
  dcause : BitVec 4 := 0
  dcauses : SMap Nat := []
  dabr   : BitVec 8 := 0
  doff   : BitVec 8 := 0
  evdie  : BitVec 3 := 0
  evused : BitVec 36 := 0
  p11    : Bool := false
  act    : Bool := false
  exk    : BitVec 4 := 0
  irqs   : Nat := 0
  irqs1  : Nat := 0
  vsignal : Bool := false
  deriving DecidableEq, Repr

/-- A fault found in a bundle, before it is delivered: KIND, CAUSE, DETAIL's WHERE, and the address
concerned (17 R413, 18 R435). -/
structure Use where
  kind  : Nat := 6
  cause : Nat
  wh    : Nat := 0
  va    : Nat := 0
  pa    : Nat := 0
  slot  : Nat := 9
  group : Nat := 0
  enc   : Nat := 0
  reis  : Bool := false
  sev   : Nat := 5
  detail : Nat := 0
  deriving DecidableEq, Repr

/-- A Quiran module. Cores 0 to 287 by PCORE and hub program slots 288 to 303; unlisted cores and
tiles are in their reset state. `trial`: while the faults of a bundle are being found, those found; `past`: memory as
the last step left it, for the histories of units; `held`: the records of one vc that reach the log together, until they
are appended (16 R404); all three the MODEL's own. -/
structure State where
  agenda : List Turn := []
  cur    : Ctx := {}
  tick   : Nat := 0
  gtc    : Word := 0
  mem    : List Host.Cell := []
  past   : List Host.Cell := []
  sect   : SMap Sector := []
  marks  : SMap Nat := []
  stale  : List Stale := []
  journal : SMap (List JEntry) := []
  torn   : List Nat := []
  tcache : List TEntry := []
  fuse   : SMap (BitVec 36) := []
  vmask  : BitVec 8 := 0xFF
  mmask  : BitVec 8 := 0xFF
  bmask  : BitVec 12 := 0xFFF
  xmask  : BitVec 2 := 3
  stepping : Byte := 0
  tandemCap : BitVec 2 := 0
  cores  : SMap Core := []
  tiles  : SMap Tile := []
  units  : List UnitRec := []
  ctxs   : SMap Context := []
  serial : Nat := 0
  hubq   : List HubReq := []
  mesh   : List InMesh := []
  sigs   : List InSig := []
  colls  : List Coll := []
  seqs   : List (Word × Word) := []
  audits : List Audit := []
  ctl    : Ctl := {}
  fab    : Fabric := {}
  pow    : Power := {}
  ptp    : Ptp := {}
  snap   : Snap := {}
  err    : Err := {}
  rstLast : BitVec 2 := 2
  rstBusy : Bool := false
  vwrites : List Nat := []
  swr    : SMap Nat := []
  srd    : SMap Nat := []
  trial  : Option (List Use) := none
  held   : Option (List Rec) := none
  deriving DecidableEq, Repr

/-- Why the machine would stop. NOBODY RAISES IT: every failure that the manual describes is taken
as an error trap, an unwind, a fatal stop or a logged record, all of them next states; the interface
asks for a type of faults. Safe. -/
inductive Fault where
  /-- No step raises it. Safe: nothing stops where the hardware goes on. -/
  | neverRaised
  deriving DecidableEq, Repr

/-- An instruction without a meaning. -/
inductive Refusal where
  /-- Raised by an arm of `exec` whose instruction has no meaning yet, with its mnemonic. Safe. -/
  | notModelled (mnemonic : String)
  deriving DecidableEq, Repr

/-- The module right after power-on and its cold reset (13 R357): every field at the value given
above; `fuse` unlisted means a V-die with all 36 cores enabled (log entry 4); memory lists nothing
and reads 0 (19 R454; log entry 3). -/
def State.reset : State := {}

/-- A hub program slot runs in supervisor mode (05 R146), a core starts in program mode. -/
def Core.resetOf (p : Nat) : Core := { sv := decide (288 ≤ p) }

end Sys2Proof.Machine
end

