-- ==== Sys2Proof/Machine/Ops.lean ====
section
/-! DEFINITION. Named operations over sparse maps, bytes, memory, cores, units and registers. Every
read and write of a register or of a stored byte goes through these. -/

namespace Sys2Proof.Machine

open Sys2Proof

/-! ### Sparse maps -/

/-- The entry at a key, or the default. -/
def SMap.get {α : Type} (m : SMap α) (d : α) (k : Nat) : α :=
  match m with
  | [] => d
  | (j, x) :: r => if j = k then x else SMap.get r d k

/-- Insert a pair before the first higher key. -/
def SMap.ins {α : Type} (m : SMap α) (k : Nat) (x : α) : SMap α :=
  match m with
  | [] => [(k, x)]
  | (j, y) :: r => if k < j then (k, x) :: (j, y) :: r else (j, y) :: SMap.ins r k x

/-- Set the entry at a key; the default is never listed. -/
def SMap.put {α : Type} [DecidableEq α] (m : SMap α) (d : α) (k : Nat) (x : α) : SMap α :=
  let r := m.filter (fun e => e.1 != k)
  if x = d then r else SMap.ins r k x

/-- Apply a function to the entry at a key. -/
def SMap.upd {α : Type} [DecidableEq α] (m : SMap α) (d : α) (k : Nat) (f : α → α) : SMap α :=
  m.put d k (f (m.get d k))

/-- Keys strictly rising, no entry the default. -/
def SMap.canon {α : Type} [DecidableEq α] (d : α) : SMap α → Bool
  | [] => true
  | [(_, x)] => decide (x ≠ d)
  | (j, x) :: (k, y) :: r => decide (x ≠ d) && decide (j < k) && SMap.canon d ((k, y) :: r)

/-! ### Bytes -/

/-- A little-endian number (00 R2). -/
def leNat : List Byte → Nat
  | [] => 0
  | b :: r => b.toNat + 256 * leNat r

/-- The `n` low bytes of a number, lowest first (00 R2). -/
def toBytes : Nat → Nat → List Byte
  | 0, _ => []
  | n + 1, x => BitVec.ofNat 8 x :: toBytes n (x / 256)

/-- Bytes `lo` to `lo + n - 1` of a record as a number. -/
def fieldOf (bs : List Byte) (lo n : Nat) : Nat := leNat ((bs.drop lo).take n)

/-- `lo`, `lo + 1`, … of length `n`. -/
def seqFrom : Nat → Nat → List Nat
  | _, 0 => []
  | lo, n + 1 => lo :: seqFrom (lo + 1) n

/-- Is x a multiple of k? -/
abbrev aligned (x k : Nat) : Bool := x % k == 0

/-- Bit field [lo + n - 1 : lo] of a natural number. -/
def nbits (x lo n : Nat) : Nat := (x / 2 ^ lo) % 2 ^ n

/-- Bit `k` of a natural number. -/
def nbit (x k : Nat) : Bool := x / 2 ^ k % 2 == 1

/-! ### Stored bytes (State.mem) -/

/-- One stored byte; an unlisted address reads 0 (log entry 3). -/
def State.byte (s : State) (a : Nat) : Byte := SMap.get s.mem 0 a

/-- Store one byte. -/
def State.setByte (s : State) (a : Nat) (b : Byte) : State := { s with mem := SMap.put s.mem 0 a b }

/-- Memory's canonical form. -/
abbrev Memory.wf (m : List Host.Cell) : Bool := SMap.canon (0 : Byte) m

/-- `n` stored bytes from address `a`. -/
def State.bytes (s : State) (a n : Nat) : List Byte := (seqFrom a n).map s.byte

/-- Store bytes from address `a` on. -/
def State.setBytes (s : State) (a : Nat) : List Byte → State
  | [] => s
  | b :: r => (s.setByte a b).setBytes (a + 1) r

/-- The cells in which a second memory differs from a first one, with their second contents. -/
def memDiff : Nat → List Host.Cell → List Host.Cell → List Host.Cell
  | 0, _, _ => []
  | _ + 1, [], l => l
  | n + 1, (a, _) :: r, [] => (a, 0) :: memDiff n r []
  | n + 1, (a, x) :: r, (b, y) :: l =>
    if a = b then (if x = y then memDiff n r l else (b, y) :: memDiff n r l)
    else if a < b then (a, 0) :: memDiff n r ((b, y) :: l)
    else (b, y) :: memDiff n ((a, x) :: r) l

/-- Note for every unit the bytes that the last step changed (11 R313). -/
def State.noteWrites (s : State) : State :=
  if s.units.isEmpty then s else
  match memDiff (s.past.length + s.mem.length) s.past s.mem with
  | [] => s
  | d => { s with past := s.mem, units := s.units.map fun r => { r with hist := (r.members, d) :: r.hist } }

/-- Store bytes 0 from `a` on: remove every listed cell of the range. -/
def State.zeroBytes (s : State) (a n : Nat) : State :=
  { s with mem := s.mem.filter (fun c => !(a ≤ c.1 && c.1 < a + n)) }

/-! ### Store addresses (log entry 6) -/

/-- Model addresses from here on stand for the protected state of hubs and parity journals: they hold no bytes of the
map, but flipped bits are noted there (log entry 109). -/
abbrev guardBase : Nat := 0x10030000000000

/-- Agents from here on are hub program slots. -/
abbrev slotBase : Nat := 288

/-- Physical address of a vault byte (09 R248). -/
def vaultAddr (q off : Nat) : Nat := 0x10000000000 + 0x800000 * q + off
/-- Model address of a hub memory byte (12 R319). -/
def hubAddr (c off : Nat) : Nat := 0x10000000000000 + 0x40000 * c + off
/-- Store address of an L-space byte of an agent: its vault or its hub memory (09 R238, 12 R319). -/
def localAddr (p off : Nat) : Nat := if p < slotBase then vaultAddr p off else hubAddr (p - slotBase) off
/-- Model address of an ISP byte by its path offset (04 R100). -/
def ispAddr (p off : Nat) : Nat := 0x10000001000000 + 0x10000 * p + off
/-- Model address of a microstore or entry table byte (08 R224). -/
def microAddr (q off : Nat) : Nat := 0x10000004000000 + 0x10000 * q + off
/-- Model address of an HCW table byte (06 R159). -/
def hcwAddr (p off : Nat) : Nat := 0x10000008000000 + 0x10000 * p + off
/-- Model address of a snapshot record byte (13 R359). -/
def snapAddr (off : Nat) : Nat := 0x1000000C000000 + off
/-- Model address of a parity unit byte (09 R262): stripe and offset within the unit. -/
def parityAddr (stripe off : Nat) : Nat := 0x10010000000000 + 256 * stripe + off
/-- A path's store (09 R239): 0 ISP, 1 microstore, 2 HCW. -/
def pathStore (path p off : Nat) : Nat :=
  match path with | 0 => ispAddr p off | 1 => microAddr p off | _ => hcwAddr p off
/-- Does an offset hold memory on the path (10 R277)? -/
def pathHolds (path off : Nat) : Bool :=
  match path with
  | 0 => off < 0x800 || (0x4000 ≤ off && off < 0xC000)
  | 1 => off < 0x9000
  | 2 => off < 0x4000
  | _ => false

/-! ### Cores -/

/-- The sequencer of an agent. -/
def State.core (s : State) (p : Nat) : Core := SMap.get s.cores (Core.resetOf p) p

/-- Set the sequencer of an agent. -/
def State.setCore (s : State) (p : Nat) (c : Core) : State :=
  { s with cores := SMap.put s.cores (Core.resetOf p) p c }

/-- Change the sequencer of an agent. -/
def State.updCore (s : State) (p : Nat) (f : Core → Core) : State := s.setCore p (f (s.core p))

/-- The sequencer in whose name an operation acts. -/
abbrev State.me (s : State) : Core := s.core s.cur.core

/-- Change the sequencer in whose name an operation acts. -/
def State.upd (s : State) (f : Core → Core) : State := s.updCore s.cur.core f

/-- The tile of a core. -/
def State.tile (s : State) (q : Nat) : Tile := SMap.get s.tiles {} q

/-- Set the tile of a core. -/
def State.setTile (s : State) (q : Nat) (t : Tile) : State := { s with tiles := SMap.put s.tiles {} q t }

/-- Change the tile of a core. -/
def State.updTile (s : State) (q : Nat) (f : Tile → Tile) : State := s.setTile q (f (s.tile q))

/-- Is the physical core enabled (01 R21)? -/
def State.enabled (s : State) (q : Nat) : Bool :=
  q < slotBase && (SMap.get s.fuse (BitVec.allOnes 36) (q / 36)).getLsbD (q % 36)

/-- HARVEST.EN of a V-die (01 R21). -/
def State.fuseOf (s : State) (d : Nat) : BitVec 36 := SMap.get s.fuse (BitVec.allOnes 36) d

/-- Is a V-die offline (19 R453)? -/
def State.offline (s : State) (d : Nat) : Bool := s.err.doff.getLsbD d

/-- Is an agent a hub program slot? -/
abbrev isSlot (p : Nat) : Bool := slotBase ≤ p

/-- First core of the cluster of core `q` (01 R10). -/
def clusterBase (q : Nat) : Nat := 4 * (q / 4)

/-- Enabled physical cores of V-die `d`, ascending. -/
def State.enabledOf (s : State) (d : Nat) : List Nat := (seqFrom (36 * d) 36).filter s.enabled

/-! ### Units and contexts -/

/-- The unit with this name. -/
def State.findUnit (s : State) (c l u : Nat) : Option UnitRec :=
  s.units.find? (fun r => r.ctx == c && r.lid == l && r.u == u)

/-- Replace the record of a unit. -/
def State.setUnit (s : State) (r : UnitRec) : State :=
  { s with units := s.units.map (fun x => if x.ctx == r.ctx && x.lid == r.lid && x.u == r.u then r else x) }

/-- Remove a unit. -/
def State.dropUnit (s : State) (c l u : Nat) : State :=
  { s with units := s.units.filter (fun x => !(x.ctx == c && x.lid == l && x.u == u)) }

/-- The unit that an agent runs. -/
def State.unitOf (s : State) (p : Nat) : Option UnitRec :=
  match (s.core p).unit with
  | none => none
  | some (c, l, u) => s.findUnit c l u

/-- A context. -/
def State.ctx (s : State) (c : Nat) : Option Context := (s.ctxs.find? (fun e => e.1 == c)).map (·.2)

/-- Set a context. -/
def State.setCtx (s : State) (c : Nat) (x : Context) : State :=
  { s with ctxs := SMap.ins (s.ctxs.filter (fun e => e.1 != c)) c x }

/-- Remove a context. -/
def State.dropCtx (s : State) (c : Nat) : State := { s with ctxs := s.ctxs.filter (fun e => e.1 != c) }

/-- The job context of an agent. -/
def State.ctxOf (s : State) (p : Nat) : Nat :=
  if isSlot p then p - slotBase else match (s.core p).unit with | some (c, _, _) => c | none => 0

/-- A launch of a context. -/
def Context.launch (x : Context) (l : Nat) : Option Launch := x.launches.find? (fun y => y.lid == l)

/-- The launch of a unit. -/
def State.launchOf (s : State) (c l : Nat) : Option Launch :=
  match s.ctx c with | none => none | some x => x.launch l

/-- Replace a launch. -/
def State.setLaunch (s : State) (c : Nat) (y : Launch) : State :=
  match s.ctx c with
  | none => s
  | some x => s.setCtx c { x with launches := x.launches.map (fun z => if z.lid == y.lid then y else z) }

/-- Mode of the unit an agent runs: 0 SOLO, 1 LOCK, 2 tandem; a size-1 LOCK unit is SOLO (02 R28). -/
def State.modeOf (s : State) (p : Nat) : Nat :=
  match s.unitOf p with
  | some r => if r.mode = 1 ∧ r.size = 1 then 0 else r.mode
  | none => 0

/-- The agents whose vc count is one with agent `p`'s: the unit's members in LOCK and tandem mode. -/
def State.lock (s : State) (p : Nat) : List Nat :=
  match s.unitOf p with
  | some r => if s.modeOf p = 0 then [p] else r.members
  | none => [p]

/-- All members of the unit of an agent. -/
def State.membersOf (s : State) (p : Nat) : List Nat :=
  match s.unitOf p with | some r => r.members | none => [p]

/-- Position of a number in a list. -/
def indexIn (l : List Nat) (p : Nat) : Nat := (l.takeWhile (· != p)).length

/-- Member index (02 R27): in tandem a secondary has its primary's. -/
def State.midx (s : State) (p : Nat) : Nat :=
  match s.unitOf p with
  | some r => if r.mode = 2 then indexIn r.members p % r.size else indexIn r.members p
  | none => 0

/-- The primary of a tandem secondary (02 R49); other agents are their own. -/
def State.primary (s : State) (p : Nat) : Nat :=
  match s.unitOf p with
  | some r => if r.mode = 2 then (r.members[indexIn r.members p % r.size]?).getD p else p
  | none => p

/-- Is an agent a tandem secondary? -/
def State.secondary (s : State) (p : Nat) : Bool := s.primary p != p

/-! ### Registers (04 R91) -/

/-- s[r]; s0 reads 0. -/
def Core.gs (c : Core) (r : BitVec 5) : Word := if r = 0 then 0 else c.s.get 0 r.toNat
/-- Write s[r]; a write to s0 is discarded. -/
def Core.setS (c : Core) (r : Nat) (w : Word) : Core := if r = 0 then c else { c with s := c.s.put 0 r w }
/-- a[r]. -/
def Core.ga (c : Core) (r : BitVec 4) : Word := c.a.get 0 r.toNat
/-- Write a[r]. -/
def Core.setA (c : Core) (r : Nat) (w : Word) : Core := { c with a := c.a.put 0 r w }
/-- p[r]. -/
def Core.gp (c : Core) (r : BitVec 3) : Bool := c.p.getLsbD r.toNat
/-- Write p[r]. -/
def Core.setP (c : Core) (r : Nat) (b : Bool) : Core :=
  { c with p := if b then c.p ||| (1#8 <<< r) else c.p &&& ~~~(1#8 <<< r) }
/-- Key of lane `i` of v[r] in group `g`. -/
def vkey (g r i : Nat) : Nat := 512 * g + 16 * r + i
/-- Lane `i` of v[r] in group `g`. -/
def Core.gv (c : Core) (g r i : Nat) : Lane := c.v.get 0 (vkey g r i)
/-- k[r] in group `g`. -/
def Core.gk (c : Core) (g r : Nat) : BitVec 16 := c.k.get 0 (8 * g + r)
/-- mp[k]. -/
def Core.gmp (c : Core) (k : Nat) : Word := c.mp.get 0 k
/-- tl[k]. -/
def Core.gtl (c : Core) (k : Nat) : Word := c.tl.get 0 k
/-- Set tl[k]. -/
def Core.setTl (c : Core) (k : Nat) (w : Word) : Core := { c with tl := c.tl.put 0 k w }
/-- Random source of group `g` (03 R59). -/
def Core.rndOf (c : Core) (g : Nat) : Word := c.rnd.get 0 g
/-- Set the random source of group `g`. -/
def Core.setRnd (c : Core) (g : Nat) (w : Word) : Core := { c with rnd := c.rnd.put 0 g w }
/-- Port q (04 R91). -/
def Core.port (c : Core) (q : Nat) : Port := c.ports.get {} q
/-- Set port q. -/
def Core.setPort (c : Core) (q : Nat) (x : Port) : Core := { c with ports := c.ports.put {} q x }

/-- RandStep (03 R59). -/
def randStep (x : Word) : Word :=
  let x := if x = 0 then 1 else x
  let y := x >>> 1
  if x.getLsbD 0 then y ^^^ 0xD800000000000000 else y

/-! ### Results in flight (04 R96 to R99) -/

/-- A result of the acting operation: its value lands `lat` vc after its issue. -/
def Core.land (c : Core) (ord : BitVec 4) (d : Dest) (x : Src) (lat : Nat) : Core :=
  { c with pend := c.pend ++ [{ dest := d, src := x, issue := c.vc, ord := ord.toNat,
                                perform := c.vc, land := c.vc + lat }] }

/-- A result of the acting operation. -/
def State.land (s : State) (d : Dest) (x : Src) (lat : Nat) : State :=
  s.upd fun c => c.land s.cur.slot d x lat

/-- A word for s[d] after `lat` vc (05 R117). -/
def State.landS (s : State) (d : BitVec 5) (w : Word) (lat : Nat) : State :=
  s.land (.s d.toNat) (.word w) lat
/-- A word for a[d] in the next vc (05 R123). -/
def State.landA (s : State) (d : BitVec 4) (w : Word) : State := s.land (.a d.toNat) (.word w) 1
/-- A truth value for p[d] in the next vc (05 R124). -/
def State.landP (s : State) (d : BitVec 3) (b : Bool) : State :=
  s.land (.p d.toNat) (.word (if b then 1 else 0)) 1

/-! ### ISP words (04 R100, R101) -/

/-- Path offset of a word address in the resident region or the fetch window. -/
def ispOffset (sel : Bool) (w : Nat) : Option Nat :=
  if w < 0x200 then some (4 * w)
  else if 0x1000 ≤ w ∧ w < 0x2000 then some ((if sel then 0x8000 else 0x4000) + 4 * (w - 0x1000))
  else none



/-- The target word of W and T (04 R102). -/
def target (w : Bool) (t : BitVec 12) : Word := if w then t.setWidth 64 else 0x1000 + t.setWidth 64

/-- Is a target in its window (17 R415, cause 0x2A)? -/
def targetOk (w : Bool) (t : BitVec 12) : Bool := !w || t.toNat ≤ 0x1FF

/-- Is a word address inside the code ranges (04 R100)? -/
def codeRange (w : Word) : Bool := w.toNat < 0x200 || (0x1000 ≤ w.toNat && w.toNat < 0x2000)

/-! ### Taking an exception and returning from one (05 R141, R142; 16 R396) -/

/-- Entry to the supervisor handler, shared by trap and by an error trap: EPC, ESTAT.PSV, STAT.SV and
ECODE are written, and the next bundle is the one at SVEC, which must be a checkpoint bundle. -/
def Core.enterTrap (c : Core) (epc : Word) (code : BitVec 16) : Core :=
  { c with ecode := code, epc := epc, psv := c.sv, sv := true }

/-- The word of the handler (05 R145). -/
def Core.handler (c : Core) : Word := c.svec.setWidth 64

/-- Return from a handler: the mode comes from ESTAT.PSV; control goes to EPC. -/
def Core.leaveTrap (c : Core) : Core := { c with sv := c.psv }

/-- Control goes at once to a word whose bundle must be a checkpoint bundle (05 R141, 16 R399). -/
def Core.goCheckpoint (c : Core) (w : Word) : Core := { c with pc := w, needCk := true }

/-- A machine step in no agent's name. -/
abbrev noAgent : Nat := 304

/-- Count `n` events of a class for the power estimate (13 R362); those of freewheel units are fill activity. -/
def State.tally (s : State) (k n : Nat) : State :=
  let fill := match s.unitOf s.cur.core with | some r => r.prio == 255 | none => false
  { s with pow := { s.pow with counts := SMap.upd s.pow.counts 0 k (· + n),
                               fillc := if fill then SMap.upd s.pow.fillc 0 k (· + n) else s.pow.fillc } }

/-! ### The agenda (log entry 1) -/

/-- Put turns before those due. -/
def State.pushTurns (s : State) (l : List Turn) : State := { s with agenda := l ++ s.agenda }

/-- Remove what the agenda still holds for these agents' bundles. -/
def State.cancelTurns (s : State) (l : List Nat) : State :=
  { s with agenda := s.agenda.filter fun t =>
      match t with
      | .op o => !(l.contains o.ctx.core)
      | _ => true }

/-- The lowest bit set of a mask's lane list under a mask selector: lane `i` of group `g` is active
when MSEL is 0 or bit `i` of the group's k[MSEL] is 1 (06 R155). -/
def Core.active (c : Core) (g : Nat) (msel : BitVec 3) (i : Nat) : Bool :=
  msel == 0 || (c.gk g msel.toNat).getLsbD i

end Sys2Proof.Machine
end

