-- ==== Sys2Proof/Machine/Formats.lean ====
section
/-! DEFINITION. Number formats, rounding, saturation and conversion (03 R57 to R68, R79 to R83). Values
are exact: a finite value is a sign, a natural mantissa and a power of two. -/

namespace Sys2Proof.Machine

open Sys2Proof

/-- The prefix fields that govern a rounding (03 R57). -/
structure Mode where
  rnd : BitVec 3 := 0
  sat : BitVec 2 := 0
  ftz : Bool := false
  deriving DecidableEq, Repr

/-- The prefix of an operation's bundle (04 R90). -/
def Ctx.mode (c : Ctx) : Mode := { rnd := c.rnd, sat := c.sat, ftz := c.ftz }

/-- An exact value: NaN, an infinity, or ±m × 2^e. -/
inductive Exact where
  | nan
  | inf (neg : Bool)
  | fin (neg : Bool) (m : Nat) (e : Int)
  deriving DecidableEq, Repr

/-! ### Rounding (03 R58, R59) -/

/-- NextRandom16 from the state of a source: bits [15:0] of the stepped state. -/
def next16 (g : Word) : Nat := (randStep g).toNat % 65536

/-- Round(n / d) by mode; an inexact stochastic rounding steps the source (03 R58). -/
def roundQ (rnd : BitVec 3) (n : Int) (d : Nat) (g : Word) : Int × Word :=
  let lo := n / (d : Int)
  let r := (n % (d : Int)).toNat
  if r = 0 then (lo, g) else
  match rnd.toNat with
  | 0 => (if 2 * r < d then lo else if d < 2 * r then lo + 1 else if lo % 2 = 0 then lo else lo + 1, g)
  | 1 => (if 0 < n then lo else lo + 1, g)
  | 2 => (lo + 1, g)
  | 3 => (lo, g)
  | 4 => (if 2 * r < d then lo else if d < 2 * r then lo + 1 else if 0 < n then lo + 1 else lo, g)
  | _ => (if 65536 ≤ r * 65536 / d + next16 g then lo + 1 else lo, randStep g)

/-- Round(x × 2^k) of an integer by mode. -/
def roundPow (rnd : BitVec 3) (x : Int) (k : Int) (g : Word) : Int × Word :=
  if 0 ≤ k then (x * (2 ^ k.toNat : Nat), g) else roundQ rnd x (2 ^ (-k).toNat) g

/-! ### Floating-point formats (03 R62, R68) -/

/-- Which special values a format has. -/
inductive FpKind where
  | ieee | e4m3 | e2m1
  deriving DecidableEq, Repr

/-- A floating-point format. -/
structure Fp where
  eb   : Nat
  mb   : Nat
  kind : FpKind := .ieee
  deriving DecidableEq, Repr

def fp32 : Fp := { eb := 8, mb := 23 }
def bf16 : Fp := { eb := 8, mb := 7 }
def fp16 : Fp := { eb := 5, mb := 10 }
def e4m3 : Fp := { eb := 4, mb := 3, kind := .e4m3 }
def e5m2 : Fp := { eb := 5, mb := 2 }
def e2m1 : Fp := { eb := 2, mb := 1, kind := .e2m1 }

/-- Exponent bias. -/
def Fp.bias (f : Fp) : Nat := 2 ^ (f.eb - 1) - 1
/-- Exponent of the smallest normal value. -/
def Fp.emin (f : Fp) : Int := 1 - f.bias
/-- The greatest exponent field of a finite value. -/
def Fp.topField (f : Fp) : Nat := match f.kind with | .ieee => 2 ^ f.eb - 2 | _ => 2 ^ f.eb - 1
/-- The encoding of the largest finite magnitude. -/
def Fp.maxBits (f : Fp) : Nat :=
  match f.kind with
  | .e4m3 => f.topField * 2 ^ f.mb + 6
  | _ => f.topField * 2 ^ f.mb + (2 ^ f.mb - 1)
/-- The canonical NaN (03 R61); E2M1 has none and takes +0 (R60). -/
def Fp.nanBits (f : Fp) : Nat :=
  match f.kind with
  | .ieee => (2 ^ f.eb - 1) * 2 ^ f.mb + 2 ^ (f.mb - 1)
  | .e4m3 => 0x7F
  | .e2m1 => 0
/-- The encoding of +∞ of an IEEE format. -/
def Fp.infBits (f : Fp) : Nat := (2 ^ f.eb - 1) * 2 ^ f.mb
/-- With a sign bit. -/
def Fp.signed (f : Fp) (neg : Bool) (b : Nat) : Nat := if neg then 2 ^ (f.eb + f.mb) + b else b

/-- The value of an encoding; FTZ replaces a subnormal by a zero of its sign (03 R57). -/
def Fp.read (f : Fp) (ftz : Bool) (x : Nat) : Exact :=
  let neg := nbit x (f.eb + f.mb)
  let ex := nbits x f.mb f.eb
  let fr := nbits x 0 f.mb
  if f.kind = .ieee ∧ ex = 2 ^ f.eb - 1 then (if fr = 0 then .inf neg else .nan)
  else if f.kind = .e4m3 ∧ ex = 15 ∧ fr = 7 then .nan
  else if ex = 0 then (if ftz then .fin neg 0 0 else .fin neg fr (f.emin - f.mb))
  else .fin neg (2 ^ f.mb + fr) (f.emin - f.mb + (ex - 1 : Nat))

/-- Floor of the base-2 logarithm of n / d, both positive. -/
def log2Q (n d : Nat) : Int :=
  let k : Int := (Nat.log2 n : Int) - (Nat.log2 d : Int)
  let below := if 0 ≤ k then n < d * 2 ^ k.toNat else n * 2 ^ (-k).toNat < d
  if below then k - 1 else k

/-- What a finite overflow is written as (03 R60). -/
def Fp.overflow (f : Fp) (m : Mode) (neg : Bool) : Nat :=
  let top := f.signed neg f.maxBits
  match f.kind with
  | .e2m1 => top
  | .e4m3 => if m.sat = 0 then f.nanBits else top
  | .ieee =>
    if m.sat ≠ 0 then top else
    match m.rnd.toNat with
    | 1 => top
    | 2 => if neg then top else f.infBits
    | 3 => if neg then f.signed true f.infBits else top
    | _ => f.signed neg f.infBits

/-- What an infinity is written as (03 R60). -/
def Fp.infinity (f : Fp) (m : Mode) (neg : Bool) : Nat :=
  match f.kind with
  | .e2m1 => f.signed neg f.maxBits
  | .e4m3 => if m.sat = 2 then f.signed neg f.maxBits else f.nanBits
  | .ieee => if m.sat = 2 then f.signed neg f.maxBits else f.signed neg f.infBits

/-- Round the nonzero value ±n / d to the format (03 R60). -/
def Fp.roundTo (f : Fp) (m : Mode) (neg : Bool) (n d : Nat) (g : Word) : Nat × Word :=
  let e := log2Q n d
  let q : Int := (if e < f.emin then f.emin else e) - f.mb
  let num : Int := if 0 ≤ q then n else n * (2 ^ (-q).toNat : Nat)
  let den : Nat := if 0 ≤ q then d * 2 ^ q.toNat else d
  let (r, g') := roundQ m.rnd (if neg then -num else num) den g
  let r := r.natAbs
  if r < 2 ^ f.mb then (f.signed neg (if m.ftz then 0 else r), g') else
  let (r, q) := if r = 2 ^ (f.mb + 1) then (2 ^ f.mb, q + 1) else (r, q)
  let field := (q + f.mb + f.bias).toNat
  let b := field * 2 ^ f.mb + (r - 2 ^ f.mb)
  if f.maxBits < b then (f.overflow m neg, g') else (f.signed neg b, g')

/-- Write an exact value in the format (03 R60, R61). -/
def Fp.write (f : Fp) (m : Mode) (x : Exact) (g : Word) : Nat × Word :=
  match x with
  | .nan => (f.nanBits, g)
  | .inf neg => (f.infinity m neg, g)
  | .fin neg 0 _ => (f.signed neg 0, g)
  | .fin neg n e =>
    if 0 ≤ e then f.roundTo m neg (n * 2 ^ e.toNat) 1 g else f.roundTo m neg n (2 ^ (-e).toNat) g

/-! ### Exact arithmetic (06 R162) -/

/-- −x. -/
def Exact.neg : Exact → Exact
  | .nan => .nan
  | .inf s => .inf !s
  | .fin s m e => .fin (!s) m e

/-- Is the value a zero? -/
def Exact.isZero : Exact → Bool
  | .fin _ 0 _ => true
  | _ => false

/-- Sign of a value. -/
def Exact.sign : Exact → Bool
  | .nan => false
  | .inf s => s
  | .fin s _ _ => s

/-- x × y; 0 × ∞ is NaN. -/
def Exact.mul (x y : Exact) : Exact :=
  match x, y with
  | .nan, _ => .nan
  | _, .nan => .nan
  | .inf s, y => if y.isZero then .nan else .inf (s != y.sign)
  | x, .inf s => if x.isZero then .nan else .inf (x.sign != s)
  | .fin s m e, .fin t n k => .fin (s != t) (m * n) (e + k)

/-- The signed integer ±m × 2^(e - k), for k at most e. -/
def scaled (neg : Bool) (m : Nat) (e k : Int) : Int :=
  let x : Int := m * (2 ^ (e - k).toNat : Nat)
  if neg then -x else x

/-- x + y; ∞ − ∞ is NaN; an exact zero of operands of opposite sign is +0, and −0 under RND 3. -/
def Exact.add (rnd : BitVec 3) (x y : Exact) : Exact :=
  match x, y with
  | .nan, _ => .nan
  | _, .nan => .nan
  | .inf s, .inf t => if s = t then .inf s else .nan
  | .inf s, _ => .inf s
  | _, .inf t => .inf t
  | .fin s m e, .fin t n k =>
    let b := min e k
    let v := scaled s m e b + scaled t n k b
    if v = 0 then .fin (if s = t then s else rnd == 3) 0 0 else .fin (decide (v < 0)) v.natAbs b

/-- Comparison of two values that are not NaN: the sign of x − y, zeros equal. -/
def Exact.cmp (x y : Exact) : Int :=
  match x, y with
  | .nan, _ => 0
  | _, .nan => 0
  | .inf s, .inf t => (if s then 0 else 1) - (if t then 0 else 1)
  | .inf s, _ => if s then -1 else 1
  | _, .inf t => if t then 1 else -1
  | .fin s m e, .fin t n k => scaled s m e (min e k) - scaled t n k (min e k)

/-- An integer as an exact value. -/
def Exact.ofInt (x : Int) : Exact := .fin (decide (x < 0)) x.natAbs 0

/-! ### Elements of lanes (06 R154) -/

/-- The floating-point format of ET 0, 1, 2. -/
def fpOf (et : BitVec 3) : Fp := match et.toNat with | 0 => fp32 | 1 => bf16 | _ => fp16
/-- Element width in bits. -/
def widthOf (et : BitVec 3) : Nat := match et.toNat with | 0 | 3 => 32 | 1 | 2 | 4 => 16 | _ => 8
/-- The element bits of a lane, unsigned. -/
def elemBits (et : BitVec 3) (x : Lane) : Nat := x.toNat % 2 ^ widthOf et
/-- The integer element of a lane: signed but for UINT8. -/
def elemInt (et : BitVec 3) (x : Lane) : Int :=
  let w := widthOf et
  let n := elemBits et x
  if et ≠ 6 ∧ 2 ^ (w - 1) ≤ n then (n : Int) - (2 ^ w : Nat) else n
/-- The floating-point element of a lane. -/
def elemNum (et : BitVec 3) (ftz : Bool) (x : Lane) : Exact := (fpOf et).read ftz (elemBits et x)
/-- The lane that holds element bits. -/
def laneOf (et : BitVec 3) (n : Nat) : Lane :=
  match et.toNat with
  | 4 => (BitVec.ofNat 16 n).signExtend 32
  | 5 => (BitVec.ofNat 8 n).signExtend 32
  | 6 => BitVec.ofNat 32 (n % 256)
  | 1 | 2 => BitVec.ofNat 32 (n % 65536)
  | _ => BitVec.ofNat 32 n
/-- Least and greatest value of an integer type. -/
def intRange (et : BitVec 3) : Int × Int :=
  match et.toNat with
  | 3 => (-2147483648, 2147483647)
  | 4 => (-32768, 32767)
  | 5 => (-128, 127)
  | _ => (0, 255)
/-- Clamp to a range. -/
def clampInt (r : Int × Int) (x : Int) : Int := if x < r.1 then r.1 else if r.2 < x then r.2 else x
/-- An exact integer fitted to the element (06 R160): modulo 2^w under SAT 0, else clamped. -/
def fitInt (et : BitVec 3) (sat : BitVec 2) (x : Int) : Lane :=
  laneOf et (((if sat = 0 then x else clampInt (intRange et) x) % (2 ^ widthOf et : Nat)).toNat)

/-! ### Weight formats (03 R63 to R67) -/

/-- T(s, e) of 03 R63. -/
def twTerm (s : Bool) (e : Nat) : Int := if e = 7 then 0 else if s then -(2 ^ e : Nat) else (2 ^ e : Nat)
/-- The value of a TW8 byte. -/
def tw8Val (b : Nat) : Int := twTerm (nbit b 7) (nbits b 4 3) + twTerm (nbit b 3) (nbits b 0 3)
/-- The value of a TW4 code. -/
def tw4Val (b : Nat) : Int := twTerm (nbit b 3) (nbits b 0 3)
/-- TW8 magnitudes, ascending. -/
def tw8Set : List Nat :=
  [0, 1, 2, 3, 4, 5, 6, 7, 8, 9, 10, 12, 14, 15, 16, 17, 18, 20, 24, 28, 30, 31, 32, 33, 34, 36, 40, 48,
   56, 60, 62, 63, 64, 65, 66, 68, 72, 80, 96, 128]
/-- TW4 magnitudes, ascending (06 R166). -/
def tw4Set : List Nat := [0, 1, 2, 4, 8, 16, 32, 64]

/-- Trailing zero bits of a magnitude; zero counts as having the most (03 R67). -/
def trailing (x : Nat) : Nat :=
  if x = 0 then 64 else ((seqFrom 0 8).takeWhile (fun i => x % 2 ^ (i + 1) == 0)).length

/-- The greatest member at most n / d, and the least at least n / d (a member itself twice). -/
def around (set : List Nat) (n d : Nat) : Nat × Nat :=
  let lo := (set.filter (fun x => x * d ≤ n)).getLastD 0
  let hi := (set.find? (fun x => decide (n ≤ x * d))).getD (set.getLastD 0)
  (lo, hi)

/-- Round ±n / d to ± the members of a set (03 R67); beyond its greatest member, that member. -/
def roundSet (set : List Nat) (rnd : BitVec 3) (neg : Bool) (n d : Nat) (g : Word) : Int × Word :=
  let sgn := fun (x : Nat) => if neg then -(x : Int) else (x : Int)
  let (lo, hi) := around set n d
  if lo = hi ∨ n = lo * d ∨ hi * d < n then (sgn (if n = lo * d then lo else hi), g) else
  let mid := n * 2
  let half := (lo + hi) * d
  match rnd.toNat with
  | 0 =>
    let z := if trailing hi > trailing lo then hi else lo
    (sgn (if mid < half then lo else if half < mid then hi else z), g)
  | 1 => (sgn lo, g)
  | 2 => (sgn (if neg then lo else hi), g)
  | 3 => (sgn (if neg then hi else lo), g)
  | 4 => (sgn (if mid < half then lo else hi), g)
  | _ =>
    let a := sgn (if neg then hi else lo); let b := sgn (if neg then lo else hi)
    let num := if neg then hi * d - n else n - lo * d
    (if 65536 ≤ num * 65536 / ((hi - lo) * d) + next16 g then b else a, randStep g)

/-- The canonical TW8 byte of a TW8 value (03 R65). -/
def tw8Byte (v : Int) : Nat :=
  let s := if v < 0 then 1 else 0
  let x := v.natAbs
  if x = 0 then 0x77 else if x = 128 then (if v < 0 then 0xEE else 0x66) else
  let a := Nat.log2 x
  if x = 2 ^ a then 128 * s + 16 * a + 7 else
  let r := x - 2 ^ a
  let b := Nat.log2 r
  if r = 2 ^ b then 128 * s + 16 * a + 8 * s + b
  else 128 * s + 16 * (a + 1) + 8 * (1 - s) + Nat.log2 (2 ^ (a + 1) - x)

/-- The TW4 code of a member of the TW4 set (06 R166). -/
def tw4Code (v : Int) : Nat := if v = 0 then 7 else (if v < 0 then 8 else 0) + Nat.log2 v.natAbs

/-- n / d of a finite value's magnitude. -/
def ratio (m : Nat) (e : Int) : Nat × Nat := if 0 ≤ e then (m * 2 ^ e.toNat, 1) else (m, 2 ^ (-e).toNat)

/-- Convert to a weight format (06 R166): 0 TW4, 1 TW8, 2 TW16. -/
def toWeight (kind : Nat) (m : Mode) (x : Exact) (g : Word) : Nat × Word :=
  match kind, x with
  | 0, .nan => (7, g)
  | 0, .inf s => (if s then 0xE else 0x6, g)
  | 0, .fin s n e =>
    let (a, d) := ratio n e
    let (v, g) := roundSet tw4Set m.rnd s a d g
    (tw4Code v, g)
  | 1, .nan => (0x77, g)
  | 1, .inf s => (if s then 0xEE else 0x66, g)
  | 1, .fin s n e =>
    let (a, d) := ratio n e
    let (v, g) := roundSet tw8Set m.rnd s a d g
    (tw8Byte v, g)
  | _, .nan => (0x7777, g)
  | _, .inf s => (if s then 0xEE77 else 0x6677, g)
  | _, .fin s n e =>
    let (a, d) := ratio n e
    let (hi, g) := roundSet tw8Set m.rnd s a d g
    let t : Int := (if s then -(a : Int) else a) - hi * d
    let (lo, g) := roundSet tw8Set m.rnd (decide (t < 0)) (t.natAbs * 128) d g
    (256 * tw8Byte hi + tw8Byte lo, g)

/-! ### Conversions (03 R60; 06 R165, R167) -/

/-- A conversion's source: an integer of an integer format, or any other value. -/
inductive Value where
  | int (x : Int)
  | num (x : Exact)
  deriving DecidableEq, Repr

/-- The exact value of a source. -/
def Value.num' : Value → Exact
  | .int x => .ofInt x
  | .num x => x

/-- The floor or rounding of a value to an integer, and its row (03 R60). -/
def toInt (r : Int × Int) (signed : Bool) (m : Mode) (x : Exact) (g : Word) : Int × Word :=
  let least := if signed then r.1 else 0
  match x with
  | .nan => (if signed && m.sat != 2 then r.1 else 0, g)
  | .inf s => (if m.sat = 0 then least else if s then r.1 else r.2, g)
  | .fin s n e =>
    let (v, g) := roundPow m.rnd (if s then -(n : Int) else n) e g
    (if r.1 ≤ v ∧ v ≤ r.2 then v else if m.sat = 0 then least else clampInt r v, g)

/-- Convert to an integer format of `w` bits. -/
def intTarget (w : Nat) (signed : Bool) (m : Mode) (x : Value) (g : Word) : Nat × Word :=
  let r : Int × Int := if signed then (-(2 ^ (w - 1) : Nat), (2 ^ (w - 1) : Nat) - 1) else (0, (2 ^ w : Nat) - 1)
  match x with
  | .int v => (((if m.sat = 0 then v else clampInt r v) % (2 ^ w : Nat)).toNat, g)
  | .num v => let (y, g) := toInt r signed m v g; ((y % (2 ^ w : Nat)).toNat, g)

/-- A value read in the vector format ET (03 R62). -/
def readEt (et : BitVec 3) (ftz : Bool) (x : Lane) : Value :=
  if et.toNat ≤ 2 then .num (elemNum et ftz x) else .int (elemInt et x)

/-- Convert to the vector format ET, as a lane (06 R154). -/
def writeEt (et : BitVec 3) (m : Mode) (x : Value) (g : Word) : Lane × Word :=
  if et.toNat ≤ 2 then let (b, g) := (fpOf et).write m x.num' g; (laneOf et b, g)
  else let (b, g) := intTarget (widthOf et) (et != 6) m x g; (laneOf et b, g)

/-- Convert to the format a code names (04 R105), as a lane. -/
def convertTo (code : Nat) (m : Mode) (x : Value) (g : Word) : Lane × Word :=
  let nat := fun (r : Nat × Word) => (BitVec.ofNat 32 r.1, r.2)
  match code with
  | 8 => nat (intTarget 8 true m x g)
  | 9 => nat (intTarget 8 false m x g)
  | 10 => nat (intTarget 4 true m x g)
  | 11 => nat (intTarget 4 false m x g)
  | 12 => nat (e4m3.write m x.num' g)
  | 13 => nat (e5m2.write m x.num' g)
  | 14 => nat (e2m1.write m x.num' g)
  | 16 => nat (toWeight 0 m x.num' g)
  | 17 => nat (toWeight 1 m x.num' g)
  | 18 => nat (toWeight 2 m x.num' g)
  | c => writeEt (BitVec.ofNat 3 c) m x g

/-- Two's complement of the low `w` bits. -/
def signedOf (w n : Nat) : Int :=
  let x := n % 2 ^ w
  if 2 ^ (w - 1) ≤ x then (x : Int) - (2 ^ w : Nat) else x

/-- A value read in the matrix format a code names (03 R63, R68; 06 R167). -/
def readMatrix (code : Nat) (ftz : Bool) (n : Nat) : Value :=
  match code with
  | 8 => .int (signedOf 8 n)
  | 9 => .int (n % 256 : Nat)
  | 10 => .int (signedOf 4 n)
  | 11 => .int (n % 16 : Nat)
  | 12 => .num (e4m3.read ftz (n % 256))
  | 13 => .num (e5m2.read ftz (n % 256))
  | 14 => .num (e2m1.read ftz (n % 16))
  | 16 => .num (.ofInt (tw4Val (n % 16)))
  | 17 => .num (.ofInt (tw8Val (n % 256)))
  | _ =>
    let v := tw8Val (nbits n 8 8) * 128 + tw8Val (n % 256)
    .num (.fin (decide (v < 0)) v.natAbs (-7))

/-! ### Wide cells (03 R81 to R83) -/

/-- The 116-bit signed integer of a cell. -/
def cellInt (c : Nat) : Int := signedOf 116 c
/-- The cell exponent. -/
def cellExp (c : Nat) : Int := signedOf 8 (nbits c 116 8)
/-- A cell with one of its flags set. -/
def cellFlag (c k : Nat) : Nat := if nbit c k then c else c + 2 ^ k

/-- WideAdd (03 R82). -/
def wideAdd (c : Nat) (v : Exact) : Nat :=
  match v with
  | .nan => cellFlag c 127
  | .inf false => cellFlag c 126
  | .inf true => cellFlag c 125
  | .fin s m e =>
    let (n, _) := roundPow 0 (if s then -(m : Int) else m) (e - cellExp c) 0
    if 2 ^ 100 ≤ n.natAbs then cellFlag c 124
    else c / 2 ^ 116 * 2 ^ 116 + ((cellInt c + n) % (2 ^ 116 : Nat)).toNat

/-- A fresh cell (03 R81; 10 R285 wcinit). -/
def cellInit (ce : BitVec 8) : Nat := ce.toNat * 2 ^ 116

/-- The value of a cell (03 R83). -/
def cellValue (c : Nat) : Exact :=
  if nbit c 127 || nbit c 124 || (nbit c 126 && nbit c 125) then .nan
  else if nbit c 126 then .inf false
  else if nbit c 125 then .inf true
  else .fin (decide (cellInt c < 0)) (cellInt c).natAbs (cellExp c)

/-- Two cells of equal CE combine (03 R82). -/
def cellMerge (a b : Nat) : Nat :=
  (nbits a 124 4 ||| nbits b 124 4) * 2 ^ 124 + nbits a 116 8 * 2 ^ 116 +
    ((cellInt a + cellInt b) % (2 ^ 116 : Nat)).toNat

/-! ### The BFP16 block (03 R79, 06 R170 to R172) -/

/-- Lane i of a block as a value (06 R172): X, SPEC bit and 16-bit mantissa. -/
def bfpLane (x : Nat) (spec : Bool) (m : Nat) : Exact :=
  if x = 255 then .nan
  else if spec then (if m = 0x7FFF then .inf false else if m = 0x8001 then .inf true else .nan)
  else let v := signedOf 16 m; .fin (decide (v < 0)) v.natAbs ((x : Int) - 142)

/-- Round each listed value on a grid: `grid i` gives the exact integer and power of two. -/
def roundAll (rnd : BitVec 3) : List (Option (Int × Int)) → Word → List (Option Int) × Word
  | [], g => ([], g)
  | none :: r, g => let (l, g) := roundAll rnd r g; (none :: l, g)
  | some (n, k) :: r, g =>
    let (v, g) := roundPow rnd n k g
    let (l, g) := roundAll rnd r g
    (some v :: l, g)

/-- A formed block: X, and per lane its mantissa and whether it is special. -/
structure Bfp where
  x    : Nat
  lanes : List (Nat × Bool)
  deriving DecidableEq, Repr

/-- 16-bit two's complement. -/
def mant16 (v : Int) : Nat := (v % 65536).toNat

/-- A lane's special code, all nonzero finite lanes being special when `big`. -/
def bfpSpecial (big : Bool) (v : Exact) : Option Nat :=
  match v with
  | .nan => some 0x8000
  | .inf s => some (if s then 0x8001 else 0x7FFF)
  | .fin s m _ => if big && m != 0 then some (if s then 0x8001 else 0x7FFF) else none

/-- A finite lane's exact value on the grid of X, as an integer and a power of two. A finite lane that X
above 254 made special has no mantissa: it is not rounded and draws nothing, in the first pass as in the
recompute (DEDUCED, log 112). -/
def bfpGrid (big : Bool) (x : Int) (v : Exact) : Option (Int × Int) :=
  match v with
  | .fin s m e => if big && m != 0 then none else some ((if s then -(m : Int) else m), e + 142 - x)
  | _ => none

/-- Form a block from 16 exact values with greatest exponent field `x0` (06 R171, 03 R80). When the
raised X is 255, vbfpo has recomputed before its lanes become special (`recompute`), and the handoff
has not (R80: "applies instead"). -/
def bfpForm (recompute : Bool) (rnd : BitVec 3) (vs : List Exact) (x0 : Int) (g : Word) : Bfp × Word :=
  let big := decide (254 < x0)
  let x1 : Int := if big then 254 else if x0 < 0 then 0 else x0
  let (ms, g) := roundAll rnd (vs.map (bfpGrid big x1)) g
  let again := ms.any (fun m => m.elim false (fun v => v.natAbs == 32768))
  let big2 := big || (again && decide (254 < x1 + 1))
  let x2 : Int := if again then (if big2 then 254 else x1 + 1) else x1
  let (ms, g) :=
    if !again then (ms, g)
    else if big2 && !recompute then roundAll rnd (vs.map (bfpGrid true x2)) g
    else roundAll rnd (vs.map (bfpGrid big (x1 + 1))) g
  ({ x := x2.toNat,
     lanes := (vs.zip ms).map fun (v, m) =>
       match bfpSpecial big2 v with
       | some c => (c, true)
       | none => (mant16 (m.getD 0), false) }, g)

/-- The 40 bytes of a block (03 R79). -/
def Bfp.bytes (b : Bfp) : List Byte :=
  let spec := (b.lanes.zip (seqFrom 0 16)).foldl (fun n l => if l.1.2 then n + 2 ^ l.2 else n) 0
  toBytes 1 b.x ++ [0] ++ toBytes 2 spec ++ (b.lanes.flatMap (fun l => toBytes 2 l.1)) ++ toBytes 4 0

end Sys2Proof.Machine
end

