-- ==== Sys2Proof/Machine/Hbm.lean ====
section
/-! DEFINITION. Stored bytes with their protection: layouts, damage, correction, rebuild, poison marks
and the parity journal (09 R262 to R266; 18 R426 to R434, R472). A flipped bit is a stored bit that
differs from the one written; `Sector.flips` lists the flipped bits of a 64-byte sector or line. -/

namespace Sys2Proof.Machine

open Sys2Proof

/-! ### Striping (09 R262) -/

/-- Data units per stripe: eleven, or ten under plan 11 (19 R456). -/
def State.dataUnits (s : State) : Nat := if s.err.act then 10 else 11
/-- Is a physical address in the usable HBM range: 704 GiB, or 640 GiB under plan 11 (09 R248, 19 R456)? -/
def State.inHbm (s : State) (pa : Nat) : Bool := pa < 0x1000000000 * s.dataUnits
/-- Number of the i-th stack in use, modulo their count. -/
def State.stackOf (s : State) (i : Nat) : Nat :=
  let k := i % (s.dataUnits + 1)
  if s.err.act && s.err.exk.toNat ≤ k then k + 1 else k
/-- The stripe of a byte. -/
def State.stripeOf (s : State) (pa : Nat) : Nat := pa / 256 / s.dataUnits
/-- The data position of a byte within its stripe. -/
def State.posOf (s : State) (pa : Nat) : Nat := pa / 256 % s.dataUnits
/-- The parity stack of a stripe. -/
def State.parityStack (s : State) (st : Nat) : Nat := s.stackOf st
/-- The data stack of a byte. -/
def State.dataStack (s : State) (pa : Nat) : Nat :=
  s.stackOf (s.stripeOf pa % (s.dataUnits + 1) + 1 + s.posOf pa)
/-- Physical address of sector `k` of position `j` of a stripe. -/
def State.unitAddr (s : State) (st j k : Nat) : Nat := 256 * (s.dataUnits * st + j) + 64 * k
/-- Is stack k lost (18 R432)? -/
def State.stackLost (s : State) (k : Nat) : Bool := s.err.lost.getLsbD k
/-- How many stacks are lost. -/
def State.lostCount (s : State) : Nat := ((seqFrom 0 12).filter s.stackLost).length

/-! ### Layouts (18 R426) -/

/-- How a layout spends its check bits: element bytes, lowest strong bit, elements per strong word,
lowest parity bit, elements per parity group (0: none), whether the low field has interleaved parity, check bits of a
strong word. -/
structure Layout where
  bytes  : Nat
  strong : Nat
  per    : Nat
  mid    : Nat := 64
  group  : Nat := 0
  inter  : Bool := false
  chk    : Nat := 7
  deriving DecidableEq, Repr

/-- The layout of a tag in a sector; 8 and 9 by the sector's place in its frame (18 R426). -/
def layoutOf (tag sec : Nat) : Layout :=
  match tag with
  | 1 => { bytes := 4, strong := 23, per := 4, mid := 13, group := 1, inter := true }
  | 2 => { bytes := 2, strong := 7, per := 4, mid := 4, group := 4 }
  | 3 => { bytes := 2, strong := 10, per := 8, mid := 5, group := 1, inter := true }
  | 4 => { bytes := 1, strong := 3, per := 8, mid := 0, group := 8 }
  | 5 => { bytes := 1, strong := 2, per := 8, mid := 0, group := 8 }
  | 6 => { bytes := 1, strong := 0, per := 8, chk := 8 }
  | 7 => { bytes := 1, strong := 4, per := 16, mid := 1, group := 2, chk := 8 }
  | 8 => if 62 ≤ sec % 64 then { bytes := 8, strong := 0, per := 1, chk := 8 }
         else { bytes := 1, strong := 3, per := 8, mid := 0, group := 8 }
  | 9 => if 62 ≤ sec % 64 then { bytes := 8, strong := 0, per := 1, chk := 8 } else { bytes := 1, strong := 0, per := 8, chk := 8 }
  | _ => { bytes := 8, strong := 0, per := 1, chk := 8 }

/-- Element and bit within it of a sector bit. -/
def Layout.place (l : Layout) (b : Nat) : Nat × Nat := (b / (8 * l.bytes), b % (8 * l.bytes))
/-- How many of a sector's 64 check bits, numbered from 512 on, its strong words have: each word's stand together, then
come the parity bits of the groups, then the interleaved ones (log entry 24). -/
def Layout.strongBits (l : Layout) : Nat := 64 / (l.bytes * l.per) * l.chk
/-- How many parity groups a sector has. -/
def Layout.groups (l : Layout) : Nat := if l.group = 0 then 0 else if l.bytes = 4 then 32 else 64 / (l.bytes * l.group)
/-- The strong word of a data or check bit. -/
def Layout.wordOf (l : Layout) (b : Nat) : Option Nat :=
  if 512 ≤ b then (if b - 512 < l.strongBits then some ((b - 512) / l.chk) else none) else
  let (e, i) := l.place b
  if l.strong ≤ i then some (e / l.per) else none
/-- The parity group of a bit: FP32 has two per element (18 R426). -/
def Layout.groupOf (l : Layout) (b : Nat) : Option Nat :=
  if 512 ≤ b then (let c := b - 512 - l.strongBits; if l.strongBits ≤ b - 512 ∧ c < l.groups then some c else none) else
  let (e, i) := l.place b
  if l.strong ≤ i ∨ i < l.mid ∨ l.group = 0 then none
  else if l.bytes = 4 then some (2 * e + (if 18 ≤ i then 1 else 0)) else some (e / l.group)
/-- The elements of a parity group. -/
def Layout.groupHas (l : Layout) (g e : Nat) : Bool :=
  if l.bytes = 4 then e == g / 2 else e / l.group == g
/-- The interleaved parity bit of a low-field bit. -/
def Layout.interOf (l : Layout) (b : Nat) : Option Nat :=
  if 512 ≤ b then (let c := b - 512 - l.strongBits - l.groups
                   if l.inter ∧ l.strongBits + l.groups ≤ b - 512 ∧ c < 4 then some c else none) else
  let (e, i) := l.place b
  if l.inter ∧ i < l.mid then some ((e * l.mid + i) % 4) else none

/-- Members of a list without repeats. -/
def distinct (l : List Nat) : List Nat := l.foldl (fun r x => if r.contains x then r else r ++ [x]) []
/-- How many entries of a list equal x. -/
def countIn (l : List Nat) (x : Nat) : Nat := (l.filter (· == x)).length

/-- Flip a bit of a byte list. -/
def flipBit (bs : List Byte) (b : Nat) : List Byte :=
  (bs.zip (seqFrom 0 bs.length)).map fun (x, i) => if i = b / 8 then x ^^^ (1#8 <<< (b % 8)) else x

/-- What a read of a sector or line found: decoded bytes, the class of each byte read (0 for none, 1 to 4
for N0 to N3), and what its record says: `hit` is not 0 for a damaged, corrected or marked byte of the sector, `va`
the sector's virtual address where one was used (18 R427, R428, R431; log entry 49). -/
structure Find where
  data  : List Byte
  cls   : List Nat
  fixed : Bool := false
  rebuilt : Bool := false
  torn  : Bool := false
  lost  : Bool := false
  poison : Bool := false
  vault : Bool := false
  gone  : Bool := false
  tag   : Nat := 0
  pa    : Nat := 0
  hit   : List Nat := []
  va    : Nat := 0
  deriving DecidableEq, Repr

/-- Highest class found. -/
def Find.worst (f : Find) : Nat := f.cls.foldl max 0
/-- Is there anything to report? -/
def Find.any (f : Find) : Bool := f.fixed || f.rebuilt || f.worst != 0

/-- How a strong word with `n` flips reads (18 R427): 0 clean or undetected, 1 corrected, 2 reported,
3 miscorrected. With three or more, Quiran does one of the last three of them (log entry 16). -/
def wordFate (free n : Nat) : Nat :=
  if n = 0 then 0 else if n = 1 then 1 else if n = 2 then 2
  else match Config.pick free % 3 with | 0 => 2 | 1 => 3 | _ => 0

/-- Decode a sector's stored bytes by its layout (18 R427). `strongCls` is the class of an uncorrectable
strong word. The third part marks the bytes with a corrected bit. `other`: the tag found is not the one that was written,
so every word and group may read as one with many flips (log entry 94). -/
def decodeImage (free : Nat) (l : Layout) (strongCls : Nat) (stored : List Byte) (flips : List Nat) (other : Bool := false) :
    List Byte × List Nat × List Nat :=
  let ws := flips.filterMap l.wordOf ++ (if other then seqFrom 0 (64 / (l.bytes * l.per)) else [])
  let gs := flips.filterMap l.groupOf ++ (if other then seqFrom 0 l.groups else [])
  let is := flips.filterMap l.interOf
  let fate := fun w => wordFate (free + w) (countIn ws w + (if other then 3 else 0))
  let fixed := (distinct ws).filter (fun w => fate w == 1)
  let bad := (distinct ws).filter (fun w => fate w == 2)
  let wrong := (distinct ws).filter (fun w => fate w == 3)
  let flagged := (distinct gs).filter fun g =>
    (countIn gs g % 2 == 1 && !other) || Config.choice (free + 64 + g)
  let n0 := (distinct is).any fun i => countIn is i % 2 == 1 || Config.choice (free + 128 + i)
  let mended := flips.filter fun b => (l.wordOf b).elim false fixed.contains
  let data := mended.foldl flipBit stored
  let data := wrong.foldl (fun d w =>
      let v := Config.miscorrect (free + w)
      (((seqFrom 0 512).filter fun b => l.wordOf b == some w).foldl
        (fun (dk : List Byte × Nat) b => (if v.getLsbD (dk.2 % 64) then flipBit dk.1 b else dk.1, dk.2 + 1))
        (d, 0)).1) data
  let cls := (seqFrom 0 64).map fun i =>
    let e := i / l.bytes
    if bad.contains (e / l.per) then strongCls
    else if flagged.any (fun g => l.groupHas g e) then 2
    else if n0 then 1 else 0
  (data, cls, if mended.isEmpty then [] else (seqFrom 0 64).map fun i => if mended.any (fun b => b / 8 == i) then 1 else 0)

/-! ### Sectors -/

/-- The protection state of the sector or line of a store address. -/
def State.sector (s : State) (a : Nat) : Sector := SMap.get s.sect {} (a / 64)
/-- Set it. -/
def State.setSector (s : State) (a : Nat) (x : Sector) : State :=
  { s with sect := SMap.put s.sect {} (a / 64) x }

/-- Class of an uncorrectable strong word: N3 in an opaque page, N2 elsewhere, the scales of layouts 8
and 9 included (18 R427). -/
def strongClass (tag : Nat) : Nat := if tag = 0 then 4 else 3

/-- A copy of a sector's layout tag: 576 + 4k + i in `flips` is bit i of copy k (18 R426). -/
def Sector.tagCopy (x : Sector) (k : Nat) : Nat :=
  (seqFrom 0 4).foldl (fun t i => if x.flips.contains (576 + 4 * k + i) then t ^^^ 2 ^ i else t) x.tag.toNat

/-- The tag that a read finds: what two of the three copies say; none where all three differ (18 R427). -/
def Sector.tagFound (x : Sector) : Option Nat :=
  if x.flips.isEmpty then some x.tag.toNat
  else if x.tagCopy 0 = x.tagCopy 1 ∨ x.tagCopy 0 = x.tagCopy 2 then some (x.tagCopy 0)
  else if x.tagCopy 1 = x.tagCopy 2 then some (x.tagCopy 1) else none

/-- Decode the sector at `a` alone, from its stored bytes, tag, mark and flips. -/
def State.decodeSector (s : State) (a : Nat) : Find :=
  let b := a / 64 * 64
  let x := s.sector b
  let t := x.tagFound.getD x.tag.toNat
  let (d, c, f) := decodeImage (s.tick + b) (layoutOf t (b / 64)) (strongClass t) (s.bytes b 64) x.flips (t != x.tag.toNat)
  let hit := fun (c : List Nat) => if f.isEmpty then c else (c.zip f).map fun (i, j) => max i j
  if x.tagFound.isNone then { data := d, cls := List.replicate 64 4, hit := List.replicate 64 4, fixed := !f.isEmpty, tag := 15, pa := b }
  else
    let c := c.map (max x.mark)
    { data := d, cls := c, hit := hit c, fixed := !f.isEmpty, poison := x.mark != 0, tag := t, pa := b }

/-- Members of exactly one of two lists. -/
def oddOnes (a b : List Nat) : List Nat := a.filter (!b.contains ·) ++ b.filter (!a.contains ·)

/-- XOR of byte lists. -/
def xorBytes (a b : List Byte) : List Byte := (a.zip b).map fun (x, y) => x ^^^ y

/-- Apply one journal entry to its parity unit (09 R263). -/
def State.applyEntry (s : State) (e : JEntry) : State :=
  let a := parityAddr e.stripe (64 * e.sector)
  let x := s.sector a
  let v := (x.mark * 16 + x.tag.toNat) ^^^ e.meta4.toNat
  let s := s.setBytes a (xorBytes (s.bytes a 64) e.delta)
  let s := s.setSector a { x with tag := BitVec.ofNat 4 v, mark := v / 16, flips := oddOnes x.flips e.flips }
  match e.heal with | none => s | some t => { s with torn := s.torn.filter (· != t) }

/-- Apply every pending entry of a stripe, in journal order (18 R428 (b)). -/
def State.settleStripe (s : State) (st : Nat) : State :=
  let k := s.parityStack st
  let j := SMap.get s.journal [] k
  let s := (j.filter (fun e => e.stripe == st)).foldl State.applyEntry s
  { s with journal := SMap.put s.journal [] k (j.filter (fun e => e.stripe != st)) }

/-- The image of the sector at `a` from the other units of its stripe: bytes, tag and mark, and
whether each of them is readable with at most correctable damage (18 R428 (b)). -/
def State.rebuild (s : State) (a : Nat) : State × List Byte × Nat × Nat × Bool :=
  let st := s.stripeOf a; let k := a / 64 % 4
  let s := s.settleStripe st
  let pa := parityAddr st (64 * k)
  let px := s.sector pa
  let (pd, pc, _) := decodeImage (s.tick + pa) (layoutOf 0 0) 4 (s.bytes pa 64) px.flips
  let others := ((seqFrom 0 s.dataUnits).filter (· != s.posOf a)).map fun j => s.unitAddr st j k
  let fs := others.map s.decodeSector
  let data := (fs.map Find.data).foldl xorBytes pd
  let metas := others.map fun o => (s.sector o).mark * 16 + (s.sector o).tag.toNat
  let m := metas.foldl (· ^^^ ·) (px.mark * 16 + px.tag.toNat)
  let ok := fs.all (fun f => f.worst == 0) && pc.all (· == 0) && px.tagFound == some px.tag.toNat &&
    !s.stackLost (s.parityStack st) && others.all (fun o => !s.stackLost (s.dataStack o))
  (s, data, m % 16, m / 16 % 8, ok)

/-- Store the image of a sector with fresh check bits. -/
def State.storeImage (s : State) (a : Nat) (d : List Byte) (tag mark : Nat) : State :=
  (s.setBytes (a / 64 * 64) d).setSector a { tag := BitVec.ofNat 4 tag, mark := mark }

/-- Read the HBM sector that holds `a` (18 R428, R432 to R434). A sector of a lost stack waits for its stripe's journal
entries, one of which may make a torn sector whole (R433). -/
def State.readHbm (s : State) (a : Nat) : State × Find :=
  let b := a / 64 * 64
  let away := s.stackLost (s.dataStack b)
  if away && 2 ≤ s.lostCount then
    (s, { data := s.bytes b 64, cls := List.replicate 64 4, hit := List.replicate 64 4, lost := true, pa := b })
  else
  let s := if away then s.settleStripe (s.stripeOf b) else s
  if s.torn.contains (b / 64) then
    let (s, d, t, _, _) := s.rebuild b
    (s, { data := d, cls := List.replicate 64 4, hit := List.replicate 64 4, torn := true, rebuilt := true, tag := t, pa := b })
  else if away then
    let (s, d, t, pm, ok) := s.rebuild b
    let c := List.replicate 64 (if ok then pm else 4)
    (s, { data := d, cls := c, hit := c, rebuilt := ok, poison := pm != 0, tag := t, pa := b })
  else
    let f := s.decodeSector b
    if f.worst = 0 then
      (if f.fixed then s.storeImage b f.data f.tag 0 else s, f)
    else
      let (s', d, t, pm, ok) := s.rebuild b
      if ok && pm == 0 && s.lostCount == 0 then
        (s'.storeImage b d t 0, { data := d, cls := List.replicate 64 0, hit := f.hit, rebuilt := true, tag := t, pa := b })
      else (s, f)

/-- Append an entry to a parity agent's journal; a full journal first retires its oldest (09 R263,
R265; 18 R433: each torn mark takes an entry). -/
def State.logDelta (s : State) (e : JEntry) : State :=
  let k := s.parityStack e.stripe
  if s.stackLost k then s else
  let j := SMap.get s.journal [] k
  let torn := (s.torn.filter (fun t => s.parityStack (s.stripeOf (64 * t)) == k)).length
  let s := if j.length + torn < 8192 then s else
    match j with
    | [] => s
    | x :: r => { s.applyEntry x with journal := SMap.put s.journal [] k r }
  { s with journal := SMap.upd s.journal [] k (· ++ [e]) }

/-- Write bytes `d` at offset `off` of the HBM sector at `b` (09 R263; 18 R472, R432 to R434): `lc` is
the layout code of the page written through, `pm` the class of poison that the bytes bring. For a lost stack
the delta is formed against the rebuilt image, a torn sector's partial write included (R432 (b), R433). Whether a write
of the whole sector logs what the old one showed is free: 18 R472 (a) and the walk-through of 20 R470 differ (DESIGN
CHOICE, log entry 119). -/
def State.writeHbm (s : State) (b off : Nat) (d : List Byte) (lc : Option Nat) (pm : Nat) : State × List Find :=
  let b := b / 64 * 64
  let away := s.stackLost (s.dataStack b)
  if away && 2 ≤ s.lostCount then (s, []) else
  let (s, f) := s.readHbm b
  let whole := off = 0 && d.length = 64
  let left := if whole then 0 else
    ((f.cls.take off ++ f.cls.drop (off + d.length)).foldl max 0)
  let left := if !whole && f.tag = 15 then 4 else left
  let merged := f.data.take off ++ d ++ f.data.drop (off + d.length)
  let tag := match lc with | some t => t | none => if f.tag = 15 then 0 else f.tag
  let mark := max left pm
  let x := s.sector b
  let torn := s.torn.contains (b / 64)
  let (s, old, oldMeta, flips) := if away then
      (let (s, d, t, m, _) := s.rebuild b; (s, d, m * 16 + t, []))
    else (s, s.bytes b 64, x.mark * 16 + x.tag.toNat, x.flips)
  let s := if away then s else s.storeImage b merged tag mark
  let e : JEntry := { stripe := s.stripeOf b, sector := b / 64 % 4, delta := xorBytes old merged,
                      meta4 := BitVec.ofNat 8 (oldMeta ^^^ (mark * 16 + tag)), flips := flips,
                      heal := if torn && whole then some (b / 64) else none }
  (s.logDelta e, if f.any && !(whole && Config.choice (s.tick + b + 3)) then [f] else [])

/-! ### Other stores (18 R429, R430) -/

/-- Word size in bytes of a store's SEC-DED code. -/
def codeWordSize (a : Nat) : Nat := if 0x10000001000000 ≤ a ∧ a < 0x1000000C000000 then 4 else 8

/-- Where the poison class of an address stands: its 64-byte line (host, peers), else its code word. -/
def markKey (a : Nat) : Nat :=
  if 0x8000000000000 ≤ a ∧ a < 0x10000000000000 then a / 64 * 64 else a / codeWordSize a * codeWordSize a

/-- The class that a mark keeps: a store of 4-byte words holds no poison mark (18 R429), and the poison of a host line
or a peer's flit has no class and reads as N3 (R430). -/
def markClass (a m : Nat) : Nat :=
  if m = 0 ∨ codeWordSize a = 4 then 0 else if 0x8000000000000 ≤ a ∧ a < 0x10000000000000 then 4 else m

/-- Check bits of a store's SEC-DED word: 8 for 8 bytes, 7 for 4; those of a line are numbered from 512 on, each word's
together (log entry 24). -/
def codeChecks (a : Nat) : Nat := if codeWordSize a = 4 then 7 else 8

/-- The flipped bits of a line that lie in the code word of byte `a`, check bits included. -/
def wordFlips (a : Nat) (flips : List Nat) : List Nat :=
  let n := codeWordSize a
  flips.filter fun b => (if b < 512 then b / 8 / n else (b - 512) / codeChecks a) == a % 64 / n

/-- Read one stored byte of another store: corrected value, class (of damage and mark the higher, log entry 117),
whether corrected. -/
def State.readOther (s : State) (a : Nat) : Byte × Nat × Bool :=
  let w := a / codeWordSize a * codeWordSize a
  let fl := wordFlips a (s.sector a).flips
  let v := s.byte a
  let pm := SMap.get s.marks 0 (markKey a)
  match wordFate (s.tick + w) fl.length with
  | 1 => (fl.foldl (fun v x => if x / 8 = a % 64 then v ^^^ (1#8 <<< (x % 8)) else v) v, pm, true)
  | 2 => (v, max 4 pm, false)
  | 3 => (v ^^^ (Config.miscorrect (s.tick + w)).extractLsb' (8 * (a % 8)) 8, pm, false)
  | _ => (v, pm, false)

/-- Write one byte of another store with its class: a word or line keeps the highest class among its
bytes until a write covers it whole, which `whole` says. -/
def State.writeOther (s : State) (a : Nat) (v : Byte) (pm : Nat) (whole : Bool) : State :=
  let n := codeWordSize a
  let w := a / n * n
  let x := s.sector a
  let mine := wordFlips a x.flips
  let bad := if !whole && wordFate (s.tick + w) mine.length = 2 then 4 else 0
  let s := if mine.length = 1 then mine.foldl (fun s b =>
      let y := a / 64 * 64 + b / 8; if b < 512 then s.setByte y (s.byte y ^^^ (1#8 <<< (b % 8))) else s) s else s
  let s := if mine = [] then s else s.setSector a { x with flips := x.flips.filter fun b => !mine.contains b }
  let old := SMap.get s.marks 0 (markKey a)
  let pm := markClass a pm
  let s := { s with marks := SMap.put s.marks 0 (markKey a) (max bad (if whole && a == markKey a then pm else max old pm)) }
  s.setByte a v

/-! ### Words of the code stores (18 R429, R442) -/

/-- A stored 32-bit word as a read of it gives it, one flipped bit corrected (18 R429); or, for each copy that has
written it and whose use is not yet ordered, the word before that copy: Quiran uses any of them (18 R442; log entry 26). -/
def State.codeWord (s : State) (a : Nat) : BitVec 32 :=
  let now := BitVec.ofNat 32 (leNat ((seqFrom a 4).map fun x => (s.readOther x).1))
  let l := (s.stale.filter fun x => x.key == a).map (·.old)
  (l[Config.pick (s.tick + a) % (l.length + 1)]?).getD now

end Sys2Proof.Machine
end

