-- ==== Sys2Proof/Machine/Records.lean ====
section
/-! DEFINITION. Error records, snapshot triggers, the viral state, and reads and writes of physical
addresses with their findings (16 R391 to R404, R409; 13 R358; 09 R248; 18 R428 to R431). -/

namespace Sys2Proof.Machine

open Sys2Proof

/-! ### Records -/

/-- The 64 bytes of a record (16 R391). -/
def Rec.bytes (r : Rec) (stamp seq : Nat) : List Byte :=
  toBytes 8 stamp ++ toBytes 8 r.va ++ toBytes 8 r.pa ++ toBytes 8 r.cpc ++ toBytes 4 r.launch ++
  toBytes 4 r.unit ++ toBytes 2 r.block ++ toBytes 2 r.core ++ toBytes 1 r.sev ++ toBytes 1 r.kind ++
  toBytes 1 r.ctxd ++ toBytes 1 r.flags ++ toBytes 8 r.detail ++ toBytes 8 seq

/-- FLAGS bits of 16 R391. -/
def flagContained : Nat := 1
def flagTolerated : Nat := 2
def flagTrap : Nat := 4
def flagSnap : Nat := 8
def flagViral : Nat := 16
def flagHost : Nat := 32
def flagUnlogged : Nat := 64

/-- The fields of a record that name the unit of agent `p`. -/
def State.recFor (s : State) (p : Nat) (r : Rec) : Rec :=
  let c := s.core p
  let r := { r with ctxd := s.ctxOf p + 16 * c.regions.length,
                    block := if isSlot p then 584 + (p - slotBase) else p,
                    core := if isSlot p then 0x1FF else p }
  match c.unit with
  | some (_, l, u) => { r with launch := l % 2 ^ 32, unit := u % 2 ^ 32 }
  | none => r

/-- The fields of a record that name the unit of the agent in whose name the step acts (16 R391). -/
def State.baseRec (s : State) : Rec := if s.cur.core < noAgent then s.recFor s.cur.core {} else {}

/-- Saturating increment of a `w`-bit counter. -/
def satInc {w : Nat} (x : BitVec w) : BitVec w := if x = BitVec.allOnes w then x else x + 1

/-! ### Snapshot triggers (13 R358) -/

/-- Set an EVT bit of an agent (05 R147). -/
def Core.setEvt (c : Core) (b : Nat) : Core := { c with evt := c.evt ||| (1#5 <<< b) }

/-- Set EVT.SNAP in every core. -/
def State.ringSnap (s : State) : State :=
  (seqFrom 0 slotBase).foldl (fun s p => s.updCore p (·.setEvt 3)) s

/-- Would a trigger of this source be accepted for a latch now? -/
def State.trigAccepted (s : State) (src : Nat) : Bool := s.snap.en.getLsbD src && s.snap.armed

/-- A trigger arrives: an enabled one sets EVT.SNAP; an armed one is recorded and waits for its latch;
at one tick the lowest source prevails, after its latch as well, and the others count as missed. -/
def State.trigger (s : State) (src : Nat) (tag : Byte) (pcore : Nat) : State :=
  if !s.snap.en.getLsbD src then s else
  let s := s.ringSnap
  let n := s.snap
  let name : Snap := { n with src := BitVec.ofNat 4 src, stamp := s.gtc, tag := tag, pcore := BitVec.ofNat 9 pcore }
  if n.armed then { s with snap := { name with armed := false, trig := true, fresh := false } }
  else
    let n' := if (n.trig ∨ n.fresh) ∧ n.stamp = s.gtc ∧ src < n.src.toNat then name else n
    { s with snap := { n' with missed := satInc n.missed } }

/-- A trigger that SNAPEVT selects (13 R358). -/
def State.eventTrigger (s : State) (bit : Nat) : State := if s.snap.evsel.getLsbD bit then s.trigger 1 0 0 else s

/-! ### Physical addresses (09 R248) -/

/-- In the vault range. -/
def inVault (pa : Nat) : Bool := 0x10000000000 ≤ pa && pa < 0x10090000000
/-- The core whose vault holds a physical address. -/
def vaultCore (pa : Nat) : Nat := pa / 0x800000 % 0x20000
/-- The offset of a physical address in its vault. -/
def vaultOff (pa : Nat) : Nat := pa % 0x800000
/-- In the device MMIO range. -/
def inMmio (pa : Nat) : Bool := 0x20000000000 ≤ pa && pa < 0x20010000000
/-- In the host memory range. -/
def inHost (pa : Nat) : Bool := 0x8000000000000 ≤ pa && pa < 0xC000000000000
/-- In a peer's range. -/
def inPeer (pa : Nat) : Bool := 0xC000000000000 ≤ pa && pa < 0x10000000000000
/-- The peer number and the offset in the peer. -/
def peerOf (pa : Nat) : Nat × Nat := (nbits pa 41 9, pa % 2 ^ 41)
/-- An address by which this module names itself as peer 511 is the address that it names (13 R352; log entry 105). -/
def selfPa (pa : Nat) : Nat :=
  if !inPeer pa || (peerOf pa).1 != 511 then pa
  else
    let o := (peerOf pa).2
    if o < 0x10090000000 then o
    else if 0x18000000000 ≤ o ∧ o < 0x18010000000 then o - 0x18000000000 + 0x20000000000
    else pa
/-- A peer offset that is memory. -/
def peerMem (off : Nat) : Bool := off < 0x10000000000 || (0x10000000000 ≤ off && off < 0x10090000000)
/-- A peer offset that is its device MMIO. -/
def peerMmio (off : Nat) : Bool := 0x18000000000 ≤ off && off < 0x18010000000
/-- An MMIO address of this device or a peer. -/
def mmioAddr (pa : Nat) : Bool := inMmio pa || (inPeer pa && peerMmio (peerOf pa).2)
/-- Is the byte memory? The vault of a fused-off core is not (09 R248). -/
def State.isMem (s : State) (pa : Nat) : Bool :=
  s.inHbm pa || (inVault pa && s.enabled (vaultCore pa)) || inHost pa || (inPeer pa && peerMem (peerOf pa).2)

/-- Ports that carry a link: trained members of it (13 R351, R352). -/
def Fabric.portsOf (f : Fabric) (j : Nat) : List Nat :=
  (seqFrom 0 72).filter fun k => let w := SMap.get f.ports {} k; w.link.toNat == j && w.state == 2 && w.member

/-- A flit leaves over a link: the next sequence number, by the port whose turn it is, kept for a replay (13 R351; 19
R457 (a)). -/
def State.linkFlit (s : State) (j : Nat) : State :=
  let ps := s.fab.portsOf j
  { s with fab := { s.fab with links := SMap.upd s.fab.links {} j fun l =>
      let k := l.kept ++ [(l.tx, (ps[l.turn % ps.length]?).getD 0)]
      { l with tx := l.tx + 1, kept := k.drop (k.length - 512), turn := (l.turn + 1) % ps.length } } }.tally 5 1

/-- A flit leaves over the link to a peer. -/
def State.flit (s : State) (pa : Nat) : State := s.linkFlit (SMap.get s.fab.peers {} (peerOf pa).1).link.toNat

/-- Does an access of the acting agent to an address of the module cross from die to die? Vaults of its own V-die are
near; everything else lies on another die (log entry 36). -/
def State.crosses (s : State) (a : Nat) : Bool := !inVault a || s.cur.core / 36 != vaultCore a / 36

/-- The events of 13 R362 that an access to a line of 64 bytes counts as. -/
def State.lineEvents (s : State) (a : Nat) : State :=
  let s := if s.inHbm a then s.tally 4 1 else if inVault a then s.tally 3 1 else if inHost a then s.tally 6 1
    else if inPeer a then s.flit a else s
  if (s.inHbm a || inVault a || inHost a || inPeer a) && s.crosses a then s.tally 7 1 else s

/-- Pieces of a byte range that lie in one 64-byte line each. -/
def linesOf : Nat → Nat → Nat → List (Nat × Nat)
  | 0, _, _ => []
  | f + 1, a, n => if n = 0 then [] else
      let k := min n (64 - a % 64)
      (a, k) :: linesOf f (a + k) (n - k)

/-- The V-die whose abrupt offline makes a vault unreadable (19 R451). -/
def State.vaultGone (s : State) (pa : Nat) : Bool :=
  inVault pa && s.err.dabr.getLsbD (vaultCore pa / 36)

/-- The damaged, marked or corrected bytes of a line of a store that is no HBM (18 R431). -/
def State.hitsOf (s : State) (a : Nat) : List Nat :=
  (seqFrom (a / 64 * 64) 64).map fun x =>
    let r := s.readOther x
    if r.2.1 ≠ 0 then r.2.1 else if r.2.2 && (s.sector a).flips.any (fun b => b / 8 == x % 64) then 1 else 0

/-- Read the part of one line: bytes, classes, what was found. -/
def State.readLine (s : State) (a n : Nat) : State × List Byte × List Nat × List Find :=
  if s.inHbm a then
    let s := { s with srd := SMap.upd s.srd 0 (s.dataStack a) (· + 1) }.lineEvents a
    let (s, f) := s.readHbm a
    let o := a % 64
    let cls := (f.cls.drop o).take n
    let g := { f with cls := (f.cls.zip (seqFrom 0 64)).map fun (c, i) => if o ≤ i ∧ i < o + n then c else 0 }
    (s, (f.data.drop o).take n, cls, if g.any then [g] else [])
  else if s.vaultGone a then
    (s, s.bytes a n, List.replicate n 4,
      [{ data := [], cls := [4], gone := true, vault := true, pa := a / 64 * 64 }])
  else
    let s := s.lineEvents a
    let r := (seqFrom a n).map s.readOther
    let cls := r.map (fun x => x.2.1)
    let f : Find := { data := [], cls := (seqFrom (a / 64 * 64) 64).map fun x =>
                        if a ≤ x ∧ x < a + n then (cls[x - a]?).getD 0 else 0,
                      fixed := r.any (fun x => x.2.2), poison := cls.any (· != 0) &&
                        (seqFrom a n).any (fun x => SMap.get s.marks 0 (markKey x) != 0),
                      vault := inVault a || (0x10000000000000 ≤ a && a < 0x10000001000000), pa := a / 64 * 64 }
    (s, r.map (·.1), cls, if f.any then [{ f with hit := s.hitsOf a }] else [])

/-- Read a range of store addresses. -/
def State.readStore (s : State) (a n : Nat) : State × List Byte × List Nat × List Find :=
  (linesOf (n / 64 + 2) a n).foldl (fun (r : State × List Byte × List Nat × List Find) l =>
    let (s, b, c, f) := r.1.readLine l.1 l.2
    (s, r.2.1 ++ b, r.2.2.1 ++ c, r.2.2.2 ++ f)) (s, [], [], [])

/-- Write the part of one line; `cls` are the classes of the bytes written (18 R430). -/
def State.writeLine (s : State) (a : Nat) (d : List Byte) (cls : List Nat) (lc : Option Nat) : State × List Find :=
  if s.inHbm a then
    let s := { s with swr := SMap.upd s.swr 0 (s.dataStack a) (· + 1) }.lineEvents a
    s.writeHbm a (a % 64) d lc (cls.foldl max 0)
  else if s.vaultGone a then
    (s, [{ data := [], cls := [], gone := true, vault := true, pa := a / 64 * 64 }])
  else if (inHost a || inPeer a) && s.err.viral then (s, [])
  else
    let s := s.lineEvents a
    ((d.zip (cls ++ List.replicate d.length 0)).zip (seqFrom a d.length) |>.foldl (fun s x =>
      let m := markKey x.2
      let n := if inHost a || inPeer a then 64 else codeWordSize a
      s.writeOther x.2 x.1.1 x.1.2 (a ≤ m && m + n ≤ a + d.length)) s, [])

/-- A byte of a range that has changed since it was last noted is noted before it changes again (11 R313). -/
def State.noteBefore (s : State) (a n : Nat) : State :=
  if s.units.isEmpty || (seqFrom a n).all fun x => s.byte x == SMap.get s.past 0 x then s else s.noteWrites

/-- Write a range of store addresses. -/
def State.writeStore (s : State) (a : Nat) (d : List Byte) (cls : List Nat) (lc : Option Nat) : State × List Find :=
  let s := s.noteBefore a d.length
  (linesOf (d.length / 64 + 2) a d.length).foldl (fun (r : State × List Find) l =>
    let o := l.1 - a
    let (s, f) := r.1.writeLine l.1 ((d.drop o).take l.2) ((cls.drop o).take l.2) lc
    (s, r.2 ++ f)) (s, [])

/-! ### The module's own writes (13 R349, R365; 16 R403, R407) -/

/-- MSI-X vector 0 is signalled on every trained host port (16 R403). -/
def State.signalIrq (s : State) : State :=
  let irq := fun (x : Nat) => if s.xmask.getLsbD x then 1 else 0
  { s with err := { s.err with irqs := s.err.irqs + irq 0, irqs1 := s.err.irqs1 + irq 1 } }

/-- What follows the perform of a write of the module's own. -/
def State.ownDone (s : State) : Own → State
  | .audit => s
  | .telemetry => { s with pow := { s.pow with telhead := s.pow.telhead + 1 } }
  | .record irq =>
    let s := { s with err := { s.err with head := s.err.head + 1 } }
    if irq then s.signalIrq else s

/-- Does a write of the module's own to address `a` wait? Those behind a waiting one of their kind wait too. -/
def State.ownWaits (s : State) (a : Nat) (same : Own → Bool) : Bool :=
  s.ctl.hnext.isSome && (inHost a || s.ctl.hqueue.any fun x => same x.what)

/-- Writes of a kind that wait. -/
def State.waiting (s : State) (same : Own → Bool) : Nat := (s.ctl.hqueue.filter fun x => same x.what).length

/-- Keep a write of the module's own until the host route is in force. -/
def State.keepOwn (s : State) (a : Nat) (d : List Byte) (w : Own) : State :=
  { s with ctl := { s.ctl with hqueue := s.ctl.hqueue ++ [{ addr := a, data := d, what := w }] } }

/-- The kinds of the module's own writes. -/
def Own.isRecord : Own → Bool | .record _ => true | _ => false
def Own.isAudit : Own → Bool | .audit => true | _ => false
def Own.isTelemetry : Own → Bool | .telemetry => true | _ => false

/-! ### Appending (16 R403, R404) -/

/-- Append one record: count it, fire the triggers its severity asks for, signal the trained host ports, and write it to
the ring; a ring in host memory takes no write while the module is viral, and its writes wait for a host route that is to
take force (13 R349; 16 R403, R409). -/
def State.appendOne (s : State) (r : Rec) : State × List Byte × List Find :=
  let e := s.err
  let snap := e.snapsev.toNat ≤ r.sev && s.trigAccepted 4
  let head := e.head.toNat + s.waiting Own.isRecord
  let a := e.base.toNat + 64 * (head % 2 ^ e.n.toNat)
  let logged := e.en && (e.corr || r.sev != 0) && !(e.viral && inHost a)
  let fl := r.flags ||| (if snap then flagSnap else 0) ||| (if e.viral then flagViral else 0)
    ||| (if logged then 0 else flagUnlogged)
  let bs := { r with flags := fl }.bytes s.gtc.toNat (if logged then head else e.head.toNat)
  let s := if e.snapsev.toNat ≤ r.sev then s.trigger 4 0 0 else s
  let cnt := e.cnt.extractLsb' (8 * r.sev) 8
  let cnt' := (e.cnt &&& ~~~(0xFF#64 <<< (8 * r.sev))) ||| ((satInc cnt).setWidth 64 <<< (8 * r.sev))
  let irq := decide (e.irqsev.toNat ≤ r.sev)
  let s := { s with err := { s.err with cnt := cnt' } }
  if !logged then (if irq then s.signalIrq else s, bs, [])
  else if s.ownWaits a Own.isRecord then (s.keepOwn a bs (.record irq), bs, [])
  else
    let (s, fs) := s.writeStore a bs [] none
    (s.ownDone (.record irq), bs, fs)

/-- PMASK of a finding (18 R431): bit b for bytes 2b and 2b + 1. -/
def Find.pmask (f : Find) : Nat :=
  (seqFrom 0 32).foldl (fun m b =>
    if (f.hit[2 * b]?).getD 0 ≠ 0 ∨ (f.hit[2 * b + 1]?).getD 0 ≠ 0 then m + 2 ^ b else m) 0

/-- KIND of a finding (18 R428, R433, R434; 19 R451). -/
def Find.kind (f : Find) : Nat :=
  if f.gone then 0x0C else if f.torn then 7 else if f.lost then 8
  else if f.worst = 0 then 2 else if f.poison then 3 else 1

/-- The cause of a V-die's last offline (19 R458). -/
def State.dieCause (s : State) (d : Nat) : Nat := SMap.get s.err.dcauses 0 d

/-- DETAIL of a finding (18 R431; 19 R458 for KIND 0x0C). -/
def State.findDetail (s : State) (f : Find) : Nat :=
  if f.gone then vaultCore f.pa / 36 + 8 + 16 * s.dieCause (vaultCore f.pa / 36) else
  f.pmask + f.tag * 2 ^ 32 + (if f.vault then 2 ^ 44 else if s.inHbm f.pa then s.dataStack f.pa * 2 ^ 36 + f.pa / 64 % 4 * 2 ^ 40 else 0) +
  (if f.rebuilt then 2 ^ 42 else 0) + (if f.torn then 2 ^ 45 else 0)

/-- Is a store address in hub memory? -/
def inHub (a : Nat) : Bool := 0x10000000000000 ≤ a && a < 0x10000000400000

/-- The block of a core or hub program slot (13 R359). -/
def agentBlock (p : Nat) : Nat := if isSlot p then 584 + (p - slotBase) else p

/-- The block that detects a finding: the B-die of the sector, the core of the vault, the slot of hub memory, the core or
slot whose ISP or HCW table it is, the tile of the microstore; for host memory and peers the reader's, or that of hub
slot 0 where no agent reads. -/
def State.findBlock (s : State) (r : Rec) (f : Find) : Nat :=
  let a := f.pa
  if s.inHbm a then 600 + s.dataStack a else if inVault a then vaultCore a
  else if inHub a then 584 + a % 0x400000 / 0x40000
  else if ispAddr 0 0 ≤ a ∧ a < microAddr 0 0 then agentBlock ((a - ispAddr 0 0) / 0x10000)
  else if microAddr 0 0 ≤ a ∧ a < hcwAddr 0 0 then 288 + (a - microAddr 0 0) / 0x10000
  else if hcwAddr 0 0 ≤ a ∧ a < snapAddr 0 then agentBlock ((a - hcwAddr 0 0) / 0x10000)
  else if r.core = 0x1FF ∧ r.block = 0 then 584 else r.block

/-- The address of a record's PA: hub memory has none but its L-space offset, and the code stores have none (16 R391). -/
def recordPa (a : Nat) : Nat := if inHub a then a % 0x40000 else if 0x10000001000000 ≤ a then 0 else a

/-- The record of a finding (18 R428, R431). -/
def State.findRec (s : State) (r : Rec) (f : Find) : Rec :=
  { r with va := if f.va = 0 then r.va else f.va, pa := recordPa f.pa, kind := f.kind, sev := f.worst, detail := s.findDetail f, block := s.findBlock r f }

/-- Insert a record before the first of a higher block. -/
def insertBlock (r : Rec) : List Rec → List Rec
  | [] => [r]
  | x :: l => if r.block < x.block then r :: x :: l else x :: insertBlock r l

/-- Records in ascending BLOCK; those of one block keep their order (16 R404). -/
def sortBlocks (l : List Rec) : List Rec := l.foldl (fun k r => insertBlock r k) []

/-- Append some records, then those of what their own ring writes find. -/
def State.appendRecs : Nat → List Rec → State → State
  | 0, _, s => s
  | _ + 1, [], s => s
  | n + 1, r :: rs, s =>
    let (s, _, more) := s.appendOne r
    State.appendRecs n (rs ++ more.map (s.findRec {})) s

/-- Enough fuel to log `n` findings: each ring write leaves its sector clean. -/
def State.logFuel (s : State) (n : Nat) : Nat := n + s.sect.length + 2

/-- Records that reach the log together: they stand there in ascending BLOCK, or wait for the others of their vc (16
R404). -/
def State.logTogether (s : State) (l : List Rec) : State :=
  match s.held with
  | some h => { s with held := some (h ++ l) }
  | none => State.appendRecs (s.logFuel l.length) (sortBlocks l) s

/-- Log the findings of a party that does not consume (18 R428, R472). -/
def State.logAll (s : State) (r : Rec) (fs : List Find) : State := if fs.isEmpty then s else s.logTogether (fs.map (s.findRec r))

/-- Append a record and answer its bytes. -/
def State.append (s : State) (r : Rec) : State × List Byte :=
  let (s, bs, fs) := s.appendOne r
  (s.logAll {} fs, bs)

/-- Append a record. -/
def State.log (s : State) (r : Rec) : State := (s.append r).1

/-- From here on the records of the vc's accesses wait for one another. -/
def State.holdRecs (s : State) : State := { s with held := some [] }



/-- The module goes viral (16 R409): VIRAL, a record of SEV 7, Viral on both host ports, and a viral flit on every
trained link. BLOCK names the block that found the cause; a write of VFORCE has none (log entry 120). -/
def State.goViral (s : State) (kind block : Nat) : State :=
  if s.err.viral then s else
  let s := { s with err := { s.err with viral := true, vsignal := true } }
  let s := s.log { sev := 7, kind := kind, block := block }
  ((seqFrom 0 72).filter fun j => (SMap.get s.fab.links {} j).val && !(s.fab.portsOf j).isEmpty).foldl State.linkFlit s

/-! ### Reads and writes with their logs -/

/-- A read by a party that does not consume (18 R428): its findings are logged. -/
def State.readLogged (s : State) (r : Rec) (a n : Nat) : State × List Byte × List Nat :=
  let (s, b, c, fs) := s.readStore a n
  (s.logAll r fs, b, c)

/-- A write with the findings of its sectors logged (18 R472). -/
def State.writeLogged (s : State) (r : Rec) (a : Nat) (d : List Byte) (cls : List Nat) (lc : Option Nat) : State :=
  let (s, fs) := s.writeStore a d cls lc
  s.logAll r fs

/-- The module's own writes that waited for a host route perform, in their order; a viral module sends none to the host,
and nothing follows them (13 R349; 16 R409). -/
def State.flushOwn (s : State) : State :=
  s.ctl.hqueue.foldl (fun s x =>
    if s.err.viral && inHost x.addr then s else (s.writeLogged {} x.addr x.data [] none).ownDone x.what)
    { s with ctl := { s.ctl with hqueue := [] } }

/-! ### The auditor (16 R407, R408) -/

/-- Mix (16 R408). -/
def mix (k a b : Word) : Word :=
  let z := (a ^^^ k) + b * 0xBF58476D1CE4E5B9 + 1
  let z := (z ^^^ (z >>> 30)) * 0xBF58476D1CE4E5B9
  let z := (z ^^^ (z >>> 27)) * 0x94D049BB133111EB
  z ^^^ (z >>> 31)

/-- Add written bytes, each at its key, to the signature of agent `p`'s unit. -/
def State.sign (s : State) (p : Nat) (key : Word) (d : List Byte) : State :=
  match s.unitOf p with
  | none => s
  | some r =>
    if !(r.sampled && r.audited) then s else
    let sum := (d.zip (seqFrom 0 d.length)).foldl
      (fun z x => z + mix s.err.audkey (key + BitVec.ofNat 64 x.2) (x.1.setWidth 64)) r.sig
    s.setUnit { r with sig := sum }

/-- The log takes some bytes of an input: they are written from AUDLOG on, one after another, and round its LEN bytes
(16 R407; log entry 102). -/
def State.auditWrite (s : State) (b : List Byte) : State :=
  let n := s.err.audlen.toNat
  let s := (b.zip (seqFrom s.err.audpos b.length)).foldl (fun s x =>
    let a := s.err.audlog.toNat + x.2 % n
    if s.ownWaits a Own.isAudit then s.keepOwn a [x.1] .audit else s.writeLogged s.baseRec a [x.1] [] none) s
  { s with err := { s.err with audpos := (s.err.audpos + b.length) % n } }

/-- A sampled unit takes in a value from outside its members' vaults; a full log ends its audit (16 R407). -/
def State.auditIn (s : State) (p : Nat) (b : List Byte) : State :=
  match s.unitOf p with
  | none => s
  | some r =>
    if !(r.sampled && r.audited) || b.isEmpty then s else
    let n := b.length
    if s.err.audlen.toNat < s.err.audused + n then
      { s.setUnit { r with audited := false, log := [] } with
          err := { s.err with skip := satInc s.err.skip, audused := s.err.audused - r.logn } }
    else
      let s := s.auditWrite b
      { s.setUnit { r with logn := r.logn + n, log := r.log ++ [(indexIn r.members p, b)] } with
          err := { s.err with audused := s.err.audused + n } }

/-- Key of a byte in a member's vault (16 R408). -/
def vaultKey (m off : Nat) : Word := BitVec.ofNat 64 (0x4000000000000000 + m * 2 ^ 23 + off)
/-- Key of a byte on a path. -/
def pathKey (path m off : Nat) : Word :=
  BitVec.ofNat 64 (0xC000000000000000 + path * 2 ^ 58 + m * 2 ^ 49 + off)

end Sys2Proof.Machine
end

