-- ==== Sys2Proof/Machine/Translate.lean ====
section
/-! DEFINITION. Tagged addresses, page tables, translation, prediction and mapped vault regions
(09 R238 to R261; 18 R435, R438, R440). -/

namespace Sys2Proof.Machine

open Sys2Proof

/-! ### Tagged addresses (09 R239) -/

/-- SP of a tagged address: 0 L, 1 C, 2 G, 3 path. -/
def spaceOf (a : Word) : Nat := (a >>> 62).toNat
/-- Byte offset of an L- or C-space address. -/
def offOf (a : Word) : Nat := a.toNat % 2 ^ 23
/-- POS of a C-space address. -/
def posC (a : Word) : Nat := nbits a.toNat 23 2
/-- Virtual address of a G-space address. -/
def vaOf (a : Word) : Nat := a.toNat % 2 ^ 56
/-- PATH, V-die, physical core and offset of a path address. -/
def pathOf (a : Word) : Nat × Nat × Nat × Nat :=
  (nbits a.toNat 58 4, nbits a.toNat 49 3, nbits a.toNat 43 6, a.toNat % 65536)
/-- The core a C-space address names, for an issuer in the same cluster. -/
def coreC (p : Nat) (a : Word) : Nat := clusterBase p + posC a

/-- Bytes of an agent's L-space: a vault, or a slot's hub memory (12 R319). -/
def localSize (p : Nat) : Nat := if isSlot p then 0x40000 else 0x800000

/-! ### Faults of an access (18 R435) -/

/-- A translation or address fault: CAUSE, LEVEL of the entry, whether the access was predicted. -/
structure XFault where
  cause : Nat
  level : Nat := 15
  pred  : Bool := false
  va    : Nat := 0
  pa    : Nat := 0
  kind  : Nat := 4
  deriving DecidableEq, Repr

/-- In whose name memory is accessed: agent, context, mode, and whether an engine, routine or hub does it. -/
structure Who where
  p   : Nat
  ctx : Nat
  sv  : Bool
  eng : Bool := false
  deriving DecidableEq, Repr

/-- DETAIL of a translation fault (18 R435); of a lost link, whose number stands in `level` (19 R458). -/
def XFault.detail (f : XFault) (w : Who) (wr : Bool) (done : Nat) : Nat :=
  if f.kind = 0x0D then f.level % 128 * 2 ^ 8 + (f.pa / 2 ^ 41 % 512) * 2 ^ 15 + f.cause % 16 * 2 ^ 28 else
  f.cause + (if w.sv then 2 ^ 16 else 0) + (if f.pred then 2 ^ 17 else 0) + (if w.eng then 2 ^ 18 else 0) +
  (if wr then 2 ^ 19 else 0) + f.level * 2 ^ 20 + done % 2 ^ 32 * 2 ^ 32

/-- The address bits that an untranslated or tagged address must have at 0 (18 R435 causes 0x05, 0x08). -/
def addrBitsOk (a : Word) : Bool :=
  match spaceOf a with
  | 0 => a.toNat < 2 ^ 23
  | 1 => a.toNat < 2 ^ 62 + 2 ^ 25
  | 2 => nbits a.toNat 56 6 == 0
  | _ => nbits a.toNat 52 6 == 0 && nbits a.toNat 16 27 == 0

/-! ### Page tables (09 R249 to R251) -/

/-- A translation: physical address of the byte, layout code, whether MMIO, and its entry. -/
structure Xlat where
  pa   : Nat
  lc   : Nat
  mmio : Bool
  entry : TEntry
  deriving DecidableEq, Repr

/-- Index of an address in the table of a level. -/
def ptIndex (level va : Nat) : Nat := nbits va (12 + 9 * level) (if level = 4 then 8 else 9)
/-- Fields of an entry (09 R250). -/
def peV (e : Word) : Bool := e.getLsbD 0
def peLeaf (e : Word) : Bool := e.getLsbD 1
def peW (e : Word) : Bool := e.getLsbD 2
def peMT (e : Word) : Nat := nbits e.toNat 3 2
def peCont (e : Word) : Bool := e.getLsbD 5
def peSup (e : Word) : Bool := e.getLsbD 6
def peLC (e : Word) : Nat := nbits e.toNat 8 4
def pePpn (e : Word) : Nat := nbits e.toNat 12 40

/-- Is a non-leaf entry well formed (09 R249, R250)? -/
def State.tableOk (s : State) (level : Nat) (e : Word) : Bool :=
  nbits e.toNat 52 12 == 0 && !e.getLsbD 7 && peMT e < 2 && peLC e == 0 && !peCont e && level != 0 &&
  s.inHbm (4096 * pePpn e)

/-- Does the contiguity group of an entry obey 09 R251, `group` being its sixteen entries: no valid one contiguous, or
all of them valid leaves that are, with rising pages and equal attributes? -/
def groupOk (group : List Word) (idx : Nat) (e : Word) (level : Nat) : Bool :=
  let step := if level = 0 then 1 else 512
  if !(peCont e) then !(group.any fun x => peV x && peCont x)
  else (group.zip (seqFrom 0 16)).all fun (x, k) =>
    peV x && peLeaf x && peCont x && peLC x == peLC e && peSup x == peSup e && peMT x == peMT e &&
    peW x == peW e && pePpn x + step * (idx % 16) == pePpn e + step * k

/-- Is a leaf well formed (09 R250 to R252)? `group` holds the entries of its contiguity group at levels 0 and 1. -/
def leafOk (level idx : Nat) (e : Word) (group : List Word) : Bool :=
  nbits e.toNat 52 12 == 0 && !e.getLsbD 7 && peMT e < 2 && peLC e < 10 && level ≤ 2 &&
  (peMT e == 0 || peLC e == 0) && pePpn e % 2 ^ (9 * level) == 0 &&
  (!peCont e || (level ≤ 1 && (pePpn e / 2 ^ (9 * level)) % 16 == idx % 16)) &&
  (2 ≤ level || groupOk group idx e level)

/-- Read `n` table entries from `a` on, at DEVICE scope; an N3 error among them makes the module viral (09 R254;
16 R409 (b)). -/
def State.readEntries (s : State) (a n : Nat) : State × List Word :=
  let (s, b, c, fs) := s.readStore a (8 * n)
  let s := s.logAll s.baseRec fs
  let s := match fs.find? fun f => f.worst == 4 with
    | some f => if c.any (· == 4) then s.goViral f.kind (s.findBlock s.baseRec f) else s
    | none => s
  (s, (seqFrom 0 n).map fun k => BitVec.ofNat 64 (fieldOf b (8 * k) 8))

/-- A non-leaf entry of a level that the caches hold for an address; it stays in use until an invalidation, and Quiran
uses it or reads the table anew (09 R254). -/
def State.cachedTable (s : State) (ctx va level : Nat) : Option TEntry :=
  let l := s.tcache.filter fun e => e.ctx == ctx && !peLeaf e.leaf && e.lsz == 12 + 9 * level && va / 2 ^ e.lsz * 2 ^ e.lsz == e.base
  match l[Config.pick (s.tick + va + level) % l.length]? with
  | some e => if Config.choice (s.tick + va + level) then some e else none
  | none => none

/-- The caches keep an entry. -/
def State.keepEntry (s : State) (x : TEntry) : State :=
  { s with tcache := if s.tcache.contains x then s.tcache else s.tcache ++ [x] }

/-- Walk the tables from `table` at `level` (09 R249); the caches keep every valid entry that the walk reads, and may
give one that they hold (R254). A valid entry of level 0 or 1 that the walk reads is judged with its contiguity group
(R251). -/
def State.walkFrom (ctx va : Nat) : Nat → State → Nat → State × Except XFault TEntry
  | level, s, table =>
    let idx := ptIndex level va
    let held := s.cachedTable ctx va level
    let (s, e) := match held with
      | some x => (s, x.leaf)
      | none => let (s, l) := s.readEntries (table + 8 * idx) 1; (s, l.headD 0)
    let (s, group) := if held.isNone && peV e && level ≤ 1 then s.readEntries (table + 8 * (idx / 16 * 16)) 16 else (s, [])
    let x : TEntry := { ctx := ctx, base := va / 2 ^ (12 + 9 * level) * 2 ^ (12 + 9 * level),
                        lsz := 12 + 9 * level, leaf := e }
    if !peV e then (s, .error { cause := 1, level := level, va := va })
    else if peLeaf e then
      if !leafOk level idx e group then (s, .error { cause := 4, level := level, va := va })
      else (s.keepEntry x, .ok x)
    else if !(s.tableOk level e && groupOk group idx e level) then (s, .error { cause := 4, level := level, va := va })
    else match level with
      | 0 => (s, .error { cause := 4, level := 0, va := va })
      | n + 1 => State.walkFrom ctx va n (s.keepEntry x) (4096 * pePpn e)

/-- Walk the page table of a context; the caches keep the entries that it finds (09 R254). -/
def State.walk (s : State) (c va : Nat) : State × Except XFault TEntry :=
  match s.ctx c with
  | none => (s, .error { cause := 1, level := 4, va := va })
  | some x =>
    if !s.inHbm x.root.toNat then (s, .error { cause := 4, level := 4, va := va })
    else State.walkFrom c va 4 s x.root.toNat

/-- What an entry gives for an address. -/
def TEntry.at (e : TEntry) (va : Nat) : Xlat :=
  { pa := selfPa (4096 * pePpn e.leaf + va % 2 ^ e.lsz), lc := peLC e.leaf, mmio := peMT e.leaf == 1, entry := e }

/-- Size of an entry's page, log2: a contiguity group is one page (09 R251). -/
def TEntry.pageLsz (e : TEntry) : Nat := if peCont e.leaf then e.lsz + 4 else e.lsz

/-- A cached entry that covers an address: until an invalidation, entries of several ages may stand in the
caches, and Quiran uses any of them (09 R254). -/
def State.cached (s : State) (c va : Nat) : Option TEntry :=
  let l := s.tcache.filter fun e => e.ctx == c && peLeaf e.leaf && va / 2 ^ e.lsz * 2 ^ e.lsz == e.base
  l[Config.pick (s.tick + va) % l.length]?

/-- A predicted physical address (09 R255): from a contiguity group that spans the address, else from the 4 KiB page
that ends just below; only from a page of normal memory. -/
def State.predicted (s : State) (c va : Nat) : Option Nat :=
  let group := s.tcache.find? fun e => e.ctx == c && peLeaf e.leaf && peCont e.leaf &&
    va / 2 ^ e.pageLsz == e.base / 2 ^ e.pageLsz
  let below := s.tcache.find? fun e => e.ctx == c && peLeaf e.leaf && !peCont e.leaf && e.lsz == 12 &&
    e.base + 4096 == va / 4096 * 4096
  let ok := fun (e : TEntry) (a : Nat) => peMT e.leaf == 0 && (s.inHbm a || inVault a)
  match group with
  | some e =>
    let i := (e.base / 2 ^ e.lsz) % 16
    let a := 4096 * pePpn e.leaf - i * 2 ^ e.lsz + va % 2 ^ e.pageLsz
    if ok e a then some a else none
  | none =>
    match below with
    | some e => let a := 4096 * pePpn e.leaf + 4096 + va % 4096; if ok e a then some a else none
    | none => none

/-- Rights and kinds of 18 R435, in the order: mode, write, memory type, memory. -/
def State.allow (s : State) (w : Who) (wr mmioOk : Bool) (va : Nat) (x : Xlat) : Except XFault Xlat :=
  let lv := (x.entry.lsz - 12) / 9
  if peSup x.entry.leaf && !w.sv then .error { cause := 3, level := lv, va := va }
  else if wr && !peW x.entry.leaf then .error { cause := 2, level := lv, va := va }
  else if x.mmio && !mmioAddr x.pa then .error { cause := 6, level := lv, va := va, pa := x.pa }
  else if x.mmio && !mmioOk then .error { cause := 7, level := lv, va := va, pa := x.pa }
  else if !x.mmio && !s.isMem x.pa then .error { cause := 6, level := lv, va := va, pa := x.pa }
  else .ok x

/-- The entry for an address: a cached one or a fresh walk's, whichever the caches hold (09 R254). -/
def State.entryFor (s : State) (c va : Nat) : State × Except XFault TEntry :=
  let hit := match s.cached c va with
    | some e => if Config.choice (s.tick + va) then some e else none
    | none => none
  match hit with
  | some e => (s, .ok e)
  | none => s.walk c va

/-- Translate one address (09 R254). -/
def State.translate (s : State) (w : Who) (va : Nat) (wr mmioOk : Bool) : State × Except XFault Xlat :=
  let (s, r) := s.entryFor w.ctx va
  match r with
  | .error f => (s, .error f)
  | .ok e => (s, s.allow w wr mmioOk va (e.at va))

/-- What a translation would give, with no trace in the caches. -/
def State.peek (s : State) (w : Who) (va : Nat) (wr mmioOk : Bool) : Except XFault Xlat := (s.translate w va wr mmioOk).2

/-- May the access cross a link to this peer (13 R352; 19 R457 (d))? -/
def State.peerUp (s : State) (pa : Nat) : Bool :=
  let n := (peerOf pa).1
  let x := SMap.get s.fab.peers {} n
  x.val && (SMap.get s.fab.links {} x.link.toNat).val &&
    (seqFrom 0 72).any (fun k => let y := SMap.get s.fab.ports {} k
                                 y.link == x.link && y.state == 2 && y.member)

/-- The fault of an access to a peer whose link is down (19 R457 (d)). -/
def State.lostLink (s : State) (va pa cause : Nat) : XFault :=
  { cause := cause, va := va, pa := pa, kind := 0x0D, level := (SMap.get s.fab.peers {} (peerOf pa).1).link.toNat }

/-- The fault of an access that would leave over a link: CAUSE; without a key of its context the access
never leaves, and the peer may refuse it (13 R352; 19 R457 (d), R458; log entry 118). -/
def State.peerFault (s : State) (c va pa : Nat) : Option XFault :=
  if !inPeer pa then none
  else if !s.peerUp pa then some (s.lostLink va pa 2)
  else if SMap.get s.fab.ckeys 0 c = 0 ∨ Config.choice (s.tick + 24) then some (s.lostLink va pa 3)
  else none

/-- Pieces of a range that lie in one 4 KiB page each. -/
def pagesOf : Nat → Nat → Nat → List (Nat × Nat)
  | 0, _, _ => []
  | f + 1, a, n => if n = 0 then [] else
      let k := min n (4096 - a % 4096)
      (a, k) :: pagesOf f (a + k) (n - k)

/-- Bytes read with their classes and findings. -/
structure Got where
  data : List Byte := []
  cls  : List Nat := []
  finds : List Find := []
  pa   : Nat := 0
  deriving DecidableEq, Repr

/-- Read one page's part of a G-space range. A read whose page is not cached may be sent to the
predicted address first; if the walk disagrees or denies it, it is squashed: what it found is logged
with SQUASHED, and the read is made again (09 R255, R256; 18 R440; log entry 22). -/
def State.readPage (s : State) (w : Who) (va n : Nat) (pred : Bool) : State × Except XFault Got :=
  let guess := if pred && (s.cached w.ctx va).isNone && Config.choice (s.tick + va + 1) then s.predicted w.ctx va
    else none
  let (s, early) := match guess with
    | none => (s, none)
    | some a => let (s, b, c, f) := s.readStore a n; (s, some (a, b, c, f))
  let (s, r) := s.translate w va false false
  let placed := fun (pa : Nat) (fs : List Find) => fs.map fun f => { f with va := va / 64 * 64 + (f.pa - pa / 64 * 64) }
  let squash := fun (s : State) (f : List Find) =>
    s.logTogether (f.map fun x => let y := s.findRec (s.recFor w.p { va := va }) x; { y with detail := y.detail + 2 ^ 43 })
  match r with
  | .error f =>
    match early with
    | none => (s, .error f)
    | some (a, _, _, fs) => (squash s (placed a fs), .error { f with pred := true })
  | .ok x =>
    match s.peerFault w.ctx va x.pa with
    | some f => (match early with
      | none => (s, .error f)
      | some (a, _, _, fs) => (squash s (placed a fs), .error f))
    | none =>
    match early with
    | some (a, b, c, fs) =>
      if a = x.pa then (s, .ok { data := b, cls := c, finds := placed x.pa fs, pa := x.pa })
      else let (s, b, c, f2) := (squash s (placed a fs)).readStore x.pa n
           (s, .ok { data := b, cls := c, finds := placed x.pa f2, pa := x.pa })
    | none => let (s, b, c, f) := s.readStore x.pa n; (s, .ok { data := b, cls := c, finds := placed x.pa f, pa := x.pa })

/-- Read a G-space range. -/
def State.readG (s : State) (w : Who) (va n : Nat) (pred : Bool) : State × Except XFault Got :=
  (pagesOf (n / 4096 + 2) va n).foldl (fun (r : State × Except XFault Got) l =>
    match r.2 with
    | .error _ => r
    | .ok g =>
      let (s, x) := r.1.readPage w l.1 l.2 pred
      match x with
      | .error f => (s, .error f)
      | .ok h => (s, .ok { data := g.data ++ h.data, cls := g.cls ++ h.cls, finds := g.finds ++ h.finds,
                           pa := if g.data = [] then h.pa else g.pa })) (s, .ok {})

/-- Record that a vault has been written through G-space (19 R451). -/
def State.noteVault (s : State) (pa : Nat) : State :=
  if inVault pa && !s.vwrites.contains (vaultCore pa) then { s with vwrites := s.vwrites ++ [vaultCore pa] } else s

/-! ### Mapped vault regions (09 R258 to R260) -/

/-- A region descriptor. -/
structure RDesc where
  voff : Nat
  len  : Nat
  gva  : Nat
  wb   : Bool
  sv   : Bool
  deriving DecidableEq, Repr

/-- Offset of the region table in a vault. -/
abbrev regionTable : Nat := 0x7FFF00

/-- A descriptor from its 32 bytes. -/
def RDesc.ofBytes (b : List Byte) : RDesc :=
  { voff := fieldOf b 0 8, len := fieldOf b 8 8, gva := fieldOf b 16 8,
    wb := nbit (fieldOf b 24 1) 0, sv := nbit (fieldOf b 24 1) 1 }

/-- Descriptor i of the region table of core q's vault. -/
def State.rdesc (s : State) (q i : Nat) : RDesc :=
  RDesc.ofBytes (s.bytes (vaultAddr q (regionTable + 32 * i)) 32)

/-- The 32 bytes of a descriptor. -/
def RDesc.bytes (d : RDesc) : List Byte :=
  toBytes 8 d.voff ++ toBytes 8 d.len ++ toBytes 8 d.gva ++
  toBytes 8 ((if d.wb then 1 else 0) + (if d.sv then 2 else 0))

/-- The region that maps a vault offset. -/
def State.regionAt (s : State) (q off : Nat) : Option (Nat × RDesc) :=
  (seqFrom 0 8).findSome? fun i =>
    let d := s.rdesc q i
    if d.len ≠ 0 ∧ d.voff ≤ off ∧ off < d.voff + d.len then some (i, d) else none

/-- Fill state of a vault line: 0 unfilled, 1 filled and clean, 2 unfilled and its fill started, 3 filled and dirty,
4 unfilled and its fill faulted, which the access that started it has still to meet. -/
def State.fillOf (s : State) (q line : Nat) : BitVec 3 := SMap.get (s.core q).fills 0 line
/-- Set it. -/
def State.setFill (s : State) (q line : Nat) (v : BitVec 3) : State :=
  s.updCore q fun c => { c with fills := SMap.put c.fills 0 line v }
/-- Does the region table of core `q`'s vault hold anything? -/
def State.mapped (s : State) (q : Nat) : Bool :=
  s.mem.any fun c => vaultAddr q regionTable ≤ c.1 && c.1 < vaultAddr q 0x800000
/-- Is a mapped line without its data? -/
def State.unfilled (s : State) (q line : Nat) : Bool :=
  s.mapped q && !(s.fillOf q line).getLsbD 0 && (s.regionAt q (64 * line)).isSome

/-- Fill one line from G-space, in the context of the unit that owns the vault (09 R259; 18 R430, R438). Where the
source lies in a vault, its own mapped line is filled first, through at most as many vaults as the fuel says. -/
def State.fillDeep : Nat → State → Nat → Nat → State × Option XFault
  | 0, s, _, _ => (s, none)
  | n + 1, s, q, line =>
    match s.regionAt q (64 * line) with
    | none => (s, none)
    | some (_, d) =>
      if (s.fillOf q line).getLsbD 0 then (s, none) else
      let w : Who := { p := q, ctx := s.ctxOf q, sv := d.sv, eng := true }
      let va := d.gva + (64 * line - d.voff)
      let (s, f) := match s.peek w va false false with
        | .ok x => if inVault x.pa && s.unfilled (vaultCore x.pa) (vaultOff x.pa / 64) then
            State.fillDeep n s (vaultCore x.pa) (vaultOff x.pa / 64) else (s, none)
        | .error _ => (s, none)
      match f with
      | some f => (s.setFill q line 0, some f)
      | none =>
        let (s, r) := s.readG w va 64 true
        match r with
        | .error f => (s.setFill q line 0, some f)
        | .ok g =>
          let s := s.logAll (s.recFor q { va := va }) g.finds
          let (s, _) := s.writeStore (vaultAddr q (64 * line)) g.data g.cls none
          ((s.setFill q line 1).auditIn q g.data, none)

/-- Fill one line. -/
def State.fillLine (s : State) (q line : Nat) : State × Option XFault := State.fillDeep 304 s q line

/-- Start the fill of the unfilled mapped lines among some lines of a vault (09 R259 (b)). -/
def State.startFills (s : State) (q : Nat) (lines : List Nat) : State :=
  if isSlot q then s else
  lines.foldl (fun s l => if s.unfilled q l && s.fillOf q l == 0 then s.setFill q l 2 else s) s

/-- Lines that a vault range meets. -/
def linesIn (off n : Nat) : List Nat :=
  if n = 0 then [] else seqFrom (off / 64) ((off + n - 1) / 64 - off / 64 + 1)

/-- Fill every unfilled mapped line of a range. -/
def State.fillRange (s : State) (q off n : Nat) : State × Option XFault :=
  (linesIn off n).foldl (fun (r : State × Option XFault) l =>
    match r.2 with
    | some _ => r
    | none => if r.1.unfilled q l then r.1.fillLine q l else r) (s, none)

/-- Write vault bytes: an unfilled mapped line is filled first, and a filled one becomes dirty (09 R259). -/
def State.writeVault (s : State) (q off : Nat) (d : List Byte) (cls : List Nat) : State :=
  let (s, _) := s.fillRange q off d.length
  let (s, fs) := s.writeStore (vaultAddr q off) d cls none
  let s := s.logAll s.baseRec fs
  (linesIn off d.length).foldl (fun s l => if s.fillOf q l = 1 then s.setFill q l 3 else s) s

/-- Write bytes at a physical address; a vault's mapped lines become dirty. -/
def State.writePa (s : State) (pa : Nat) (d : List Byte) (cls : List Nat) (lc : Option Nat) : State :=
  if inVault pa then (s.noteVault pa).writeVault (vaultCore pa) (vaultOff pa) d cls
  else s.writeLogged s.baseRec pa d cls lc

/-- Write a G-space range whose pages all translate, and whose mapped lines can be filled; nothing is written else. -/
def State.writeG (s : State) (w : Who) (va : Nat) (d : List Byte) (cls : List Nat) : State × Except XFault Unit :=
  let ps := pagesOf (d.length / 4096 + 2) va d.length
  let (s, r) := ps.foldl (fun (r : State × Except XFault (List Xlat)) l =>
    match r.2 with
    | .error _ => r
    | .ok xs =>
      let (s, x) := r.1.translate w l.1 true false
      match x with
      | .error f => (s, .error f)
      | .ok x => match s.peerFault w.ctx l.1 x.pa with
                 | some f => (s, .error f)
                 | none =>
                   let (s, f) := if inVault x.pa then s.fillRange (vaultCore x.pa) (vaultOff x.pa) l.2 else (s, none)
                   match f with
                   | some f => (s, .error f)
                   | none => (s, .ok (xs ++ [x]))) (s, .ok [])
  match r with
  | .error f => (s, .error f)
  | .ok xs =>
    ((ps.zip xs).foldl (fun s lx =>
      let o := lx.1.1 - va
      s.writePa lx.2.pa ((d.drop o).take lx.1.2) ((cls.drop o).take lx.1.2) (some lx.2.lc)) s, .ok ())

/-- Write L-space bytes of an agent. -/
def State.writeLocal (s : State) (p off : Nat) (d : List Byte) (cls : List Nat) : State :=
  if isSlot p then s.writeLogged s.baseRec (localAddr p off) d cls none else s.writeVault p off d cls

/-- Write back every dirty line of a region; the offset of the first line that fails (09 R260; 18 R438). -/
def State.writeBack (s : State) (q : Nat) (d : RDesc) (lines : List Nat) : State × Option (XFault × Nat) :=
  lines.foldl (fun (r : State × Option (XFault × Nat)) l =>
    if r.1.fillOf q l ≠ 3 then r else
    let s := r.1
    let (s, b, c, fs) := s.readStore (vaultAddr q (64 * l)) 64
    let s := s.logAll (s.recFor q {}) fs
    let w : Who := { p := q, ctx := s.ctxOf q, sv := d.sv, eng := true }
    let (s, x) := s.writeG w (d.gva + (64 * l - d.voff)) b c
    match x with
    | .ok _ => (s.setFill q l 1, r.2)
    | .error f => (s, match r.2 with | some y => some y | none => some (f, 64 * l - d.voff))) (s, none)

/-- Lines of a region that are dirty now. -/
def State.dirtyLines (s : State) (q : Nat) (d : RDesc) : List Nat :=
  (linesIn d.voff d.len).filter fun l => s.fillOf q l == 3

/-- Make every line of a range unfilled. -/
def State.unfillRange (s : State) (q off n : Nat) : State :=
  s.updCore q fun c => { c with fills := c.fills.filter fun e => !(off ≤ 64 * e.1 && 64 * e.1 < off + n) }

end Sys2Proof.Machine
end

