-- ==== Sys2Proof/Machine/Fault.lean ====
section
/-! DEFINITION. Faults, rollback, unwind, error trap and fatal stop (02 R44; 16 R394 to R400; 17 R411 to
R425). Every one of them is a next state. -/

namespace Sys2Proof.Machine

open Sys2Proof

/-- A fault of the acting operation. -/
def State.use (s : State) (u : Use) : Use :=
  { u with slot := s.cur.slot.toNat, group := s.cur.group, enc := s.cur.enc.toNat, reis := s.cur.reis }

/-- DETAIL of KIND 0x05 and 0x06 (17 R413). -/
def Use.word (u : Use) : Nat :=
  u.cause + 256 * u.slot + 2 ^ 12 * u.group + (if u.reis then 2 ^ 15 else 0) + 2 ^ 16 * u.wh + 2 ^ 32 * u.enc

/-- The record of a fault of agent `p`. -/
def State.useRec (s : State) (p : Nat) (u : Use) : Rec :=
  s.recFor p { va := u.va, pa := u.pa, kind := u.kind, sev := u.sev,
               detail := if u.kind = 5 ∨ u.kind = 6 then u.word else u.detail }

/-- A fault of an access by the acting operation (18 R435; 19 R457 (d) for a lost link). -/
def XFault.use (f : XFault) (w : Who) (wr : Bool) : Use :=
  { kind := f.kind, cause := f.cause, va := f.va, pa := f.pa, detail := f.detail w wr 0 }

/-! ### The auditor's key of a written byte (16 R408) -/

/-- Key of a byte of core `q`'s vault written by agent `p`; a vault of the cluster outside the peloton
counts from 4 on (log entry 30). -/
def State.keyOf (s : State) (p q off : Nat) : Word :=
  let l := s.membersOf p
  vaultKey (if l.contains q then indexIn l q else 4 + q % 4) off

/-! ### Rollback (02 R44) -/

/-- The fault of an element address outside L-space, or not a multiple of the element size (10 R278; 18 R435). -/
def Port.badAt (x : Port) (a : Int) : Option XFault :=
  let n : Nat := 2 ^ x.lsz
  if a < 0 ∨ (0x800000 : Int) < a + n ∨ a % (n : Nat) ≠ 0 then some { cause := 8, pa := (a % 2 ^ 64).toNat } else none

/-- The fault of a port of agent `p`, to be delivered later (17 R418); `State.settleLate` follows where the agent has
stopped or halted. -/
def State.portFault (s : State) (p : Nat) (f : XFault) : State :=
  let w : Who := { p := p, ctx := s.ctxOf p, sv := (s.core p).sv, eng := true }
  let r := s.recFor p { kind := f.kind, va := f.va, pa := f.pa,
                        detail := if f.kind = 6 then ({ cause := f.cause } : Use).word else f.detail w true 0 }
  s.updCore p fun c => { c with late := c.late ++ [{ what := r, due := c.vc }] }

/-- A write port writes bytes `lo` to `hi - 1` of one element, unless its address, the region table or its mapped line is
at fault (10 R278, R279; 18 R435, R438). -/
def State.writePart (s : State) (p : Nat) (x : Port) (e : Nat × Lane × Nat) (lo hi : Nat) : State :=
  let n := 2 ^ x.lsz
  let b := ((toBytes n e.2.1.toNat).take hi).drop lo
  match x.badAt (BitVec.ofNat 64 e.1).toInt with
  | some f => if lo = 0 then s.portFault p f else s
  | none =>
    if regionTable < e.1 + n then (if lo = 0 then s.portFault p { cause := 0x26, pa := e.1, kind := 6 } else s) else
    let (s, f) := s.fillRange p e.1 n
    match f with
    | some f => s.portFault p f
    | none => (s.writeLocal p (e.1 + lo) b []).sign p (s.keyOf p p (e.1 + lo)) b

/-- A write port writes one element whole. -/
def State.writeElem (s : State) (p : Nat) (x : Port) (e : Nat × Lane × Nat) : State := s.writePart p x e 0 (2 ^ x.lsz)

/-- A write port's held elements are written before the rollback discards them (10 R281), the first from its first byte
not yet written on. -/
def State.drainPort (s : State) (p q : Nat) : State :=
  let x := (s.core p).port q
  if x.bound && x.write then
    match x.ahead with
    | [] => s
    | e :: r => r.foldl (fun s e => s.writeElem p x e) (s.writePart p x e x.part.length (2 ^ x.lsz))
  else s

/-- Results in flight that a rollback leaves: irrevocable accesses still to perform, whichever checkpoint bundle issued
them (02 R45; 17 R419); they land in no register. -/
def Core.keepIrrev (c : Core) : List Pending :=
  (c.pend.filter (fun x => x.irrev.isSome && !x.arrived)).map fun x => { x with dest := .none }

/-- The irrevocable record after a rollback to word `w`: that of the completed bundle there, or, where the bundle there
was abandoned in its hold after operations of it had performed, what it noted, as of a bundle that has not completed
(02 R45; 17 R411 (b), R419). -/
def Core.irrevAt (c : Core) (w : Word) : Irrev × Bool :=
  let part := !c.ckDone && !c.sv && c.irrevNew.valid && !c.irrevNew.done.isEmpty && c.irrevNew.word == w
  let old := c.irrev.valid && c.irrev.word == w
  if part then ({ c.irrevNew with whole := c.replay && old && c.irrev.whole }, true)
  else (c.irrev, c.replay || (c.ckDone && old))

/-- Has the bundle at the core's last checkpoint not completed: it is still held, or an irrevocable access of it has
faulted (17 R411 (b))? -/
def Core.incomplete (c : Core) : Bool := !c.ckDone || (c.irrev.valid && c.irrev.word == c.ckWord && !c.irrev.whole)

/-- The irrevocable operations of an agent's last checkpoint bundle, which does not complete, have not performed (02
R45; 17 R411 (b), R419): accesses still to perform are dropped, messages still in the mesh are withdrawn, calls in
persistent mode that have not started run as fences, the region stack is as it was, and the record names them no
more. What has performed by then stays in it. -/
def State.withdraw (s : State) (p : Nat) : State :=
  let c := s.core p
  if !c.incomplete then s else
  let v := c.ckVc
  let mine := fun (x : Pending) => x.irrev.isSome && !x.arrived && x.issue == v
  let sends := (c.eng0 ++ c.eng1).filter fun o => o.sub == 11 && o.prog / 16 == v
  let calls := if isSlot p then [] else (s.tile p).queue.filter fun o => o.vc == v && (match o.kind with | .mcall _ => true | _ => false) &&
    ((o.mp[5]?).getD 0).setWidth 2 == (3 : BitVec 2)
  let keys := (c.pend.filter mine).filterMap (·.irrev) ++ sends.map (fun o => o.prog % 16) ++ (if calls.isEmpty then [] else [5]) ++
    c.irrevNew.soft
  let drop := fun (r : Irrev) => { r with done := r.done.filter fun k => !keys.contains k, soft := [] }
  let s := { s with mesh := s.mesh.filter fun m => !(m.sender == p && m.pos / 16 == v) }
  let s := if calls.isEmpty then s else
    s.updTile p fun t => { t with queue := t.queue.map fun o => if calls.contains o then { o with kind := .mfence } else o }
  let ended := fun (l : List EngOp) => l.map fun o => if o.sub = 11 ∧ o.prog / 16 = v then { o with sub := 15 } else o
  s.updCore p fun c =>
    { c with pend := c.pend.filter fun x => !mine x, regions := if c.irrevNew.soft.isEmpty then c.regions else c.ckRegions,
             irrevNew := drop c.irrevNew, irrev := if c.irrev.word == c.ckWord && !c.irrev.whole then drop c.irrev else c.irrev,
             eng0 := ended c.eng0, eng1 := ended c.eng1 }

/-- The restore of one core from its shadow (02 R43, R44). -/
def Core.rollback (c : Core) : Core :=
  match c.shadow with
  | none => c
  | some h =>
    { c with
      s := h.s, a := h.a, p := h.p, v := h.v, k := h.k, mp := h.mp, fmt := h.fmt, mpc := h.mpc, pc := h.pc,
      ispsel := h.ispsel, loops := h.loops, rnd := h.rnd, ports := h.ports,
      recvq := h.msgs.filter (fun m => !m.err) ++ c.recvq,
      errq := h.msgs.filter (fun m => m.err) ++ c.errq,
      shadow := some { h with msgs := [] },
      gate := [], pend := c.keepIrrev, recs := [], marks := [], tchecks := [], inIssue := {}, taken := none,
      loopPush := none, hold := 0, holdAt := true, rest := [], gatherAt := none, again := false,
      irrev := (c.irrevAt h.pc).1, replay := (c.irrevAt h.pc).2 }

/-- The tile of core `p` takes its part of a restore after every numbered operation already issued. -/
def State.restoreTile (s : State) (p : Nat) : State :=
  if isSlot p then s else
  s.updTile p fun t => { t with queue := t.queue ++ [{ num := 0, kind := .restore }] }

/-- One agent rolls back to its last checkpoint bundle. -/
def State.rollbackOne (s : State) (p : Nat) : State :=
  let s := (seqFrom 0 8).foldl (fun s q => s.drainPort p q) s
  ((s.withdraw p).updCore p Core.rollback).restoreTile p

/-- The agents that fault, stop and roll back together with agent `p`: those of its vc count that have
not halted (16 R395, 17 R425). -/
def State.together (s : State) (p : Nat) : List Nat :=
  (s.lock p).filter fun m => !(s.core m).halted && !(s.core m).stopped

/-- Roll back a list of agents; nothing of their bundles remains to issue. -/
def State.rollbackAll (s : State) (l : List Nat) : State := l.foldl State.rollbackOne (s.cancelTurns l)

/-! ### Ending a unit (02 R51; 16 R400; 17 R422) -/

/-- A member stands stopped, with its vc count at the stop (02 R55). -/
def Core.stand (c : Core) : Core := { c with stopped := true, stopVc := c.vc }

/-- A member with a hold that a stop request ends: on a stream port, tlwait, recv or hwaitc, in program mode
(02 R51; 05 R143); not while a fault waits for it, which is delivered first (17 R423). -/
def Core.abandons (c : Core) : Bool := !c.halted && !c.stopped && 5 ≤ c.hold && !c.sv && c.late.isEmpty

/-- The unit's members stop asking for holds: those that abandon one roll back and stand stopped (02 R51). -/
def State.abandonHolds (s : State) (r : UnitRec) : State :=
  r.members.foldl (fun s m =>
    let c := s.core m
    let l := s.together m
    if !c.abandons || l.any (fun k => !(s.core k).late.isEmpty) then s else
    let done := l.any fun k => (s.core k).ckDone
    let s := s.rollbackAll l
    let s := l.foldl (fun s k => s.updCore k Core.stand) s
    match s.findUnit r.ctx r.lid r.u with
    | none => s
    | some x => s.setUnit { x with abandoned := x.abandoned || done, stopGtc := s.gtc }) s

/-- The unit of agent `p` stops fatally: no member issues again, it counts as cancelled, and a record
of SEV 6 is appended. Members with a vc count of their own stop as a stop request makes them stop. -/
def State.fatalStop (s : State) (p : Nat) (r : Rec) : State :=
  let s := s.log { r with sev := 6 }
  let l := s.together p
  let s := s.rollbackAll l
  let s := l.foldl (fun s m => s.updCore m Core.stand) s
  let s := (s.membersOf p).foldl (fun s m => s.updCore m fun c => { c with stopReq := true }) s
  match s.unitOf p with
  | none => s
  | some u => (s.setUnit { u with cancel := true, st := match u.st with | .running => .stopping 5000 | x => x }).abandonHolds u

/-- A fault on a hub program slot: the slot issues nothing more and its job is to be cancelled as hcancel
of its job handle cancels it (17 R422 (c)). Nothing is rolled back; irrevocable accesses of bundles that have completed
still perform. -/
def State.slotStop (s : State) (p : Nat) (r : Rec) : State :=
  let s := s.log { r with sev := 6, cpc := 0xFFFFFFFFFFFFFFFF }
  let s := s.cancelTurns [p]
  let s := s.updCore p fun c => { c with stopped := true, pend := c.keepIrrev.filter fun x => x.issue < c.vc, rest := [], gate := [] }
  match s.ctx (p - slotBase) with
  | none => s
  | some x => s.setCtx (p - slotBase) { x with ending := true, cancelled := true }

/-! ### Faults reported later (17 R418, R423) -/

/-- A fault reported by an engine, routine or port of agent `p`: it waits for its delivery; when every
member has halted the unit stops fatally, and once the members have stopped the first one is kept. -/
def State.report (s : State) (p : Nat) (r : Rec) : State :=
  let c := s.core p
  if isSlot p then s.slotStop p r
  else if (s.membersOf p).all (fun m => (s.core m).halted) then
    match s.unitOf p with | none => s.log r | some _ => s.fatalStop p r
  else if c.stopped then
    match c.pendFault with
    | some _ => s.log r
    | none =>
      let (s, bs) := s.append { r with cpc := c.ckWord.toNat, flags := flagTrap }
      s.updCore p fun c => { c with pendFault := some bs }
  else s.updCore p fun c => { c with late := c.late ++ [{ what := r, due := c.vc }] }

/-- Faults of agent `p` that wait for their delivery meet an agent that has stopped, or a unit that has halted: they are
reported as such (17 R418 (d), R423). -/
def State.settleLate (s : State) (p : Nat) : State :=
  let c := s.core p
  if c.late.isEmpty || !(c.stopped || (s.membersOf p).all (fun m => (s.core m).halted)) then s
  else c.late.foldl (fun s x => s.report p x.what) (s.updCore p fun c => { c with late := [] })

/-! ### Delivery (16 R394 to R399) -/

/-- The record that a delivery appends, with CPC and FLAGS as known (16 R394). -/
def State.delivered (s : State) (p : Nat) (r : Rec) (unwind : Bool) : Rec :=
  { r with cpc := (s.core p).ckWord.toNat, flags := if unwind then flagContained else flagTrap }



/-- Pop loop levels until at most `n` remain; the innermost level is the last. -/
def popLoops (l : List Loop) (n : Nat) : List Loop := l.take n

/-- Error trap of one agent after its rollback (16 R396). -/
def Core.errorTrap (c : Core) (bs : List Byte) : Core :=
  { (c.enterTrap c.pc 0xFFFF).goCheckpoint c.handler with
      errq := { sender := 0x1FF, bytes := bs, err := true } :: c.errq }

/-- Unwind of one agent after its rollback (16 R399); an agent of the same vc count whose own region
stack is empty takes an error trap. -/
def State.unwindOne (s : State) (p : Nat) (bs : List Byte) : State :=
  let c := s.core p
  match c.regions.getLast? with
  | none => s.updCore p (·.errorTrap bs)
  | some e =>
    let s := s.writeLocal p e.addr bs []
    s.updCore p fun c =>
      { c.goCheckpoint (target e.w e.t) with
          regions := c.regions.dropLast, loops := popLoops c.loops e.ldepth,
          replay := c.replay && c.irrev.word == target e.w e.t }

/-- Deliver a record to agent `p` and to every agent of its vc count (when none of them issues, it is
reported): a consumption inside a region unwinds, everything else is an error trap; an error in supervisor
mode on a core is fatal. The bundle that takes the place of the faulting one issues at the same vc. -/
def State.deliver (s : State) (p : Nat) (r : Rec) (consumed : Bool) : State :=
  let c := s.core p
  let l := s.together p
  if isSlot p then s.slotStop p r
  else if l.isEmpty then s.report p r
  else if c.sv then s.fatalStop p { r with cpc := c.ckWord.toNat }
  else
    let unwind := consumed && !c.regions.isEmpty
    let (s, bs) := s.append (s.delivered p r unwind)
    let s := s.rollbackAll l
    let s := l.foldl (fun s m => if unwind then s.unwindOne m bs else s.updCore m (·.errorTrap bs)) s
    s.pushTurns [.begin p]

/-- Log some records, those of one GTC in ascending BLOCK (16 R404). -/
def State.logSorted (s : State) (l : List Rec) : State := (sortBlocks l).foldl State.log s

/-- Deliver a record beside others of the same vc, which only append theirs: what reaches the log together stands there
in ascending BLOCK (16 R397, R404). -/
def State.deliverAmong (s : State) (p : Nat) (r : Rec) (consumed : Bool) (others : List Rec) : State :=
  let s := s.logSorted (others.filter fun x => x.block < r.block)
  (s.deliver p r consumed).logSorted (others.filter fun x => !(x.block < r.block))

/-- Deliver a fault of the acting agent. -/
def State.deliverUse (s : State) (u : Use) : State := s.deliver s.cur.core (s.useRec s.cur.core u) false

/-- A fault that is not the one delivered appends its own record (16 R397). -/
def State.logUse (s : State) (p : Nat) (u : Use) : State := s.log (s.useRec p u)

/-- The meaning of an operation with a check: the fault it takes, or its effect. In a trial the fault is only
noted (17 R411, R412: the faults of a bundle are found before it issues). -/
def guarded (s : State) (u : Option Use) (t : State) : Host.Outcome State Fault Refusal :=
  match u with
  | none => .next t
  | some u =>
    match s.trial with
    | none => .next (s.deliverUse u)
    | some l => .next { s with trial := some (l ++ [u]) }

/-! ### Tandem comparison (02 R50 (c); 16 R406; 17 R421) -/

/-- Pairs of a tandem unit's members: primary and secondary. -/
def State.pairs (s : State) (p : Nat) : List (Nat × Nat) :=
  match s.unitOf p with
  | some r => if r.mode = 2 then (r.members.take r.size).zip (r.members.drop r.size) else []
  | none => []

/-- What a side's gate buffer and tcheck values bring to the comparison; an audmark takes no entry. -/
def Core.gateSide (c : Core) : List (Form × List (Nat × Byte) × Option (Nat × AtomOp)) × List Word :=
  ((c.gate.filter (·.entry)).map fun e => (e.form, e.cells, e.atom), c.tchecks)

/-- A difference at comparison `w`: both sides run again from the last checkpoint bundle captured, and a second
difference there stops the unit. -/
def State.differ (s : State) (p : Nat) (w : Word) : State :=
  match s.unitOf p with
  | none => s
  | some r =>
    if r.retry = some w then s.fatalStop p (s.recFor p { kind := 0x0A })
    else ((s.setUnit { r with retry := some w }).rollbackAll (s.together p)).pushTurns [.begin p]

/-- What differed before compares equal (16 R406 step 3). -/
def State.agreed (s : State) (p : Nat) (w : Word) : State :=
  match s.unitOf p with
  | none => s
  | some r => if r.retry = some w then (s.setUnit { r with retry := none }).log (s.recFor p { kind := 0x0A, sev := 0 }) else s

/-- Do faults of the agents `ms` stand on one side of some pair only (17 R421)? -/
def State.oneSided (s : State) (p : Nat) (ms : List Nat) : Bool :=
  (s.pairs p).any fun x => ms.contains x.1 != ms.contains x.2

/-- Faults of agents of `p`'s vc count met together: on one side of a pair only they are a difference, else the first is
delivered and the others append their records (16 R397; 17 R421). -/
def State.deliverUses (s : State) (p : Nat) (l : List (Nat × Use)) : State :=
  if s.oneSided p (l.map (·.1)) then s.differ p (s.core p).pc
  else match l with
    | [] => s
    | (m, u) :: r => s.deliverAmong m (s.useRec m u) false (r.map fun x => s.useRec x.1 x.2)

/-! ### Consumption (16 R394, R398) -/

/-- Does the innermost region of a core allow a class (16 R398)? -/
def Core.tolerates (c : Core) (cls : Nat) : Bool :=
  match c.regions.getLast? with
  | none => false
  | some e => decide (1 ≤ cls ∧ cls ≤ 2 ∧ cls ≤ e.tol)

/-- The record of a consumption from what its read found. -/
def Damage.record (d : Damage) : Rec :=
  { va := d.va.toNat, pa := d.pa.toNat, kind := d.kind, sev := d.cls, detail := d.detail.toNat }

/-- What an access found, as the damage of the value it brings. -/
def State.damageOf (s : State) (va : Nat) (fs : List Find) : Damage :=
  match fs.foldl (fun (b : Option Find) f => match b with
      | none => if f.worst = 0 then none else some f
      | some g => if g.worst < f.worst then some f else some g) none with
  | none => {}
  | some f => { cls := f.worst, va := BitVec.ofNat 64 (if f.va = 0 then va else f.va), pa := BitVec.ofNat 64 (recordPa f.pa),
                detail := BitVec.ofNat 64 (s.findDetail f), kind := f.kind,
                block := if s.inHbm f.pa then some (600 + s.dataStack f.pa) else none }

/-- The damage of a slot access to a vault or hub memory: PA is the line's tagged address, VA its G-space
address where a region maps it (16 R391; 20 R467). -/
def State.vaultDamage (s : State) (cspace : Bool) (fs : List Find) : Damage :=
  let d := s.damageOf 0 fs
  let a := d.pa.toNat
  if d.cls = 0 || !inVault a then d else
  let q := vaultCore a
  let off := vaultOff a
  { d with
    pa := BitVec.ofNat 64 (if cspace then 2 ^ 62 + q % 4 * 2 ^ 23 + off else off)
    va := match s.regionAt q off with | some (_, r) => BitVec.ofNat 64 (r.gva + (off - r.voff)) | none => 0 }

/-- Findings of agent `p`'s access that are no uncorrectable damage are logged by the read (18 R428). -/
def State.logFixed (s : State) (p va : Nat) (fs : List Find) : State :=
  s.logAll (s.recFor p { va := va }) (fs.filter fun f => f.worst == 0)

/-- The findings of an access of agent `p` whose value lands in no register are all logged by the read: nothing
consumes them (16 R394; 18 R428). -/
def State.logUnused (s : State) (p va : Nat) (fs : List Find) : State :=
  s.logAll (s.recFor p { va := va }) (fs.filter fun f => f.worst != 0)

/-- A damage that stands for a fault of the access, delivered when its hold ends (18 R436): class 5. -/
def Use.damage (u : Use) : Damage :=
  { cls := 5, va := BitVec.ofNat 64 u.va, pa := BitVec.ofNat 64 u.pa,
    detail := BitVec.ofNat 64 (if u.kind = 6 then u.word else u.detail), kind := u.kind }

end Sys2Proof.Machine
end

