-- ==== Sys2Proof/Machine/Operands.lean ====
section
/-! DEFINITION. Operand forms: effective addresses, the spaces an operation accepts, alignment, banks of
the own vault, vector access patterns, stream elements, and the gate entries of a store (02 R41; 05
R132 to R136; 09 R238 to R244; 10 R268 to R281; 17 R415). -/

namespace Sys2Proof.Machine

open Sys2Proof

/-- In whose name the acting operation accesses memory. -/
def State.who (s : State) : Who := { p := s.cur.core, ctx := s.ctxOf s.cur.core, sv := s.cur.sv }

/-! ### Faults of an operand -/

/-- A fault of the acting operation at an address. -/
def State.useAt (s : State) (cause : Nat) (pa : Nat) : Use := s.use { cause := cause, pa := pa }

/-- The address fault of 18 R435 that the acting operation takes at issue. -/
def State.useX (s : State) (cause : Nat) (wr : Bool) (a : Nat) : Use :=
  let u := ({ cause := cause, pa := a } : XFault).use s.who wr
  s.use { u with va := if cause = 5 then a else 0, pa := if cause = 5 then 0 else a }

/-- The first fault of a list of checks. -/
def firstUse : List (Option Use) → Option Use
  | [] => none
  | none :: r => firstUse r
  | some u :: _ => some u

/-- A check: the fault if the condition fails. -/
def orUse (ok : Bool) (u : Use) : Option Use := if ok then none else some u

/-- Is the core's die online and the core enabled? -/
def State.coreUp (s : State) (q : Nat) : Bool := s.enabled q && !s.offline (q / 36)

/-- May the acting core write this path destination (10 R277)? -/
def State.pathAllowed (s : State) (a : Word) : Bool :=
  let (path, d, p, _) := pathOf a
  s.cur.sv || (path != 1 && 36 * d + p == s.cur.core)

/-- The space check of 10 R268: spaces by code 0 L, 1 C, 2 G, 3 path; a hub program slot has no C-space
(12 R319). -/
def State.spaceUse (s : State) (a : Word) (accept : List Nat) (wr : Bool) : Option Use :=
  let p := s.cur.core
  let sp := spaceOf a
  firstUse [
    orUse (accept.contains sp && !(isSlot p && sp == 1) && (sp != 3 || s.pathAllowed a)) (s.useAt 0x26 a.toNat),
    orUse (sp == 3 || addrBitsOk a) (s.useX (if sp = 2 then 5 else 8) wr a.toNat),
    orUse (sp != 0 || offOf a < localSize p) (s.useX 8 wr a.toNat),
    orUse (sp != 1 || s.enabled (coreC p a)) (s.useX 8 wr a.toNat)]

/-- Alignment of an address to `k` bytes (cause 0x25). -/
def State.alignUse (s : State) (a k : Nat) : Option Use := orUse (aligned a k) (s.useAt 0x25 a)

/-! ### S-slot addresses (05 R132, R134) -/

/-- EA of an S-slot vault form. -/
def State.eaS (s : State) (a : BitVec 4) (imm : BitVec 16) : Word := s.me.ga a + imm.signExtend 64
/-- EA of gld and gst. -/
def State.eaG (s : State) (a : BitVec 4) (off : BitVec 11) : Word := s.me.ga a + (off.signExtend 64 <<< 3)

/-- Checks of an own-vault access of `n` bytes at `ea` (causes 0x08 of 18 R435, 0x25, 0x26). -/
def State.localUse (s : State) (ea : Nat) (n : Nat) (wr : Bool) : Option Use :=
  let p := s.cur.core
  firstUse [
    s.alignUse ea n,
    orUse (ea + n ≤ localSize p) (s.useX 8 wr ea),
    orUse (!wr || isSlot p || ea + n ≤ regionTable) (s.useAt 0x26 ea)]

/-- Checks of a gld or gst address. -/
def State.globalUse (s : State) (ea : Word) (n : Nat) (wr : Bool) : Option Use :=
  firstUse [orUse (ea.toNat < 2 ^ 56) (s.useX 5 wr ea.toNat), s.alignUse ea.toNat n]

/-! ### Banks (09 R243, R244) -/

/-- Distinct 64-byte lines of byte offsets. -/
def linesOfOffs (l : List Nat) : List Nat := distinct (l.map (· / 64))

/-- Does a list of lines need some bank twice? -/
def bankTwice (lines : List Nat) : Bool := (distinct (lines.map (· % 8))).length != lines.length

/-- Is the own vault given to a vldx at this vc (10 R273)? -/
def Core.gathering (c : Core) : Bool := match c.gatherAt with | none => false | some n => decide (c.vc ≤ n + 31)

/-! ### Vector accesses (10 R271 to R273) -/

/-- Element bytes of WID. -/
def widBytes (wid : BitVec 2) : Nat := match wid.toNat with | 0 => 4 | 1 => 2 | _ => 1
/-- Group spacing of GSC in bytes. -/
def spacing (gsc : BitVec 2) (b : Nat) : Nat := match gsc.toNat with | 0 => 16 * b | 1 => 40 | _ => 0
/-- The post-increment and offset d of a vector access. -/
def vecStep (off : BitVec 10) : Int := 8 * off.toInt

/-- Active lanes of all groups, ascending: group and lane. -/
def Core.lanes (c : Core) (ms : BitVec 3) : List (Nat × Nat) :=
  (seqFrom 0 8).flatMap fun g => ((seqFrom 0 16).filter (c.active g ms)).map fun i => (g, i)

/-- Byte offsets that vld or vst names, by lane, as integers. -/
def State.vecOffs (s : State) (a : BitVec 4) (ms : BitVec 3) (wid gsc : BitVec 2) (pi : Bool)
    (off : BitVec 10) : List ((Nat × Nat) × Int) :=
  let c := s.me
  let b := widBytes wid
  let base : Int := (offOf (c.ga a) : Nat) + (if pi then 0 else vecStep off)
  (c.lanes ms).map fun (g, i) => ((g, i), base + (spacing gsc b * g + b * i : Nat))

/-- Byte offsets that vldx or vstx names. -/
def State.idxOffs (s : State) (vi : BitVec 5) (a : BitVec 4) (ms : BitVec 3) (sc : BitVec 2) :
    List ((Nat × Nat) × Int) :=
  let c := s.me
  (c.lanes ms).map fun (g, i) =>
    ((g, i), (offOf (c.ga a) + (c.gv g vi.toNat i).toNat * 2 ^ sc.toNat : Nat))

/-- Checks of the element addresses of a vector access, as offsets in the space whose tag is `tag`: aligned to the
element size, inside the space, no write of a region table. A fault's PA is the tagged address (16 R391). -/
def State.lanesUse (s : State) (l : List ((Nat × Nat) × Int)) (tag b size : Nat) (wr : Bool) : Option Use :=
  firstUse (l.map fun x => firstUse [
    orUse (aligned (x.2 % 2 ^ 64).toNat b) (s.useAt 0x25 ((tag + x.2) % 2 ^ 64).toNat),
    orUse (decide (0 ≤ x.2 ∧ x.2 + (b : Int) ≤ (size : Int))) (s.useX 8 wr ((tag + x.2) % 2 ^ 64).toNat),
    orUse (!wr || isSlot s.cur.core || x.2.toNat + b ≤ regionTable) (s.useAt 0x26 (tag + x.2.toNat))])

/-- The address in its form's space of a byte offset in the space that a tagged address names. -/
def State.formAddr (s : State) (a : Word) (off : Nat) : Form × Nat :=
  if spaceOf a = 1 then (.c, vaultAddr (coreC s.cur.core a) off) else (.l, off)

/-! ### Stream elements (10 R278, R279) -/

/-- Elements of the pattern. -/
def Port.total (x : Port) : Nat := x.ext.foldl (· * ·) 1

/-- Address of the element at a linear index, as an integer (10 R278). -/
def elemOff : List Word → List Nat → Nat → Int
  | t :: ts, e :: es, n => (n % e : Nat) * t.toInt + elemOff ts es (n / e)
  | _, _, _ => 0

/-- L-space address of the element at a linear index. -/
def Port.addr (x : Port) (n : Nat) : Int := (x.base : Int) + elemOff x.str x.ext (n % x.total)

/-- The linear index of starting indices. -/
def linearIndex : List Nat → List Nat → Nat
  | e :: es, i :: is => i + e * linearIndex es is
  | _, _ => 0

/-- The indices of a linear index. -/
def indicesOf : List Nat → Nat → List Nat
  | [], _ => []
  | e :: es, n => n % e :: indicesOf es (n / e)

/-- A descriptor of 02 R55 as a port. -/
def portOf (b : List Byte) : Port :=
  let ext := (seqFrom 0 4).map fun k => fieldOf b (40 + 2 * k) 2 + 1
  let idx := (seqFrom 0 4).map fun k => fieldOf b (48 + 2 * k) 2
  let fl := fieldOf b 56 1
  { bound := true, write := nbit fl 1, lsz := nbits fl 2 2, base := fieldOf b 0 8,
    str := (seqFrom 0 4).map fun k => BitVec.ofNat 64 (fieldOf b (8 + 8 * k) 8),
    ext := ext, pos := linearIndex ext idx }

/-- Is a descriptor within its limits (17 R415 cause 0x2A)? -/
def portOk (b : List Byte) : Bool :=
  nbits (fieldOf b 56 1) 2 2 != 3 &&
  (seqFrom 0 4).all fun k => fieldOf b (48 + 2 * k) 2 ≤ fieldOf b (40 + 2 * k) 2

/-- The 64 bytes of a port in a member record (02 R55). -/
def Port.bytes (x : Port) : List Byte :=
  if !x.bound then toBytes 64 0 else
  toBytes 8 x.base ++ x.str.flatMap (fun t => toBytes 8 t.toNat) ++
  x.ext.flatMap (fun e => toBytes 2 (e - 1)) ++ (indicesOf x.ext x.pos).flatMap (toBytes 2) ++
  toBytes 1 (1 + (if x.write then 2 else 0) + 4 * x.lsz) ++ toBytes 7 0

/-- The fault of the next element to read. -/
def Port.nextBad (x : Port) : Option XFault := x.badAt (x.addr (x.pos + x.ahead.length))

/-- How many of `m` bytes an access that is atomic per byte only moves at once: any number (11 R302). -/
def State.someBytes (s : State) (m : Nat) : Nat := let k := Config.pick (s.tick + 16) % m; if k = 0 then m else k

/-- Read the next element of a read port into it (STREAM_READ_AHEAD), `k` more of its bytes: a mapped line is filled
first. -/
def State.readAhead (s : State) (p q k : Nat) : State × Option XFault :=
  let x := (s.core p).port q
  let a := x.addr (x.pos + x.ahead.length)
  let n : Nat := 2 ^ x.lsz
  match x.nextBad with
  | some f => (s, some f)
  | none =>
    let (s, f) := s.fillRange p a.toNat n
    match f with
    | some f => (s, some f)
    | none =>
      let (s, b, c, fs) := s.readStore (vaultAddr p (a.toNat + x.part.length)) (min k (n - x.part.length))
      let s := s.logFixed p 0 fs
      let got := x.part ++ b.zip c
      let s := s.updCore p fun k => k.setPort q
        (if got.length < n then { x with part := got }
         else { x with part := [], ahead := x.ahead ++ [(a.toNat, BitVec.ofNat 32 (leNat (got.map (·.1))), (got.map (·.2)).foldl max 0)] })
      (s, none)

/-- Have at least `n` elements in a read port. -/
def State.haveAhead : Nat → State → Nat → Nat → State × Option XFault
  | 0, s, _, _ => (s, none)
  | n + 1, s, p, q =>
    let (s, f) := State.haveAhead n s p q
    match f with
    | some f => (s, some f)
    | none => if n < ((s.core p).port q).ahead.length then (s, none) else s.readAhead p q 8

/-- Pop 16 elements of a read port: lane bits, least to most significant lane (06 R157 (a)). -/
def State.popLanes (s : State) (p q : Nat) : State × List Lane :=
  let (s, _) := State.haveAhead 16 s p q
  let x := (s.core p).port q
  let got := x.ahead.take 16
  (s.updCore p fun c => c.setPort q { x with ahead := x.ahead.drop 16, pos := (x.pos + 16) % x.total },
   got.map (fun e => e.2.1) ++ List.replicate (16 - got.length) 0)

/-- Push elements into a write port at a landing (06 R157 (b)). A port that was unbound or bound anew since
the LGOP's issue takes the elements as the port that stands there now (DESIGN CHOICE, log 116). -/
def Core.push (c : Core) (q : Nat) (l : List Lane) : Core :=
  let x := c.port q
  let add := (l.zip (seqFrom 0 l.length)).map fun (v, i) => ((x.addr (x.pos + i) % 2 ^ 64).toNat, v, 0)
  c.setPort q { x with ahead := x.ahead ++ add, pos := (x.pos + l.length) % x.total }

/-- Elements that pushes in flight will give to port `q`: their space is reserved at issue. -/
def Core.reserved (c : Core) (q : Nat) : Nat :=
  (c.pend.filter fun x => match x.dest with | .push r _ => r == q | _ => false).length * 16

/-- Stream operand check (cause 0x2C): bound, in the direction asked for, with the element size. -/
def State.portUse (s : State) (q : Nat) (write : Bool) (bytes : Nat) : Option Use :=
  let x := s.me.port q
  orUse (x.bound && x.write == write && 2 ^ x.lsz == bytes)
    (s.use { cause := 0x2C, wh := s.cur.hcw })

/-! ### The store gate buffer (02 R41, R42) -/

/-- The 64-byte blocks that cells touch, in order of first touch. -/
def blocksOf (cells : List (Nat × Byte)) : List Nat := distinct (cells.map (·.1 / 64))

/-- The vault line, by its core and its number, that a store of agent `p` in mode `sv` to address `a` of its form writes;
none where that is no vault. -/
def State.storeLine (s : State) (p : Nat) (sv : Bool) (f : Form) (a : Nat) : Option (Nat × Nat) :=
  match f with
  | .l => if isSlot p then none else some (p, a / 64)
  | .c => some (vaultCore a, vaultOff a / 64)
  | .g =>
    match s.peek { p := p, ctx := s.ctxOf p, sv := sv } a true true with
    | .ok x => if inVault x.pa then some (vaultCore x.pa, vaultOff x.pa / 64) else none
    | .error _ => none

/-- A store to a vault starts the fill of the unfilled mapped lines that it will write (09 R259 (b)). -/
def State.startStores (s : State) (f : Form) (blocks : List Nat) : State :=
  blocks.foldl (fun s b =>
    match s.storeLine s.cur.core s.cur.sv f (64 * b) with
    | some (q, l) => s.startFills q [l]
    | none => s) s

/-- Does the release of an entry wait for a fill that it started (09 R259 (b))? -/
def State.entryWaits (s : State) (p : Nat) (e : Gated) : Bool :=
  let a := match e.atom with | some (a, _) => a | none => (e.cells.head?.map (·.1)).getD 0
  e.entry && (match s.storeLine p e.sv e.form a with
    | some (q, l) => s.fillOf q l == 2
    | none => false)

/-- Gate a store: one entry for each 64-byte block. -/
def State.gate (s : State) (f : Form) (cells : List (Nat × Byte)) (rel : Bool) : State :=
  let cur := s.cur
  (s.startStores f (blocksOf cells)).upd fun c => { c with
    gate := c.gate ++ (blocksOf cells).map fun b =>
      { form := f, cells := cells.filter (fun x => x.1 / 64 == b), issue := c.vc, ord := cur.slot.toNat,
        rel := rel, sv := cur.sv, enc := cur.enc } }

/-- Gate an atomic that returns no value on the own vault, a release, an acquire, both or neither (10 R284). -/
def State.gateAtom (s : State) (addr : Nat) (op : AtomOp) (acq rel : Bool) : State :=
  let cur := s.cur
  (s.startStores .l [addr / 64]).upd fun c => { c with
    gate := c.gate ++ [{ form := .l, cells := [], atom := some (addr, op), issue := c.vc, ord := cur.slot.toNat,
                         rel := rel, acq := acq, sv := cur.sv, enc := cur.enc }] }

/-- The newest gate entry holds damaged bytes: their classes by address (16 R394 (b)). -/
def State.gateDamage (s : State) (bad : SMap Nat) : State :=
  s.upd fun c => match c.gate.getLast? with
    | some e => { c with gate := c.gate.dropLast ++ [{ e with bad := bad }] }
    | none => c

/-- The place of the acting operation in the access order of its core (11 R298): issue vc, then slot. -/
def State.posNow (s : State) : Nat := 16 * s.me.vc + s.cur.slot.toNat

/-- Bytes at an address as cells. -/
def cellsAt (a : Nat) (d : List Byte) : List (Nat × Byte) := (seqFrom a d.length).zip d

/-- Entries of the gate buffer in use: an audmark takes none. -/
def Core.gateUsed (c : Core) : Nat := (c.gate.filter (·.entry)).length

end Sys2Proof.Machine
end

