-- ==== Sys2Proof/Machine/Order.lean ====
section
/-! DEFINITION. The access order of a core, scopes, and what may perform before what (11 R298, R301 to R308, R312). -/

namespace Sys2Proof.Machine

open Sys2Proof

/-! ### Parties and scopes (11 R296, R304) -/

/-- A party that accesses memory: a core with its stream ports and the operations and routines that it issued; a die's
hub; another party of the module; a host agent; a Waiwell peer. -/
inductive Party where
  | core (q : Nat)
  | dieHub (d : Nat)
  | device
  | host
  | peer (n : Nat)
  deriving DecidableEq, Repr

/-- Does a partition key admit accesses between a context and peers: the key under which the context's accesses leave, or
a key slot under which a peer's accesses are admitted here (11 R304; 13 R352, R353)? -/
def State.keyed (s : State) (c : Nat) : Bool := SMap.get s.fab.ckeys 0 c != 0 || s.fab.keys.any (·.2.val)

/-- Does a scope code, as core `p` names it, hold a party (11 R304)? -/
def State.inScope (s : State) (p sc : Nat) (x : Party) : Bool :=
  match x with
  | .core q =>
    (match sc with
     | 0 => q == p
     | 1 => (s.membersOf p).contains q
     | 2 => q < slotBase && q / 4 == p / 4
     | 3 => q < slotBase && q / 36 == p / 36
     | _ => true)
  | .dieHub d => 4 ≤ sc || (sc == 3 && d == p / 36)
  | .device => 4 ≤ sc
  | .host => 5 ≤ sc
  | .peer n => 6 ≤ sc && (SMap.get s.fab.peers {} n).val && s.keyed (s.ctxOf p)

/-! ### Host routing (13 R349) -/

/-- Does an access of core `p` at place `pos` wait in its path, since it names host memory and a route has been written
that is not yet in force? Those issued before the write have been routed. -/
def State.routeWaits (s : State) (p pos : Nat) (locs : List Nat) : Bool :=
  s.ctl.hnext.isSome && SMap.get s.ctl.hcuts 0 p ≤ pos && locs.any inHost

/-! ### Accesses in flight -/

/-- Bytes of an atomic's cell. -/
def AtomOp.size (op : AtomOp) : Nat := if 8 ≤ op.sub then 16 else op.w / 8

/-- Does an entry perform at the releasing vc: the own vault, and the cluster's in LOCK and tandem mode? -/
def State.timed (s : State) (p : Nat) (e : Gated) : Bool :=
  match e.form with
  | .l => true
  | .c => s.modeOf p != 0
  | .g => false

/-- Place of a result in flight in the access order (11 R298). -/
def Pending.pos (x : Pending) : Nat := 16 * x.issue + x.ord

/-- Does a result in flight read memory by a slot load? -/
def Pending.loads (x : Pending) : Bool := match x.src with | .load .. | .wcread .. => true | _ => false

/-- Is a result in flight a write for 11 R303 and R307: an atomic, or an MMIO store? -/
def Pending.writes (x : Pending) : Bool := match x.src with | .atomic .. | .mmio .. => true | _ => false

/-- The address form of an access in flight. -/
def Pending.form (x : Pending) : Form :=
  match x.src with | .load f .. => f | .atomic f .. => f | .mmio .. => .g | _ => .l

/-- Does a result in flight wait for its path (01 R19)? -/
def Pending.waits (x : Pending) : Bool := x.late && !x.arrived

/-- Is a result in flight an access to memory that has not performed? -/
def Pending.undone (x : Pending) : Bool := !x.arrived && (x.loads || x.writes)

/-- Is it one that waits for its path? A query of the tile is none. -/
def Pending.going (x : Pending) : Bool := x.late && x.undone

/-- Store addresses that an access in flight of agent `p` names; none where they do not translate. -/
def State.rangeOf (s : State) (p : Nat) (x : Pending) : List Nat :=
  let va := fun (a n : Nat) =>
    match (s.translate { p := p, ctx := s.ctxOf p, sv := (s.core p).sv } a false true).2 with
    | .ok t => seqFrom t.pa n
    | .error _ => []
  match x.src with
  | .load .g ps _ _ => ps.flatMap fun x => va x.addr x.width
  | .load .c ps _ _ => ps.flatMap fun x => seqFrom x.addr x.width
  | .load .l ps _ _ => ps.flatMap fun x => seqFrom (localAddr p x.addr) x.width
  | .wcread a _ => seqFrom (localAddr p a) 16
  | .atomic .g a op _ => va a op.size
  | .atomic .c a op _ => seqFrom a op.size
  | .atomic .l a op _ => seqFrom (localAddr p a) op.size
  | .mmio a d => va a d.length
  | _ => []

/-- Store address of a byte that an entry of agent `p` names in its form. -/
def cellStore (p : Nat) (f : Form) (a : Nat) : Nat := match f with | .l => localAddr p a | _ => a

/-- Store addresses of a released store of agent `p`. -/
def Gated.locs (p : Nat) (e : Gated) : List Nat :=
  match e.atom with
  | some (a, op) => seqFrom (localAddr p a) op.size
  | none => e.cells.map fun x => cellStore p e.form x.1

/-- Do two lists of addresses meet? -/
def meet (a b : List Nat) : Bool := a.any b.contains

/-! ### Fences (11 R307) -/

/-- The widest scope at which the fences of a core order an access at place `y` before one at place `x`; none where
they do not. -/
def Core.fenced (c : Core) (y x : Nat) (yReads xWrites : Bool) : Option Nat :=
  c.fences.foldl (fun r f =>
    if y < f.pos ∧ f.pos < x ∧ (f.kind = 0 ∨ (f.kind = 1 ∧ yReads) ∨ (f.kind = 2 ∧ xWrites)) then
      some (max f.scope (r.getD 0)) else r) none

/-- The later of two accesses of a core, as the order rules see it: its place, whether it writes, the scope of its
release annotation, its form (none for a tlsig or a send), its addresses, and the vc at which it is due on the core's
own time (none where it waits without holding). -/
structure Later where
  pos   : Nat
  writes : Bool
  rel   : Option Nat := none
  form  : Option Form := none
  locs  : List Nat := []
  due   : Option Nat := none

/-- Scope of a release annotation (11 R305): CLUSTER in L- and C-space, that of the memory, at least DEVICE, in
G-space. -/
def relScope (rel : Bool) (f : Form) : Option Nat := if rel then some (if f == .g then 6 else 2) else none

/-- An access in flight as the later of two. -/
def State.later (s : State) (p : Nat) (x : Pending) : Later :=
  { pos := x.pos, writes := x.writes, rel := relScope x.rel x.form, form := some x.form, locs := s.rangeOf p x,
    due := some (match x.src with | .mmio .. => x.perform | _ => if x.late then x.land else x.perform) }

/-- A released store as the later of two. -/
def Gated.later (p : Nat) (e : Gated) : Later :=
  { pos := e.pos, writes := true, rel := relScope e.rel e.form, form := some e.form, locs := e.locs p }

/-- A tlsig, due at a PVC or at no vc of its own, or a send, at place `pos` as the later of two. -/
def Later.signal (pos : Nat) (due : Option Nat) : Later := { pos := pos, writes := true, due := due }

/-- Must a later access of core `p` wait for access `y` in flight? An acquire comes before everything after it, and
everything before a release or a fence; a write, of any form, comes after the reads before it (11 R303), and an access
after an earlier one of its form to its locations (R301). A release, a tlsig and a send come after the L-space accesses
before them (R308). Fences and annotations leave later L-space accesses their vc (R308), and none waits for one that
could only perform after its own due vc (log entry 100). -/
def State.pendBlocks (s : State) (p : Nat) (z : Later) (y : Pending) : Bool :=
  y.undone && y.pos < z.pos && (y.late || (match z.due with | some d => decide (y.perform < d) | none => true)) &&
  (z.rel.isSome ||
   (z.form.isNone && y.form == .l) ||
   (z.form.isSome && z.writes && y.loads) ||
   (z.form != some .l && (y.acq || ((s.core p).fenced y.pos z.pos true z.writes).isSome)) ||
   (z.form == some y.form && meet z.locs (s.rangeOf p y)))

/-- The scope at which a later access of core `p` comes after its released store `e`, which has not performed; none
where it need not: coherence and releases within a form, release annotations, an atomic's acquire annotation, fences (11
R301, R305, R307, R312). -/
def State.owed (s : State) (p : Nat) (z : Later) (e : Gated) : Option Nat :=
  if z.form = some e.form ∧ meet z.locs (e.locs p) then some 6
  else match z.rel with
    | some sc => some sc
    | none => if z.form = some .l then none else if e.acq then some 6 else (s.core p).fenced e.pos z.pos e.atom.isSome z.writes

/-- May the i-th released store of core `p` perform with nothing overtaken? -/
def State.mayPerformNow (s : State) (p i : Nat) : Bool :=
  let c := s.core p
  match c.released[i]? with
  | none => false
  | some e =>
    let z := e.later p
    (c.released.take i).all (fun d => (s.owed p z d).isNone) && !c.pend.any (s.pendBlocks p z)

/-- Does a later access that `sc` orders after the j-th released store go before it? Outside the scope of a fence
below DIE the order holds or does not (11 R307); it is given up only for a store to HBM, host memory or a peer that could
perform at once, and that store performs before any party inside the scope next acts (`State.flush`; log entry 101). -/
def State.overtakes (s : State) (p j sc : Nat) : Bool :=
  decide (sc < 3) && Config.choice (s.tick + 5) && s.mayPerformNow p j &&
    !(((s.core p).released[j]?).map (fun e => (e.locs p).any inVault)).getD true

/-- May a later access go before the first `n` released stores that stand before it? -/
def State.clearOf (s : State) (p n : Nat) (z : Later) : Bool :=
  ((seqFrom 0 n).zip (s.core p).released).all fun (j, e) =>
    match s.owed p z e with | none => true | some sc => s.overtakes p j sc

/-- How many released stores stand before a place. -/
def Core.releasedBefore (c : Core) (pos : Nat) : Nat := (c.released.takeWhile fun e => e.pos < pos).length

/-- Has core `k` let party `x`, inside the scope of a narrow fence, be one that must not see released store `e` passed
(11 R306, R307)? `own`: `x` is an engine, a port or a routine of the core, which its own slot accesses are not. -/
def State.owesParty (s : State) (k : Nat) (x : Party) (own : Bool) (e : Gated) : Bool :=
  match e.passed with
  | none => false
  | some sc => (own || x != .core k) && s.inScope k sc x

/-- Mark the released stores of core `p` before a place that an access now goes before. -/
def State.overtake (s : State) (p n : Nat) (z : Later) : State :=
  if (s.core p).fences.isEmpty && z.rel.isNone then s else
  let f := fun (k : Nat) (e : Gated) =>
    if k < n then
      match s.owed p z e with
      | some sc => { e with passed := some (max sc (e.passed.getD 0)) }
      | none => e
    else e
  s.updCore p fun c => { c with released := ((seqFrom 0 c.released.length).zip c.released).map fun (k, e) => f k e }

/-- May an access in flight of core `p` perform now, as the order rules go? -/
def State.mayGo (s : State) (p : Nat) (x : Pending) : Bool :=
  let c := s.core p
  let z := s.later p x
  !c.pend.any (s.pendBlocks p z) && s.clearOf p (c.releasedBefore z.pos) z && !s.routeWaits p z.pos z.locs

/-- Is a result on a late path that no access is: a race result on its way from the M-die (01 R19)? -/
def Pending.returning (x : Pending) : Bool :=
  x.waits && !x.undone && (match x.src with | .query .. => false | _ => true)

/-- May the i-th result in flight of agent `p` perform its access now (11 R301, R303, R307)? An irrevocable access
performs once its bundle completes (02 R45); results of the M-die return in issue order (08 R211). -/
def State.mayArrive (s : State) (p i : Nat) : Bool :=
  let c := s.core p
  match c.pend[i]? with
  | none => false
  | some x => (x.returning && !(c.pend.any fun y => y.returning && y.pos < x.pos)) || (x.going && (x.irrev.isNone || x.issue != c.vc) && s.mayGo p x)

/-- May the i-th released store of agent `p` perform (11 R301, R303, R307, R312)? -/
def State.mayPerform (s : State) (p i : Nat) : Bool :=
  let c := s.core p
  match c.released[i]? with
  | none => false
  | some e =>
    let z := e.later p
    s.clearOf p i z && !c.pend.any (s.pendBlocks p z) && !s.routeWaits p z.pos z.locs

/-- May a tlsig or send of core `p` at place `pos` take effect (11 R307, R308)? -/
def State.maySignal (s : State) (p pos : Nat) (due : Option Nat) : Bool :=
  let c := s.core p
  let z := Later.signal pos due
  !c.pend.any (s.pendBlocks p z) && s.clearOf p (c.releasedBefore pos) z

/-- Has an irrevocable operation of the bundles that issued beside access or message `pos` of agent `p` not performed, or
faulted: those bundles have not completed (02 R45; 17 R411 (b))? -/
def State.bundleOpen (s : State) (p pos : Nat) : Bool :=
  let n := pos / 16
  (s.lock p).any fun m => let c := s.core m
    (c.ckVc == n && c.incomplete) || c.pend.any fun x => x.irrev.isSome && x.issue == n && (!x.arrived || x.dmg.cls == 5)

/-- Must the acting agent's released entry `e`, not yet listed, wait at its release for what stands before it? -/
def State.relWaits (s : State) (p : Nat) (e : Gated) : Bool :=
  let c := s.core p
  let z := e.later p
  c.pend.any (s.pendBlocks p z) || !s.clearOf p c.released.length z

/-- Is an access of core `p` that has no path of its own to wait in, an L-space access or a signal due at a PVC, kept by an
access on a late path: directly, or by one that keeps a released store which comes before it? Other such stores perform
just before it (`State.force`). -/
def State.pathKeeps (s : State) (p : Nat) (z : Later) : Bool :=
  let c := s.core p
  c.pend.any (fun y => y.going && s.pendBlocks p z y) ||
  (c.released.take (c.releasedBefore z.pos)).any fun e => (s.owed p z e).isSome &&
    (c.pend.any (fun y => y.going && s.pendBlocks p (e.later p) y) || s.routeWaits p e.pos (e.locs p))

/-- Do the accesses of core `p` that perform at vc `m` on the core's own time wait (11 R307; 01 R19)? A C-space access
waits in the cluster network for what an order rule puts before it; an L-space access and a signal due at a PVC wait for
nothing but what is on a late path itself (log entry 100). -/
def State.timedHold (s : State) (p m : Nat) : Bool :=
  let c := s.core p
  (c.pend.any fun x => x.perform == m && !x.late && x.undone &&
    (if x.form == .l then s.pathKeeps p (s.later p x) else !s.mayGo p x)) ||
  (s.sigs.any fun g => g.sender == p && g.due == some m && g.k != 8 && s.pathKeeps p (Later.signal g.pos g.due))

end Sys2Proof.Machine
end

