-- ==== Sys2Proof/Machine/Access.lean ====
section
/-! DEFINITION. Slot accesses as they perform: what a load sees, atomics, the release of gated stores
(02 R42; 09 R245, R247; 10 R283 to R285; 11 R299 to R313; 18 R436). -/

namespace Sys2Proof.Machine

open Sys2Proof

/-- In whose name agent `p` accesses memory in a slot, in mode `sv`. -/
def State.slotWho (s : State) (p : Nat) (sv : Bool) : Who := { p := p, ctx := s.ctxOf p, sv := sv }

/-! ### Atomics (10 R283, R285) -/

/-- The new value of an integer atomic of `w` bits from the old one. -/
def atomNew (op : AtomOp) (old : Nat) : Nat :=
  let w := op.w
  let x := op.x.toNat % 2 ^ w
  let c := op.c.toNat % 2 ^ w
  let le := if op.u then decide (old ≤ x) else decide (signedOf w old ≤ signedOf w x)
  match op.sub with
  | 0 => (old + x) % 2 ^ w
  | 1 => if le then old else x
  | 2 => if le then x else old
  | 3 => old &&& x
  | 4 => old ||| x
  | 5 => old ^^^ x
  | 6 => x
  | _ => if old = c then x else old

/-- The cell's new contents from its old. -/
def AtomOp.apply (op : AtomOp) (old : Nat) : Nat :=
  match op.sub with
  | 8 => wideAdd old (fp32.read false (op.x.toNat % 2 ^ 32))
  | 10 => wideAdd old (bf16.read false (op.x.toNat % 2 ^ 16))
  | 9 => cellInit (op.x.setWidth 8)
  | _ => atomNew op old

/-- What an atomic returns: the old value, a 32-bit one sign-extended. -/
def AtomOp.result (op : AtomOp) (old : Nat) : Word :=
  if op.w = 32 then (BitVec.ofNat 32 old).signExtend 64 else BitVec.ofNat 64 old

/-- Perform an atomic at a store address: its read and its write are one access. -/
def State.atomStore (s : State) (a : Nat) (op : AtomOp) (lc : Option Nat) : State × Nat × List Find :=
  let (s, b, _, fs) := s.readStore a op.size
  let old := leNat b
  let (s, gs) := s.writeStore a (toBytes op.size (op.apply old)) [] lc
  (s.logAll s.baseRec gs, old, fs)

/-- Perform an atomic on the vault of core `q`, or on a hub memory. -/
def State.atomLocal (s : State) (q off : Nat) (op : AtomOp) : State × Nat × List Find :=
  let (s, r) := s.atomStore (localAddr q off) op none
  (if isSlot q then s else
    (linesIn off op.size).foldl (fun s l => if s.fillOf q l = 1 then s.setFill q l 3 else s) s, r)

/-! ### G-space accesses that reach a vault with mapped lines (09 R259) -/

/-- Fill the mapped lines of vaults that a G-space range names, as far as its pages translate; nothing is noted of the
pages themselves, whose reads may still be predicted (09 R255). -/
def State.touchG (s : State) (w : Who) (va n : Nat) (wr : Bool) : State × Option XFault :=
  (pagesOf (n / 4096 + 2) va n).foldl (fun (r : State × Option XFault) l =>
    match r.2 with
    | some _ => r
    | none =>
      match r.1.peek w l.1 wr false with
      | .error _ => r
      | .ok x => if inVault x.pa then r.1.fillRange (vaultCore x.pa) (vaultOff x.pa) l.2 else r) (s, none)

/-- Read a G-space range, filling mapped lines first. -/
def State.loadG (s : State) (w : Who) (va n : Nat) (pred : Bool) : State × Except XFault Got :=
  let (s, f) := s.touchG w va n false
  match f with | some f => (s, .error f) | none => s.readG w va n pred

/-- Write a G-space range, filling mapped lines first. -/
def State.putG (s : State) (w : Who) (va : Nat) (d : List Byte) (cls : List Nat) : State × Except XFault Unit :=
  let (s, f) := s.touchG w va d.length true
  match f with | some f => (s, .error f) | none => s.writeG w va d cls

/-! ### The release of gated stores (02 R42) -/

/-- The core and the offset of a store address in a vault. -/
def vaultPlace (a : Nat) : Nat × Nat := (vaultCore a, vaultOff a)

/-- Group a list of bytes into runs of rising neighbouring addresses: each is one write. -/
def runsOf : List (Nat × Byte) → List (Nat × List Byte)
  | [] => []
  | (a, b) :: r =>
    match runsOf r with
    | (a', bs) :: rs => if a' = a + 1 then (a, b :: bs) :: rs else (a, [b]) :: (a', bs) :: rs
    | [] => [(a, [b])]

/-- Classes of the bytes of a run, empty where all are whole. -/
def classesOf (bad : SMap Nat) (a n : Nat) : List Nat := if bad.isEmpty then [] else (seqFrom a n).map (SMap.get bad 0)

/-- Write the bytes of a store to a vault or hub memory, with the classes of damaged ones, and account for them. -/
def State.storeCells (s : State) (p q : Nat) (cells : List (Nat × Byte)) (bad : SMap Nat) : State :=
  (runsOf cells).foldl (fun s x =>
    (s.writeLocal q x.1 x.2 (classesOf bad x.1 x.2.length)).sign p (s.keyOf p q x.1) x.2) s

/-- Write the bytes of a cluster-space store, each in the vault that its address names. -/
def State.storeCluster (s : State) (p : Nat) (cells : List (Nat × Byte)) (bad : SMap Nat) : State :=
  (distinct (cells.map fun x => (vaultPlace x.1).1)).foldl (fun s q =>
    s.storeCells p q ((cells.filter fun x => (vaultPlace x.1).1 = q).map fun x => ((vaultPlace x.1).2, x.2)) bad) s

/-- An L-space entry performs: a store, an atomic, or the word of an audmark, which goes into the signature alone. -/
def State.performLocal (s : State) (p : Nat) (e : Gated) : State :=
  match e.atom with
  | some (a, op) =>
    let (s, old, fs) := s.atomLocal p a op
    (s.logAll (s.recFor p {}) fs).sign p (s.keyOf p p a) (toBytes op.size (op.apply old))
  | none =>
    if e.entry then s.storeCells p p e.cells e.bad
    else s.sign p 0xFFFFFFFFFFFFFFF8 (e.cells.map (·.2))

/-- Fill the mapped lines that an entry will write (09 R259); a failing fill faults (18 R436). -/
def State.fillFor (s : State) (q : Nat) (offs : List Nat) : State × Option XFault :=
  if isSlot q then (s, none) else
  (distinct (offs.map (· / 64))).foldl (fun (r : State × Option XFault) l =>
    match r.2 with
    | some _ => r
    | none => if r.1.unfilled q l then r.1.fillLine q l else r) (s, none)

/-- Check one entry before its release: its translation, its mapped line, and an MMIO page that a gst
outside a checkpoint bundle proves to name (17 R415 cause 0x22). -/
def State.checkEntry (s : State) (p : Nat) (e : Gated) : State × Option Use :=
  let w : Who := { p := p, ctx := s.ctxOf p, sv := e.sv }
  let at_ := fun (u : Use) => { u with slot := e.ord, enc := e.enc.toNat }
  let fill := fun (q : Nat) (offs : List Nat) =>
    let (s, f) := s.fillFor q offs
    (s, f.map fun f => at_ (f.use w true))
  let first := match e.atom with | some (a, _) => a | none => (e.cells.head?.map (·.1)).getD 0
  match e.form with
  | .l => if e.entry then fill p [first] else (s, none)
  | .c => fill (vaultPlace first).1 [(vaultPlace first).2]
  | .g =>
    let (s, r) := s.translate w first true true
    match r with
    | .error f => (s, some (at_ (f.use w true)))
    | .ok x =>
      if x.mmio then (s, some (at_ { cause := 0x22 }))
      else if inVault x.pa && regionTable ≤ vaultOff x.pa then (s, some (at_ { cause := 0x26, pa := first }))
      else match s.peerFault w.ctx first x.pa with
        | some f => (s, some (at_ (f.use w true)))
        | none => if inVault x.pa then fill (vaultCore x.pa) [vaultOff x.pa] else (s, none)

/-- Check every entry of an agent's gate buffer. -/
def State.checkGate (s : State) (p : Nat) : State × Option Use :=
  (s.core p).gate.foldl (fun (r : State × Option Use) e =>
    match r.2 with | some _ => r | none => r.1.checkEntry p e) (s, none)

/-- Must a released store wait after its release: in the relaxed order always; one that performs at its release vc
only while an access stands before it that a fence or its own annotation orders (11 R307, R312)? An L-space store
or atomic without a release annotation waits for nothing but an earlier one to its bytes that waits itself (02 R42; 11
R308). -/
def State.waitsRelease (s : State) (p : Nat) (e : Gated) : Bool :=
  !s.timed p e ||
    (if e.form == .l && !e.rel then (s.core p).released.any fun d => d.form == .l && meet (e.locs p) (d.locs p)
     else s.relWaits p e)

/-- A released entry that performs at its release: it goes before the released stores that it does not wait for. -/
def State.passAll (s : State) (p : Nat) (e : Gated) : State := s.overtake p (s.core p).released.length (e.later p)

/-- Release one entry at its place in the access order: it performs now, or joins the released stores that perform
later. -/
def State.releaseOne (s : State) (p : Nat) (e : Gated) : State :=
  let onlyPrimary := s.secondary p
  let e := { e with pos := 16 * (s.core p).vc }
  let join := fun (s : State) (e : Gated) => s.updCore p fun c => { c with released := c.released ++ [e] }
  match e.form with
  | .l => if s.waitsRelease p e then join s e else (s.passAll p e).performLocal p e
  | .c =>
    if onlyPrimary then s
    else if s.waitsRelease p e then join s e else (s.passAll p e).storeCluster p e.cells e.bad
  | .g =>
    if onlyPrimary then s else
    let va := (e.cells.head?.map (·.1)).getD 0
    let (s, r) := s.translate { p := p, ctx := s.ctxOf p, sv := e.sv } va true false
    match r with
    | .error _ => s
    | .ok x =>
      let s := (runsOf e.cells).foldl (fun s y => s.sign p (BitVec.ofNat 64 y.1) y.2) s
      let cells := e.cells.map fun y => (x.pa / 64 * 64 + y.1 % 64, y.2)
      join s { e with cells := cells, lc := x.lc }

/-- Release those of an agent's gated entries that `now` names, in issue order. -/
def State.releaseSome (s : State) (p : Nat) (now : Gated → Bool) : State :=
  let g := (s.core p).gate
  let s := s.updCore p fun c => { c with gate := g.filter fun e => !now e }
  (g.filter now).foldl (fun s e => s.releaseOne p e) s

/-- Release an agent's gated stores in issue order (GATED_STORE_RELEASE). -/
def State.release (s : State) (p : Nat) : State := s.releaseSome p fun _ => true

/-- A released store performs; one that reaches a vault fills its mapped line first (09 R259). -/
def State.performStore (s : State) (p : Nat) (e : Gated) : State :=
  match e.form with
  | .l => s.performLocal p e
  | .c => s.storeCluster p e.cells e.bad
  | .g =>
    let a := (e.cells.head?.map (·.1)).getD 0
    if inPeer a && !s.peerUp a then s else
    let s := if inVault a then (s.fillFor (vaultCore a) [vaultOff a]).1 else s
    (runsOf e.cells).foldl (fun s x => s.writePa x.1 x.2 [] (some e.lc)) s

/-- Released stores of agent `p` that `now` names, by number and entry, perform, in their order. -/
def State.performReleased (s : State) (p : Nat) (now : Nat → Gated → Bool) : State :=
  let l := (seqFrom 0 (s.core p).released.length).zip (s.core p).released
  let s := s.updCore p fun c => { c with released := (l.filter fun x => !now x.1 x.2).map (·.2) }
  (l.filter fun x => now x.1 x.2).foldl (fun s x => s.performStore p x.2) s

/-- Just before an access of agent `p` that has no path to wait in, the first `n` released stores that come before it
perform, with whatever was released before them (11 R301, R307). -/
def State.force (s : State) (p n : Nat) (z : Later) : State :=
  let l := ((s.core p).released.take n).map fun e => (s.owed p z e).isSome
  let k := (l.reverse.dropWhile (!·)).length
  if k = 0 then s else s.performReleased p fun i _ => decide (i < k)

/-- Released stores that a later access has passed across a narrow fence perform before party `x` inside its scope acts
(11 R306, R307; log entry 101). -/
def State.flush (s : State) (x : Party) (own : Bool) : State :=
  s.cores.foldl (fun s k =>
    if k.2.released.any (s.owesParty k.1 x own) then s.performReleased k.1 fun _ e => s.owesParty k.1 x own e else s) s

/-! ### What a load sees (02 R42, 09 R245) -/

/-- Apply a vault entry to the stored bytes alone, listing the bytes it changes: how a read of the same
PVC sees a release. -/
def State.rawApply (r : State × List Nat) (p : Nat) (e : Gated) : State × List Nat :=
  match e.atom with
  | some (a, op) =>
    let a := localAddr p a
    (r.1.setBytes a (toBytes op.size (op.apply (leNat (r.1.bytes a op.size)))), r.2 ++ seqFrom a op.size)
  | none =>
    if e.entry then
      e.cells.foldl (fun (r : State × List Nat) x =>
        (r.1.setByte (cellStore p e.form x.1) x.2, r.2 ++ [cellStore p e.form x.1])) r
    else r

/-- A gated G-space entry of agent `p` with its bytes at their physical addresses, as its page maps them now; other
entries as they are. -/
def State.onPages (s : State) (p : Nat) (e : Gated) : Gated :=
  match e.form with
  | .g =>
    let va := (e.cells.head?.map (·.1)).getD 0
    match (s.translate { p := p, ctx := s.ctxOf p, sv := e.sv } va true true).2 with
    | .ok x => { e with cells := e.cells.map fun y => (x.pa / 64 * 64 + y.1 % 64, y.2) }
    | .error _ => { e with cells := [] }
  | _ => e

/-- The agent's own stores that have not performed and that a load issued at vc `n` sees, whatever their form: those
issued before it, released or gated, in issue order, each byte at its store address (02 R42; 11 R301; log entry 11).
Gated atomics are not seen (10 R284). -/
def State.ownGated (s : State) (p n : Nat) : List Gated :=
  let seen := fun (e : Gated) => e.issue < n && e.atom == none && e.entry
  (s.core p).released.filter seen ++ ((s.core p).gate.filter seen).map (s.onPages p)

/-- The bytes of vaults as agent `p` sees them in a load issued at vc `n`: releases that the members `ck` make in this
PVC, in ascending member index, and the agent's own gated stores; of its own, only those issued before the load (log
entries 10, 11). -/
def State.viewOf (s : State) (p : Nat) (n : Nat) (ck : List Nat) : State × List Nat :=
  let own := (s.core p).gate.filter fun e => e.issue < n
  let r := ck.foldl (fun (r : State × List Nat) m =>
    let es := if m = p then own else (s.core m).gate
    (es.filter (s.timed m)).foldl (fun r e => State.rawApply r m e) r) (s, [])
  (((s.ownGated p n).filter fun e => !(ck.contains p && s.timed p e)).foldl (fun r e => State.rawApply r p e) r)

/-- Merge findings of one line. -/
def mergeFinds (l : List Find) : List Find :=
  l.foldl (fun r f =>
    if r.any (fun g => g.pa == f.pa) then
      r.map fun g => if g.pa = f.pa then { g with cls := (g.cls.zip f.cls).map fun (a, b) => max a b,
                                                   hit := (g.hit.zip f.hit).map fun (a, b) => max a b,
                                                   fixed := g.fixed || f.fixed,
                                                   poison := if f.worst = g.worst then g.poison || f.poison
                                                     else if g.worst < f.worst then f.poison else g.poison } else g
    else r ++ [f]) []

/-- The address that store address `a` of a unit had when its members were `ms`: the vaults of members move with a
resume; none while the unit is saved. -/
def UnitRec.placeThen (u : UnitRec) (ms : List Nat) (a : Nat) : Option Nat :=
  if inVault a && u.members.contains (vaultCore a) then
    (ms[indexIn u.members (vaultCore a)]?).map fun q => vaultAddr q (vaultOff a)
  else some a

/-- What some steps of a unit's history left in a byte, newest first. -/
def UnitRec.noted (u : UnitRec) (hs : List (List Nat × List Host.Cell)) (a : Nat) : List Byte :=
  hs.flatMap fun h => match u.placeThen h.1 a with
    | some k => (h.2.filter fun c => c.1 == k).map (·.2)
    | none => []

/-- What a byte held at the unit's start. -/
def UnitRec.initial (u : UnitRec) (a : Nat) : Byte := SMap.get u.mem0 0 ((u.placeThen u.home a).getD a)

/-- What a byte has held since the first `n` steps of a unit's history, newest first. -/
def UnitRec.since_ (u : UnitRec) (n a : Nat) : List Byte :=
  let k := u.hist.length - n
  u.noted (u.hist.take k) a ++ [(u.noted (u.hist.drop k) a).headD (u.initial a)]

/-- A byte of an invariant load (11 R313), of which `stored` stands in the store and an ordinary load would see `b`: once
a write to it has performed, Quiran returns what the byte held at unit start or what any write since has left there (log
entry 23). -/
def State.invByte (s : State) (p a : Nat) (stored b : Byte) : Byte :=
  match s.unitOf p with
  | none => b
  | some u =>
    let later := u.noted u.hist a
    if later.isEmpty then b else
    let all := stored :: u.initial a :: later
    (all[Config.pick (s.tick + a + 2) % all.length]?).getD b

/-- What an access brought: values by key, findings, or the fault it takes. -/
structure Brought where
  vals  : List (Nat × Nat) := []
  finds : List Find := []
  fault : Option Use := none
  deriving DecidableEq, Repr

/-- Read the pieces of a load by agent `p` from vaults (forms L and C). -/
def State.loadVault (s : State) (p : Nat) (f : Form) (n : Nat) (ck : List Nat) (inv : Bool)
    (ps : List Piece) : State × Brought :=
  let (v, touched) := s.viewOf p n ck
  ps.foldl (fun (r : State × Brought) x =>
    match r.2.fault with
    | some _ => r
    | none =>
      let a := cellStore p f x.addr
      let (q, off) := if isSlot p then (p, x.addr) else vaultPlace a
      let (s, e) := r.1.fillFor q ((seqFrom off x.width).filter (· % 64 == 0) ++ [off])
      match e with
      | some e => (s, { r.2 with fault := some (e.use { p := p, ctx := s.ctxOf p, sv := (s.core p).sv } false) })
      | none =>
        let (s, b, _, fs) := s.readStore a x.width
        let b := (b.zip (seqFrom a x.width)).map fun (y, k) =>
          let seen := if touched.contains k then v.byte k else y
          if inv then s.invByte p k y seen else seen
        let s := if (s.membersOf p).contains q && !inv then s else s.auditIn p b
        (s, { r.2 with vals := r.2.vals ++ [(x.key, leNat b)], finds := r.2.finds ++ fs })) (s, {})

/-- Is the address one of the module's MMIO registers read by the Registers module? -/
def mmioOf (x : Xlat) : Bool := x.mmio

/-- Overlay the agent's own gated stores issued before vc `n` on bytes read from physical address `pa` (02 R42). -/
def State.overlay (s : State) (p n pa : Nat) (b : List Byte) : List Byte :=
  let es := s.ownGated p n
  (b.zip (seqFrom pa b.length)).map fun (y, k) =>
    es.foldl (fun y e => match e.cells.find? (fun x => cellStore p e.form x.1 == k) with | some x => x.2 | none => y) y

/-! ### Values in flight -/

/-- The value of brought pieces as a result. -/
def Brought.src (b : Brought) (dest : Dest) (sx : Bool) (width : Nat) : Src :=
  match dest with
  | .lanes => .lanes (b.vals.map fun x => (x.1, BitVec.ofNat 32 x.2))
  | _ =>
    let v := (b.vals.head?.map (·.2)).getD 0
    .word (if sx then BitVec.ofInt 64 (signedOf (8 * width) v) else BitVec.ofNat 64 v)

/-- The damage of bytes that a load takes from the core's own gated stores (16 R394). -/
def State.gatedDamage (s : State) (p n : Nat) (locs : List Nat) (d : Damage) : Damage :=
  let es := ((s.core p).released ++ (s.core p).gate).filter fun e => e.issue < n && !e.bad.isEmpty
  let worst := es.foldl (fun m e => e.bad.foldl (fun m x => if locs.contains (cellStore p e.form x.1) then max m x.2 else m) m) 0
  if worst ≤ d.cls then d else { cls := worst, pa := BitVec.ofNat 64 (recordPa (locs.headD 0 / 64 * 64)), kind := 3 }

/-- Note the value of an irrevocable operation in the record (17 R419). -/
def Core.recordVal (c : Core) (code : Nat) (v : Word) : Core :=
  { c with irrevNew := { c.irrevNew with vals := SMap.put c.irrevNew.vals 0 code v },
           irrev := { c.irrev with vals := SMap.put c.irrev.vals 0 code v } }

/-- An irrevocable access of agent `p` that faults has not performed: its bundle counts as not completed, so that its
count is taken back, and a re-issue performs it (17 R411 (b), R419). -/
def State.forget (s : State) (p : Nat) (x : Pending) : State :=
  let c := s.core p
  match x.irrev with
  | none => s
  | some k =>
    if x.issue ≠ c.ckVc then s else
    let drop := fun (r : Irrev) => { r with done := r.done.filter (· != k), whole := false }
    let counted := c.ckDone && c.irrev.whole
    let s := s.updCore p fun c => { c with irrev := drop c.irrev, irrevNew := drop c.irrevNew }
    match s.unitOf p with
    | none => s
    | some u => if counted && u.members.head? == some p then s.setUnit { u with ucnt := u.ucnt - 1 } else s

/-- The result of an access that has performed. -/
def Pending.done (x : Pending) (v : Src) (d : Damage) : Pending :=
  { x with src := v, arrived := true, dmg := d }

/-- An atomic of agent `p` has performed: its old value enters the log and, where it is returned, the irrevocable
record; damage of a value that lands in no register is logged by the read (16 R394, R407; 17 R419). -/
def State.atomDone (s : State) (p : Nat) (x : Pending) (op : AtomOp) (old : Nat) (d : Damage) (input : List Byte)
    (fs : List Find) : State × Pending :=
  let v := op.result old
  let s := s.auditIn p input
  let s := match x.irrev, x.src with | some k, .atomic _ _ _ true => s.updCore p (·.recordVal k v) | _, _ => s
  if x.dest == .none then (s.logUnused p d.va.toNat fs, x.done (.word v) {}) else (s, x.done (.word v) d)

/-- A vault atomic or wide-cell read in flight performs (11 R299). -/
def State.performVault (s : State) (p : Nat) (x : Pending) (ck : List Nat) : State × Pending :=
  let p' := match x.src with | .load .c _ _ _ => s.primary p | _ => p
  match x.src with
  | .load .g _ _ _ => (s, x)
  | .load f ps sx inv =>
    let (s, b) := s.loadVault p' f x.issue ck inv ps
    let fs := mergeFinds b.finds
    let s := s.logFixed p 0 fs
    let w := (ps.head?.map (·.width)).getD 1
    let locs := ps.flatMap fun y => seqFrom (cellStore p' f y.addr) y.width
    (s, x.done (b.src x.dest sx w) (match b.fault with
      | some u => u.damage
      | none => s.gatedDamage p' x.issue locs (s.vaultDamage (f == .c) fs)))
  | .wcread a bf =>
    let (s, b) := s.loadVault p .l x.issue (ck.filter (· != p)) false [{ key := 0, addr := a, width := 16 }]
    let s := s.logFixed p 0 b.finds
    let v := cellValue ((b.vals.head?.map (·.2)).getD 0)
    let r := if bf then (bf16.write {} v 0).1 else (fp32.write {} v 0).1
    (s, x.done (.word (BitVec.ofNat 64 r)) (match b.fault with | some u => u.damage | none => s.vaultDamage false b.finds))
  | .atomic .g _ _ _ => (s, x)
  | .atomic f a op _ =>
    let (q, off) := match f with | .l => (p, a) | _ => vaultPlace a
    let (s, e) := s.fillFor q [off]
    match e with
    | some e => (s.forget p x, x.done (.word 0) (e.use { p := p, ctx := s.ctxOf p, sv := (s.core p).sv } true).damage)
    | none =>
      let (s, old, fs) := s.atomLocal q off op
      let s := (s.logFixed p 0 fs).sign p (s.keyOf p q off) (toBytes op.size (op.apply old))
      s.atomDone p x op old (s.vaultDamage (f == .c) fs) (if (s.membersOf p).contains q then [] else toBytes op.size old) fs
  | _ => (s, x)

end Sys2Proof.Machine
end

