-- ==== Sys2Proof/Machine/Registers.lean ====
section
/-! DEFINITION. The registers of BAR0 and of the device MMIO range: what each reads as, and what a write
to its rw, w1c and w1s fields does (00 R3, R4, R473; 01 R21 to R26; 07 R199 to R206; 09 R257; 12 R321;
13 R345 to R365; 16 R402; 18 R432; 19 R453, R456). A write that starts something larger answers what it
starts. -/

namespace Sys2Proof.Machine

open Sys2Proof

/-- What a register write starts beyond its own block. -/
inductive Act where
  | none
  | jstart (sem : Nat)
  | reset (kind : Nat)
  | doffreq (d : Nat)
  | vforce
  deriving DecidableEq, Repr

/-- A field of a register value. -/
def wfld (v : Word) (lo n : Nat) : Nat := nbits v.toNat lo n
/-- The low `n` bits of `x` at bit `lo`. -/
def at64 (x lo : Nat) : Nat := x * 2 ^ lo
/-- The bytes of `m` from the write, the others from the old value (00 R473). -/
def mergeReg (old v m : Word) : Word := (old &&& ~~~m) ||| (v &&& m)
/-- Is every byte that holds bits [lo + n - 1 : lo] written? -/
def covers (m : Word) (lo n : Nat) : Bool := (seqFrom lo n).all fun k => m.getLsbD k
/-- Byte mask of a write of `w` bytes at byte `o` of a register. -/
def byteMask (o w : Nat) : Word := BitVec.ofNat 64 ((2 ^ (8 * w) - 1) * 2 ^ (8 * o))

/-! ### Harvest registers (01 R21, R22) -/

/-- Number of enabled cores of a V-die. -/
def State.nen (s : State) (d : Nat) : Nat := (s.enabledOf d).length
/-- Are all four cores of cluster `c` of die `d` enabled? -/
def State.c4 (s : State) (d c : Nat) : Bool := (seqFrom (36 * d + 4 * c) 4).all s.enabled
/-- HARVEST of V-die `d`. -/
def State.harvest (s : State) (d : Nat) : Word :=
  BitVec.ofNat 64 ((s.fuseOf d).toNat + at64 (s.nen d) 36 +
    at64 ((seqFrom 0 9).foldl (fun n c => if s.c4 d c then n + 2 ^ c else n) 0) 42)
/-- Entry l of the logical-to-physical table of V-die `d`. -/
def State.lpctEntry (s : State) (d l : Nat) : Nat :=
  match (s.enabledOf d)[l]? with | some q => 128 + q % 36 | none => 0
/-- LPCTi of V-die `d`. -/
def State.lpct (s : State) (d i : Nat) : Word :=
  BitVec.ofNat 64 ((seqFrom 0 8).foldl (fun n j => n + at64 (s.lpctEntry d (8 * i + j)) (8 * j)) 0)
/-- Logical number of a physical core within its die. -/
def State.lcore (s : State) (q : Nat) : Nat := indexIn (s.enabledOf (q / 36)) q
/-- The least of the dies' counts of enabled cores. -/
def State.minDie (s : State) : Nat := (seqFrom 0 8).foldl (fun n d => min n (s.nen d)) 36
/-- Enabled cores of the module. -/
def State.allCores (s : State) : Nat := (seqFrom 0 8).foldl (fun n d => n + s.nen d) 0

/-! ### Capability chain (01 R25, R26; 13 R350; 02 R49; log entry 32) -/

/-- The entries: ID and BODY. -/
def State.caps (s : State) : List (Nat × Nat) :=
  [(1, 0x4800 + at64 s.stepping.toNat 16 + at64 s.allCores 32 + at64 s.minDie 48),
   (2, s.vmask.toNat + at64 s.mmask.toNat 8 + at64 s.bmask.toNat 16 + at64 s.xmask.toNat 28),
   (3, 2000 + at64 800 16 + at64 2200 32 + at64 1000 48),
   (4, s.xmask.toNat), (5, 72 + at64 8 8 + at64 64 12), (6, 400 + at64 4 16), (0x10, s.tandemCap.toNat)]

/-- One 64-bit word of the chain. -/
def State.capWord (s : State) (off : Nat) : Word :=
  let i := off / 16
  match s.caps[i]? with
  | none => 0
  | some (id, body) =>
    if off % 16 = 8 then BitVec.ofNat 64 body
    else BitVec.ofNat 64 (id + at64 1 16 + at64 (if i = 6 then 0 else 16 * (i + 1)) 32)

/-- The BAR0 offset of the chain's first entry (log entry 32). -/
def capFirst : Nat := 0

/-- CAPPTR: BAR index 0 and the first entry's offset divided by 8 (13 R350). -/
def capPtr : BitVec 32 := BitVec.ofNat 32 (capFirst / 8 * 8)

/-- A 32-bit word of the Vilxamund DVSEC in the configuration space of port `x` (13 R347, R350), which a trained
port holds; the spec gives no word of it but CAPPTR. -/
def State.dvsec (s : State) (x off : Nat) : Option (BitVec 32) :=
  if s.xmask.getLsbD x && off == 0x0C then some capPtr else none

/-! ### Tile registers (07 R194, R205) -/

/-- The tile state register. -/
def Tile.tstate (t : Tile) : Word :=
  BitVec.ofNat 64 ((if t.sat then 1 else 0) + at64 t.live.toNat 8 +
    (seqFrom 0 4).foldl (fun n b => n + at64 (SMap.get t.modes 0 b).toNat (32 + 8 * b)) 0)
/-- BUSY and BAL of TRSTAT. -/
def Tile.busyBits (t : Tile) : Nat × Nat :=
  let b := match t.ballast with | some x => x.arrs | none => 0
  let r : BitVec 4 := match t.round with | some x => if x.held then 1#4 <<< x.arr else 0 | none => 0
  ((r ||| b).toNat, b.toNat)
/-- TRSTAT. -/
def Tile.trstat (t : Tile) : Word :=
  BitVec.ofNat 64 (at64 t.tlast.toNat 32 + at64 t.tnow.toNat 16 + at64 t.busyBits.1 8 + at64 t.busyBits.2 4 +
    t.done.toNat)
/-- Trim word `i` of array `a` in force. -/
def Tile.trim (t : Tile) (a i : Nat) : BitVec 32 := SMap.get t.trims 0x80808080 (4096 * a + i)
/-- The word that the last run committed. -/
def Tile.was (t : Tile) (a i : Nat) : BitVec 32 :=
  match t.moved.find? (fun e => e.1 == 4096 * a + i) with | some e => e.2 | none => t.trim a i
/-- Write a trim word from outside a run (07 R201). -/
def Tile.setTrim (t : Tile) (a i : Nat) (v : BitVec 32) : Tile :=
  let rest := t.moved.filter fun e => e.1 != 4096 * a + i
  { t with trims := SMap.put t.trims 0x80808080 (4096 * a + i) v,
           moved := if v = t.was a i then rest else rest ++ [(4096 * a + i, t.was a i)] }
/-- TRADDR after an access to TRDATA (07 R206). -/
def Tile.advance (t : Tile) : Tile :=
  if !t.ainc then t
  else if t.word = 3583 then { t with word := 0, arr := t.arr + 1 } else { t with word := t.word + 1 }
/-- A register of a tile block. -/
def Tile.reg (t : Tile) (o : Nat) : Word :=
  match o with
  | 0x00 => BitVec.ofNat 64 (t.intv.toNat + at64 t.dtemp.toNat 8 + (if t.balok then 2 ^ 14 else 0))
  | 0x08 => t.trstat
  | 0x10 => t.trgtc
  | 0x18 => t.tstate
  | 0x20 => BitVec.ofNat 64 (t.word.toNat + at64 t.arr.toNat 14 + (if t.ainc then 2 ^ 16 else 0))
  | 0x28 => (t.trim t.arr.toNat t.word.toNat).setWidth 64
  | _ => 0

/-- A write to a register of a tile block. -/
def Tile.regPut (t : Tile) (o : Nat) (v m : Word) : Tile :=
  let n := mergeReg (t.reg o) v m
  match o with
  | 0x00 =>
    let i := wfld n 0 4; let e := wfld n 8 5
    { t with balok := n.getLsbD 14, dtemp := if 1 ≤ e ∧ e ≤ 16 then BitVec.ofNat 5 e else t.dtemp,
             intv := if 1 ≤ i ∧ i ≤ 10 then BitVec.ofNat 4 i else t.intv }
  | 0x08 => { t with done := t.done &&& ~~~((v &&& m).setWidth 4) }
  | 0x20 => { t with ainc := n.getLsbD 16, arr := BitVec.ofNat 2 (wfld n 14 2), word := n.setWidth 12 }
  | 0x28 => (t.setTrim t.arr.toNat t.word.toNat (n.setWidth 32)).advance
  | _ => t

/-- Tile of an offset in the tile block: none beyond tile 35 of a die. -/
def tileAt (x : Nat) : Option Nat :=
  if x / 0x10000 < 8 ∧ x % 0x10000 / 0x100 < 36 then some (36 * (x / 0x10000) + x % 0x10000 / 0x100) else none

/-! ### Power and thermal (13 R361 to R365) -/

/-- The heat block of a V-die. -/
def State.heat (s : State) (d : Nat) : Heat := SMap.get s.pow.heat {} d
/-- Set it. -/
def State.setHeat (s : State) (d : Nat) (h : Heat) : State :=
  { s with pow := { s.pow with heat := SMap.put s.pow.heat {} d h } }
/-- The effective gear (13 R360). -/
def Heat.gear (h : Heat) : Nat := max h.floor.toNat (max h.rmpg.toNat h.thg.toNat)
/-- The GEAR register. -/
def Heat.gearReg (h : Heat) : Nat :=
  h.gear + 4 * h.thg.toNat + 16 * h.rmpg.toNat + 64 * h.floor.toNat + (if h.thot then 256 else 0)
/-- Reset values of the event weights (13 R362). -/
def ewReset (k : Nat) : BitVec 32 :=
  match k with
  | 0 => 3000 | 1 => 1500 | 2 => 409600 | 3 => 40000 | 4 => 1280000 | 5 => 600000 | 6 => 400000 | _ => 8192
/-- EWk: `ew` lists the difference from the reset value. -/
def Power.weight (p : Power) (k : Nat) : BitVec 32 := SMap.get p.ew 0 k + ewReset k
/-- Leakage entry i of cluster c, of 32. -/
def Heat.leak (h : Heat) (c i : Nat) : BitVec 16 := SMap.get h.lt 0 (32 * c + i)

/-- A register of a V-die's power block. -/
def Heat.reg (h : Heat) (o : Nat) : Word :=
  match o with
  | 0x00 => BitVec.ofNat 64 (h.tlo.toNat + at64 h.thi.toNat 16)
  | 0x08 => h.temp.setWidth 64
  | 0x10 => BitVec.ofNat 64 h.gearReg
  | 0x18 => BitVec.ofNat 64 (h.setf.toNat + at64 h.cur.toNat 16)
  | 0x80 => h.lbt
  | 0x88 => h.lbv
  | _ =>
    if 0x100 ≤ o ∧ o < 0x100 + 64 * 9 then
      let i := (o - 0x100) / 2
      BitVec.ofNat 64 ((seqFrom 0 4).foldl (fun n j => n + at64 (h.leak (i / 32) ((i + j) % 32)).toNat (16 * j)) 0)
    else 0

/-- Signed value of a 16-bit temperature. -/
def tempInt (t : BitVec 16) : Int := t.toInt

/-- A write to a V-die's power block; `cp` tells that a control-plane write is accepted. -/
def Heat.regPut (h : Heat) (o : Nat) (v m : Word) (cp : Bool) : Heat :=
  let n := mergeReg (h.reg o) v m
  match o with
  | 0x00 =>
    let lo := n.setWidth 16; let hi := BitVec.ofNat 16 (wfld n 16 16)
    if cp ∧ tempInt lo ≤ tempInt hi - 8 then { h with tlo := lo, thi := hi } else h
  | 0x10 =>
    let h := if (v &&& m).getLsbD 8 then { h with thot := false } else h
    if cp then { h with floor := BitVec.ofNat 2 (wfld n 6 2) } else h
  | 0x18 =>
    let f := wfld n 0 12
    if cp ∧ 800 ≤ f ∧ f ≤ 2200 ∧ f % 100 = 0 ∧ (m.setWidth 12 : BitVec 12) ≠ 0 then
      { h with setf := BitVec.ofNat 12 f, cur := BitVec.ofNat 12 f } else h
  | 0x80 => if cp then { h with lbt := n } else h
  | 0x88 => if cp then { h with lbv := n } else h
  | _ =>
    if cp ∧ 0x100 ≤ o ∧ o < 0x100 + 64 * 9 then
      let i := (o - 0x100) / 2
      { h with lt := (seqFrom 0 4).foldl (fun t j => SMap.put t 0 (i + j) (BitVec.ofNat 16 (wfld n (16 * j) 16))) h.lt }
    else h

/-- A package power register. -/
def Power.reg (p : Power) (o : Nat) : Word :=
  match o with
  | 0x08 => p.ramp.setWidth 64
  | 0x10 => (if p.fill then 2 else 0) + (if (SMap.get p.heat {} 0).rmpg != 0 then 1 else 0)
  | 0x18 => BitVec.ofNat 64 (p.pest % 2 ^ 32) ||| (BitVec.ofInt 64 p.dn <<< 32)
  | 0x20 => p.telbase
  | 0x28 => BitVec.ofNat 64 ((if p.telen then 1 else 0) + at64 p.teln.toNat 8)
  | 0x30 => p.telhead
  | _ => if 0x100 ≤ o ∧ o < 0x140 then (p.weight ((o - 0x100) / 8)).setWidth 64 else 0

/-- A write to a package power register. -/
def Power.regPut (p : Power) (o : Nat) (v m : Word) : Power :=
  let n := mergeReg (p.reg o) v m
  match o with
  | 0x08 => let r := wfld n 0 9; if 1 ≤ r ∧ r ≤ 400 then { p with ramp := BitVec.ofNat 9 r } else p
  | 0x20 => { p with telbase := n &&& 0x000FFFFFFFFFF000 }
  | 0x28 =>
    let k := wfld n 8 5
    { p with telen := n.getLsbD 0, teln := if 6 ≤ k ∧ k ≤ 20 then BitVec.ofNat 5 k else p.teln }
  | _ => if 0x100 ≤ o ∧ o < 0x140 then
      let k := (o - 0x100) / 8
      { p with ew := SMap.put p.ew 0 k (n.setWidth 32 - ewReset k) } else p

/-! ### Waiwell block (13 R352) -/

/-- A port, link bit, peer and key. -/
def Fabric.port (f : Fabric) (k : Nat) : WPort := SMap.get f.ports {} k
def Fabric.link (f : Fabric) (j : Nat) : Link := SMap.get f.links {} j
def Fabric.peer (f : Fabric) (p : Nat) : Peer := SMap.get f.peers {} p
def Fabric.key (f : Fabric) (i : Nat) : Key := SMap.get f.keys {} i

/-- STATE of a port: a trained port of a formed link carries it (13 R352). -/
def Fabric.stateOf (f : Fabric) (k : Nat) : Nat :=
  let w := f.port k
  if w.state = 2 ∧ w.member ∧ (f.link w.link.toNat).val then 3 else w.state.toNat

/-- A register of the Waiwell block. -/
def Fabric.reg (f : Fabric) (o : Nat) : Word :=
  if o < 0x240 then
    BitVec.ofNat 64 (at64 (f.port (o / 8)).link.toNat 8 + f.stateOf (o / 8))
  else if 0x400 ≤ o ∧ o < 0x640 then (if (f.link ((o - 0x400) / 8)).val then 0x8000000000000000 else 0)
  else if 0x1000 ≤ o ∧ o < 0x1FF8 then
    let p := f.peer ((o - 0x1000) / 8)
    BitVec.ofNat 64 ((if p.val then 2 ^ 63 else 0) + at64 p.link.toNat 24 + p.fid.toNat)
  else if o = 0x1FF8 then f.myfid.setWidth 64
  else if 0x2000 ≤ o ∧ o < 0x2080 then (SMap.get f.ckeys 0 ((o - 0x2000) / 8)).setWidth 64
  else if 0x2100 ≤ o ∧ o < 0x2500 then
    let k := f.key ((o - 0x2100) / 16)
    if o % 16 = 0 then BitVec.ofNat 64 ((if k.val then 2 ^ 63 else 0) + at64 k.rwa.toNat 60 + k.key.toNat)
    else BitVec.ofNat 64 (at64 k.len.toNat 32 + k.base.toNat)
  else 0

/-- May some ports make one link: 1 to 8 of one X-die (13 R351)? -/
def bundles (ps : List Nat) : Bool := 1 ≤ ps.length && ps.length ≤ 8 && (ps.all (· < 36) || ps.all (36 ≤ ·))

/-- LINKj.VAL changes (LINK_FORM): only once every port of the link has STATE 2 or 3; a shed port rejoins
when VAL is written again, and ports that are absent belong to no link (13 R352; 19 R455, R457 (f)). Ports that make no
link leave VAL as it is (DEDUCED, log entry 131). -/
def Fabric.form (f : Fabric) (absent : Nat → Bool) (j : Nat) (v : Bool) : Fabric :=
  let ps := (seqFrom 0 72).filter fun k => !absent k && (f.port k).link.toNat == j
  if (bundles ps || !v) && !ps.isEmpty && ps.all (fun k => 2 ≤ (f.port k).state.toNat) then
    let f := ps.foldl (fun f k => { f with ports := SMap.upd f.ports {} k fun w => { w with member := v } }) f
    { f with links := SMap.upd f.links {} j fun l => { l with val := v } }
  else f

/-- A write to the Waiwell block; `cp` tells that a control-plane write is accepted, `absent` which ports there are not. -/
def Fabric.regPut (f : Fabric) (absent : Nat → Bool) (o : Nat) (v m : Word) (cp : Bool) : Fabric :=
  let n := mergeReg (f.reg o) v m
  if o < 0x240 then
    let l := wfld n 8 7
    if l < 72 then { f with ports := SMap.upd f.ports {} (o / 8) fun w => { w with link := BitVec.ofNat 7 l } } else f
  else if !cp then f
  else if 0x400 ≤ o ∧ o < 0x640 then (if covers m 63 1 then f.form absent ((o - 0x400) / 8) (n.getLsbD 63) else f)
  else if 0x1000 ≤ o ∧ o < 0x1FF8 then
    let x : Peer := { val := n.getLsbD 63, link := BitVec.ofNat 7 (wfld n 24 7), fid := n.setWidth 24 }
    { f with peers := SMap.put f.peers {} ((o - 0x1000) / 8) x }
  else if o = 0x1FF8 then { f with myfid := n.setWidth 24 }
  else if 0x2000 ≤ o ∧ o < 0x2080 then
    { f with ckeys := SMap.put f.ckeys 0 ((o - 0x2000) / 8) (n.setWidth 24) }
  else if 0x2100 ≤ o ∧ o < 0x2500 then
    { f with keys := SMap.upd f.keys {} ((o - 0x2100) / 16) fun k =>
        if o % 16 = 0 then { k with val := n.getLsbD 63, rwa := BitVec.ofNat 3 (wfld n 60 3), key := n.setWidth 24 }
        else { k with len := BitVec.ofNat 11 (wfld n 32 11), base := n.setWidth 11 } }
  else f

/-- Ports 36 to 71 are absent where X1 has failed (19 R455). -/
def State.portAbsent (s : State) (k : Nat) : Bool := 36 ≤ k && !s.xmask.getLsbD 1

/-- Does the offset in the Waiwell block name the register of an absent port? -/
def State.fabAbsent (s : State) (o : Nat) : Bool := o < 0x240 && s.portAbsent (o / 8)

/-- A write to the Waiwell block; a change of a port's STATE is an event (13 R352, R358). -/
def State.fabPut (s : State) (o : Nat) (v m : Word) (cp : Bool) : State :=
  if s.fabAbsent o then s else
  let f := s.fab.regPut s.portAbsent o v m cp
  let moved := (seqFrom 0 72).any fun k => f.stateOf k != s.fab.stateOf k
  let s := { s with fab := f }
  if moved then s.eventTrigger 2 else s

/-! ### Semaphores, host routing, job and translation registers -/

/-- SEMRES of a party. -/
def Ctl.res (c : Ctl) (party : Nat) : SemRes := match party with | 1 => c.res1 | 2 => c.res2 | _ => c.res3
/-- Set it. -/
def Ctl.setRes (c : Ctl) (party : Nat) (r : SemRes) : Ctl :=
  match party with | 1 => { c with res1 := r } | 2 => { c with res2 := r } | _ => { c with res3 := r }
/-- Owner of a semaphore. -/
def Ctl.owner (c : Ctl) (i : Nat) : Nat := (SMap.get c.sem 0 i).toNat

/-- May the party write a control-plane register (13 R346)? -/
def Ctl.mayWrite (c : Ctl) (party : Nat) : Bool := party == 3 || c.owner 0 == party
/-- A denied write sets the port's DENY bit. -/
def Ctl.deny (c : Ctl) (party : Nat) : Ctl := c.setRes party { c.res party with deny := true }

/-- SEMCAS (13 R348): compare EXP with the owner of SEM; NEW is 0 or the writer's own code. -/
def Ctl.semcas (c : Ctl) (party : Nat) (v : Word) : Ctl :=
  let i := wfld v 0 3
  let e := c.owner i
  let nw := wfld v 8 2
  let ok := e == wfld v 4 2 && (nw == 0 || nw == party)
  let c := if ok then { c with sem := SMap.put c.sem 0 i (BitVec.ofNat 2 nw) } else c
  c.setRes party { c.res party with ok := ok, seen := BitVec.ofNat 2 e }

/-- HROUTE as it reads: the value last written (13 R346, R349). -/
def Ctl.route (c : Ctl) : BitVec 2 := c.hnext.getD c.hroute
/-- The port that a byte of the host range travels on: 0 that of X0, 1 that of X1 (13 R348, R349). -/
def Ctl.hostPort (c : Ctl) (pa : Nat) : Nat :=
  match c.hroute.toNat with | 0 => 0 | 1 => 1 | _ => pa / 4096 % 2

/-- TICTL and TIVA (09 R257). -/
def Ctl.tictl (c : Ctl) : Word :=
  BitVec.ofNat 64 (c.tilsz.toNat + at64 c.tictx.toNat 8 + (if c.tiall then 2 ^ 16 else 0) + (if c.tigo then 2 ^ 31 else 0))
/-- A write to TICTL: while GO is 1 its other fields are ignored; GO is w1s. -/
def Ctl.putTictl (c : Ctl) (v m : Word) : Ctl :=
  let n := mergeReg c.tictl v m
  let z := wfld n 0 6
  let c := if c.tigo then c else
    { c with tiall := n.getLsbD 16, tictx := BitVec.ofNat 4 (wfld n 8 4),
             tilsz := if 12 ≤ z ∧ z ≤ 56 then BitVec.ofNat 6 z else c.tilsz }
  if (v &&& m).getLsbD 31 then { c with tigo := true } else c

/-- Contexts that hold a job: one bit each. -/
def State.jobs (s : State) : Nat := s.ctxs.foldl (fun n e => n + 2 ^ e.1) 0

/-- A job register. -/
def State.jobReg (s : State) (o : Nat) : Word :=
  let c := s.ctl
  match o with
  | 0x00 => c.jimg
  | 0x08 => c.jentry.setWidth 64
  | 0x18 => BitVec.ofNat 64 ((if c.jbusy then 1 else 0) + (if c.jrej then 2 else 0) + at64 c.jctx.toNat 8 + at64 s.jobs 16)
  | _ => if 0x100 ≤ o ∧ o < 0x180 then SMap.get c.jcnt 0 ((o - 0x100) / 8) else 0

/-! ### PTP, snapshots, errors, resets -/

/-- A PTP register (13 R356). -/
def Ptp.reg (p : Ptp) (o : Nat) : Word :=
  match o with
  | 0x00 => p.sgtcb | 0x08 => p.sptpb | 0x10 => p.srate.setWidth 64 | 0x18 => p.sat
  | 0x28 => (if p.pend then 1 else 0) + (if p.valid then 2 else 0)
  | 0x30 => p.gtcb | 0x38 => p.ptpb | 0x40 => p.rate.setWidth 64
  | 0x48 => p.src.setWidth 64 &&& 0x7F7
  | _ => 0
/-- The staged relation takes effect (PTP_COMMIT_APPLY). -/
def Ptp.apply (p : Ptp) : Ptp :=
  { p with valid := true, pend := false, gtcb := p.sgtcb, ptpb := p.sptpb, rate := p.srate }
/-- RCOMMIT.GO: the commit waits for AT, or takes effect at once if AT has passed. -/
def Ptp.commit (p : Ptp) (gtc : Word) : Ptp :=
  if p.pend then p else if p.sat.toNat ≤ gtc.toNat then p.apply else { p with pend := true }
/-- A write to a PTP register. -/
def Ptp.regPut (p : Ptp) (o : Nat) (v m gtc : Word) : Ptp :=
  let n := mergeReg (p.reg o) v m
  match o with
  | 0x00 => { p with sgtcb := n } | 0x08 => { p with sptpb := n } | 0x10 => { p with srate := n.setWidth 32 }
  | 0x18 => { p with sat := n }
  | 0x20 => if (v &&& m).getLsbD 0 then p.commit gtc else p
  | 0x48 => { p with src := n.setWidth 11 &&& 0x7F7 }
  | _ => p

/-- A snapshot register (13 R358). -/
def Snap.reg (x : Snap) (o : Nat) : Word :=
  match o with
  | 0x00 => x.en.setWidth 64 | 0x08 => x.cmp
  | 0x18 => BitVec.ofNat 64 ((if x.armed then 1 else 0) + at64 x.src.toNat 4 + at64 x.tag.toNat 8 +
      at64 x.pcore.toNat 16 + at64 x.missed.toNat 32)
  | 0x20 => x.stamp | 0x28 => x.latch | 0x30 => x.evsel.setWidth 64
  | _ => 0
/-- A write to a snapshot register. -/
def Snap.regPut (x : Snap) (o : Nat) (v m : Word) (cp : Bool) : Snap :=
  let n := mergeReg (x.reg o) v m
  match o with
  | 0x00 => if cp then { x with en := n.setWidth 5 } else x
  | 0x08 => if cp then { x with cmp := n } else x
  | 0x18 => if (v &&& m).getLsbD 0 then { x with armed := true } else x
  | 0x30 => if cp then { x with evsel := n.setWidth 3 } else x
  | _ => x

/-- A register of the error block (16 R402; 18 R432; 19 R453, R456). -/
def State.errReg (s : State) (o : Nat) : Word :=
  let e := s.err
  match o with
  | 0x00 => e.base
  | 0x08 => BitVec.ofNat 64 ((if e.en then 1 else 0) + (if e.corr then 2 else 0) + at64 e.n.toNat 8 +
      at64 e.snapsev.toNat 20 + at64 e.irqsev.toNat 24 + (if e.viral then 2 ^ 31 else 0))
  | 0x10 => e.head | 0x18 => e.cnt
  | 0x40 => BitVec.ofNat 64 (e.audk.toNat + (if e.auden then 256 else 0))
  | 0x50 => e.audlog | 0x58 => e.audlen
  | 0x60 => BitVec.ofNat 64 (e.samp.toNat + at64 e.mtch.toNat 16 + at64 e.mism.toNat 32 + at64 e.skip.toNat 48)
  | 0x80 => BitVec.ofNat 64 (e.lost.toNat + at64 e.boot.toNat 16 + at64 (min s.torn.length 0xFFFF) 32)
  | 0x88 => BitVec.ofNat 64 (e.doff.toNat + at64 e.dabr.toNat 8 + at64 e.dcause.toNat 16)
  | 0x98 => BitVec.ofNat 64 (e.evused.toNat + at64 e.evdie.toNat 36)
  | 0xE0 => BitVec.ofNat 64 ((if e.p11 then 1 else 0) + (if e.act then 2 else 0) + at64 e.exk.toNat 4)
  | _ => if 0xA0 ≤ o ∧ o < 0xE0 then
      let d := (o - 0xA0) / 8
      BitVec.ofNat 64 ((seqFrom 0 36).foldl (fun n p => if (s.tile (36 * d + p)).wdrn then n + 2 ^ p else n) 0)
    else 0

/-- A write to a register of the error block. -/
def State.errPut (s : State) (o : Nat) (v m : Word) : State × Act :=
  let e := s.err
  let n := mergeReg (s.errReg o) v m
  let put := fun (e : Err) => ({ s with err := e }, Act.none)
  match o with
  | 0x00 => put { e with base := n &&& 0x000FFFFFFFFFF000 }
  | 0x08 =>
    let k := wfld n 8 5
    let r := put { e with en := n.getLsbD 0, corr := n.getLsbD 1, n := if 6 ≤ k ∧ k ≤ 20 then BitVec.ofNat 5 k else e.n,
                          snapsev := BitVec.ofNat 3 (wfld n 20 3), irqsev := BitVec.ofNat 3 (wfld n 24 3) }
    if (v &&& m).getLsbD 30 then (r.1, .vforce) else r
  | 0x18 => put { e with cnt := n }
  | 0x40 =>
    let k := wfld n 0 5
    put { e with auden := n.getLsbD 8, audk := if k ≤ 20 then BitVec.ofNat 5 k else e.audk }
  | 0x48 => if m = BitVec.allOnes 64 then put { e with audkey := v } else put e
  | 0x50 => put { e with audlog := n &&& 0x000FFFFFFFFFF000 }
  | 0x58 => put { e with audlen := n &&& 0xFFFFF000 }
  | 0x90 => if (v &&& m).getLsbD 3 then (s, .doffreq (wfld (v &&& m) 0 3)) else put e
  | 0xE0 => put { e with p11 := n.getLsbD 0 }
  | _ => put e

/-! ### The whole map (13 R345) -/

/-- The 64-bit register at an aligned BAR0 offset, read by a party. -/
def State.reg (s : State) (party off : Nat) : Word :=
  let o := off % 0x100000
  match off / 0x100000 with
  | 0 => s.capWord o
  | 1 =>
    let r := s.ctl.res party
    match o with
    | 0x08 => BitVec.ofNat 64 (r.seen.toNat + (if r.ok then 256 else 0) + (if r.deny then 512 else 0))
    | 0x10 => BitVec.ofNat 64 ((seqFrom 0 8).foldl (fun n i => n + at64 (s.ctl.owner i) (2 * i)) 0)
    | 0x18 => s.ctl.route.setWidth 64
    | _ => 0
  | 2 =>
    let d := o / 0x10000
    if 8 ≤ d then 0 else
    match o % 0x10000 with
    | 0x00 => s.harvest d
    | x => if x ≤ 0x28 then s.lpct d (x / 8 - 1) else 0
  | 3 => if s.fabAbsent o then 0 else s.fab.reg o
  | 4 => s.jobReg o
  | 5 => if o = 0 then s.ctl.tiva.setWidth 64 <<< 12 else if o = 8 then s.ctl.tictl else 0
  | 6 => match tileAt o with | some q => (s.tile q).reg (o % 0x100) | none => 0
  | 7 => if o < 0x8000 then (s.heat (o / 0x1000)).reg (o % 0x1000) else if o < 0x9000 then s.pow.reg (o - 0x8000) else 0
  | 8 => s.ptp.reg o
  | 9 =>
    if 0x80000 ≤ o then s.errReg (o - 0x80000)
    else if 0x10000 ≤ o then BitVec.ofNat 64 (leNat (s.bytes (snapAddr (o - 0x10000)) 8))
    else s.snap.reg o
  | 10 => if o = 8 then BitVec.ofNat 64 (s.rstLast.toNat + (if s.rstBusy then 4 else 0)) else 0
  | _ => 0

/-- Read `w` bytes at a BAR0 offset (00 R473). -/
def State.mmioRead (s : State) (party off w : Nat) : List Byte :=
  (toBytes 8 (s.reg party (off / 8 * 8)).toNat).drop (off % 8) |>.take w

/-- Is the register named control plane (09 R257; 12 R321; 13 R346 to R365; 16 R402; 19 R453, R456)? GEAR is so in
its FLOOR field only. -/
def controlPlane (off : Nat) : Bool :=
  let o := off % 0x100000
  let within := fun (a b : Nat) => decide (a ≤ o) && decide (o < b)
  match off / 0x100000 with
  | 1 => o == 0x18
  | 3 => within 0x400 0x640 || within 0x1000 0x2080 || within 0x2100 0x2500
  | 4 => o < 0x10
  | 5 => o < 0x10
  | 7 =>
    if o < 0x8000 then [0, 0x18, 0x80, 0x88].contains (o % 0x1000) || (decide (0x100 ≤ o % 0x1000) && decide (o % 0x1000 < 0x340))
    else [0x8008, 0x8020, 0x8028].contains o || within 0x8100 0x8140
  | 8 => o ≤ 0x20 || o == 0x48
  | 9 =>
    if 0x80000 ≤ o then [0, 8, 0x10, 0x18, 0x40, 0x50, 0x58, 0x90, 0xE0].contains (o - 0x80000)
    else o == 0 || o == 8 || o == 0x30
  | 10 => o == 0
  | _ => false

/-- A route is written: it is in force once every host access already routed has performed (13 R349). The cuts of an
earlier write stand until then. -/
def State.putRoute (s : State) (k : BitVec 2) : Ctl :=
  if s.ctl.hnext.isSome then { s.ctl with hnext := some k }
  else { s.ctl with hnext := some k, hcuts := s.cores.map fun e => (e.1, 16 * e.2.vc + 16) }

/-- The write of a party to the 64-bit register at an aligned BAR0 offset: bytes of mask `m` (00 R473,
13 R346). Writes while a reset is busy are ignored (R357). A SEMCAS write compares and swaps only where it covers SEM,
EXP and NEW; one of byte 0 alone does nothing (log entry 106). -/
def State.regPut (s : State) (party off : Nat) (v m : Word) : State × Act :=
  if s.rstBusy then (s, .none) else
  let cp := s.ctl.mayWrite party
  if controlPlane off && !cp then ({ s with ctl := s.ctl.deny party }, .none) else
  let o := off % 0x100000
  let ctl := fun (c : Ctl) => ({ s with ctl := c }, Act.none)
  match off / 0x100000 with
  | 1 =>
    match o with
    | 0x00 => if covers m 0 16 then ctl (s.ctl.semcas party v) else (s, .none)
    | 0x08 => if (v &&& m).getLsbD 9 then ctl (s.ctl.setRes party { s.ctl.res party with deny := false }) else (s, .none)
    | 0x18 =>
      let k := wfld (mergeReg (s.ctl.route.setWidth 64) v m) 0 2
      if k = 3 ∨ (k ≠ 0 ∧ !s.xmask.getLsbD 1) then (s, .none) else ctl (s.putRoute (BitVec.ofNat 2 k))
    | _ => (s, .none)
  | 3 => (s.fabPut o v m cp, .none)
  | 4 =>
    match o with
    | 0x00 => if s.ctl.jbusy then (s, .none) else ctl { s.ctl with jimg := mergeReg s.ctl.jimg v m &&& 0x000FFFFFFFFFFFC0 }
    | 0x08 => if s.ctl.jbusy then (s, .none) else
        ctl { s.ctl with jentry := (mergeReg (s.ctl.jentry.setWidth 64) v m).setWidth 13 }
    | 0x10 => if covers m 0 8 && v.getLsbD 7 then (s, .jstart (wfld v 0 3)) else (s, .none)
    | 0x18 => if (v &&& m).getLsbD 1 then ctl { s.ctl with jrej := false } else (s, .none)
    | _ => (s, .none)
  | 5 =>
    if o = 0 then
      (if s.ctl.tigo then (s, .none) else
        ctl { s.ctl with tiva := BitVec.ofNat 44 (wfld (mergeReg (s.ctl.tiva.setWidth 64 <<< 12) v m) 12 44) })
    else if o = 8 then ctl (s.ctl.putTictl v m) else (s, .none)
  | 6 =>
    match tileAt o with
    | some q => (s.updTile q fun t => t.regPut (o % 0x100) v m, .none)
    | none => (s, .none)
  | 7 =>
    if o < 0x8000 then
      let d := o / 0x1000
      let h := s.heat d
      let floorTry := o % 0x1000 == 0x10 && (m.setWidth 8 : BitVec 8) != 0 && !cp
      let s := s.setHeat d (h.regPut (o % 0x1000) v m cp)
      (if floorTry then { s with ctl := s.ctl.deny party } else s, .none)
    else if o < 0x9000 then ({ s with pow := s.pow.regPut (o - 0x8000) v m }, .none) else (s, .none)
  | 8 => ({ s with ptp := s.ptp.regPut o v m s.gtc }, .none)
  | 9 =>
    if 0x80000 ≤ o then s.errPut (o - 0x80000) v m
    else if o = 0x10 then (if (v &&& m).getLsbD 0 then s.trigger 4 0 0 else s, .none)
    else
      let x := s.snap.regPut o v m cp
      ({ s with snap := if cp ∧ o = 8 then { x with hit := decide (x.cmp.toNat < s.gtc.toNat) } else x }, .none)
  | 10 => if o = 0 ∧ (v &&& m).setWidth 2 ≠ (0 : BitVec 2) then (s, .reset (wfld (v &&& m) 0 2)) else (s, .none)
  | _ => (s, .none)

/-- Write bytes at a BAR0 offset, naturally aligned, of 1, 2, 4 or 8 bytes. -/
def State.mmioWrite (s : State) (party off : Nat) (d : List Byte) : State × Act :=
  let o := off % 8
  s.regPut party (off / 8 * 8) (BitVec.ofNat 64 (leNat d * 2 ^ (8 * o))) (byteMask o d.length)

/-- A read of TRDATA advances WORD (07 R206); no other read has an effect (00 R473). -/
def State.mmioTouch (s : State) (off : Nat) : State :=
  match tileAt (off % 0x100000) with
  | some q => if off / 0x100000 = 6 ∧ off % 0x100 / 8 = 5 then s.updTile q Tile.advance else s
  | none => s

/-- BAR0 offset of an address in the MMIO range of this device. -/
def mmioOff (pa : Nat) : Nat := pa - 0x20000000000

end Sys2Proof.Machine
end

