-- ==== Sys2Proof/Machine/Landing.lean ====
section
/-! DEFINITION. Late accesses as they perform, and the landing of results (01 R16 to R20; 04 R96 to R99;
05 R135; 10 R284; 11 R299 to R308; 16 R394). -/

namespace Sys2Proof.Machine

open Sys2Proof

/-! ### Late accesses (01 R19) -/

/-- A G-space load performs (05 R135): from an MMIO page it reads the register. -/
def State.lateLoad (s : State) (p : Nat) (x : Pending) (q : Piece) (sx inv : Bool) : State × Pending :=
  let w : Who := { p := p, ctx := s.ctxOf p, sv := (s.core p).sv }
  let give := fun (s : State) (b : List Byte) (d : Damage) =>
    (s.auditIn p b, x.done (({ vals := [(0, leNat b)] } : Brought).src x.dest sx q.width) d)
  match (s.peek w q.addr false true).toOption.filter (·.mmio) with
  | some _ =>
    let (s, t) := s.translate w q.addr false true
    match t with
    | .error f => (s, x.done (.word 0) (f.use w false).damage)
    | .ok t =>
      match s.peerFault w.ctx q.addr t.pa with
      | some f => (s, x.done (.word 0) (f.use w false).damage)
      | none =>
        if inMmio t.pa then give (s.mmioTouch (mmioOff t.pa)) (s.mmioRead 3 (mmioOff t.pa) q.width) {}
        else give s (s.bytes t.pa q.width) {}
  | none =>
    let (s, r) := s.loadG w q.addr q.width true
    match r with
    | .error f => (s, x.done (.word 0) (f.use w false).damage)
    | .ok g =>
      let b := s.overlay p x.issue g.pa g.data
      let b := if inv then ((g.data.zip b).zip (seqFrom g.pa q.width)).map fun (y, k) => s.invByte p k y.1 y.2 else b
      let fs := mergeFinds g.finds
      let s := s.logFixed p q.addr fs
      give s b (s.gatedDamage p x.issue (seqFrom g.pa q.width) (s.damageOf q.addr fs))

/-- A G-space atomic performs, in the store that holds its cell (10 R283). -/
def State.lateAtomic (s : State) (p : Nat) (x : Pending) (va : Nat) (op : AtomOp) : State × Pending :=
  let w : Who := { p := p, ctx := s.ctxOf p, sv := (s.core p).sv }
  let (s, f) := s.touchG w va op.size true
  let (s, t) := s.translate w va true false
  match f, t with
  | some f, _ => (s.forget p x, x.done (.word 0) (f.use w true).damage)
  | none, .error f => (s.forget p x, x.done (.word 0) (f.use w true).damage)
  | none, .ok t =>
    match s.peerFault w.ctx va t.pa with
    | some f => (s.forget p x, x.done (.word 0) (f.use w true).damage)
    | none =>
    if inVault t.pa && regionTable ≤ vaultOff t.pa then
      (s.forget p x, x.done (.word 0) ({ cause := 0x26, pa := va, slot := x.ord, enc := x.enc.toNat } : Use).damage)
    else if (inHost t.pa || inPeer t.pa) && s.err.viral then (s, x.done (.word 0) {})
    else
      let (s, old, fs) := if inVault t.pa then (s.noteVault t.pa).atomLocal (vaultCore t.pa) (vaultOff t.pa) op
        else s.atomStore t.pa op (some t.lc)
      let s := (s.logFixed p va fs).sign p (BitVec.ofNat 64 va) (toBytes op.size (op.apply old))
      s.atomDone p x op old (s.damageOf va fs) (toBytes op.size old) fs

/-- One late access performs. -/
def State.lateAccess (s : State) (p : Nat) (x : Pending) : State × Pending :=
  match x.src with
  | .load .g (q :: _) sx inv => s.lateLoad p x q sx inv
  | .atomic .g a op _ => s.lateAtomic p x a op
  | .load .c .. | .atomic .c .. =>
    let (s, x) := s.performVault p x []
    match x.src with
    | .word v =>
      (s, { x with src := .word v })
    | _ => (s, x)
  | _ => (s, { x with arrived := true })

/-- Replace the i-th result in flight. -/
def Core.setPend (c : Core) (i : Nat) (x : Pending) : Core :=
  { c with pend := c.pend.take i ++ [x] ++ c.pend.drop (i + 1) }

/-- A secondary receives what its primary's access brought (02 R50 (a), (d)). -/
def State.twinPend (s : State) (p : Nat) (x : Pending) : State :=
  ((s.membersOf p).filter fun m => m != p && s.primary m == p).foldl (fun s m =>
    s.updCore m fun c => { c with pend := c.pend.map fun y =>
      if y.issue = x.issue ∧ y.ord = x.ord ∧ y.late ∧ !y.arrived then { y with src := x.src, arrived := true, dmg := x.dmg } else y }) s

/-- The fault that an irrevocable access of agent `p` to G-space would take now. -/
def State.irrevFault (s : State) (p : Nat) (x : Pending) : Option XFault :=
  let w := s.slotWho p (s.core p).sv
  let at_ := fun (va : Nat) (mmio : Bool) =>
    match s.peek w va true mmio with
    | .error f => some f
    | .ok t => s.peerFault w.ctx va t.pa
  if x.arrived then none else
  match x.src with
  | .atomic .g va _ _ => at_ va false
  | .mmio va _ => at_ va true
  | _ => none

/-- An irrevocable access of agent `p` is about to perform. Those of its vc's bundles that would fault do so now; answers
whether none has faulted, so that the bundle completes (02 R45; 17 R411 (b)). -/
def State.completes (s : State) (p : Nat) (x : Pending) : State × Bool :=
  if x.irrev.isNone then (s, true) else
  let beside := fun (y : Pending) => y.irrev.isSome && y.issue == x.issue && y.ord != x.ord
  let s := (s.lock p).foldl (fun s m => (seqFrom 0 (s.core m).pend.length).foldl (fun s j =>
    match (s.core m).pend[j]? with
    | some y =>
      if (m != p || beside y) && y.irrev.isSome && y.issue == x.issue then
        match s.irrevFault m y with
        | some f => (s.forget m y).updCore m (·.setPend j (y.done (.word 0) (f.use (s.slotWho m (s.core m).sv) true).damage))
        | none => s
      else s
    | none => s) s) s
  (s, !(s.lock p).any fun m => (s.core m).pend.any fun y => y.irrev.isSome && y.issue == x.issue && y.arrived && y.dmg.cls == 5)

/-- An irrevocable access whose bundle does not complete does not perform. -/
def State.spare (s : State) (p i : Nat) (x : Pending) : State := (s.forget p x).updCore p (·.setPend i (x.done (.word 0) {}))

/-- The late access number `i` of agent `p` performs, if it may (HOLD_END). -/
def State.arrive (s : State) (p i : Nat) : State :=
  match (s.core p).pend[i]? with
  | none => s
  | some x =>
    if x.returning && s.mayArrive p i then s.updCore p (·.setPend i { x with arrived := true })
    else if s.mayArrive p i && !s.secondary p then
      let (s, go) := (s.flush (.core p) false).completes p x
      if !go then s.spare p i x else
      let z := s.later p x
      let (s, y) := (s.overtake p ((s.core p).releasedBefore z.pos) z).lateAccess p x
      (s.updCore p (·.setPend i y)).twinPend p y
    else s

/-! ### Landing (04 R96, R99) -/

/-- Insert a result by issue vc and slot order. -/
def insertPend (x : Pending) : List Pending → List Pending
  | [] => [x]
  | y :: r => if x.issue < y.issue ∨ (x.issue = y.issue ∧ x.ord < y.ord) then x :: y :: r else y :: insertPend x r

/-- Results in the order of 04 R99. -/
def sortPend (l : List Pending) : List Pending := l.foldl (fun r x => insertPend x r) []

/-- The value of a result: an irrevocable operation's comes from the record. -/
def State.srcNow (s : State) : Src → Src
  | .recorded p k => .word (SMap.get (s.core p).irrev.vals 0 k)
  | x => x

/-- A word result. -/
def Src.asWord : Src → Word
  | .word w => w
  | _ => 0

/-- Write a result into its register (04 R99). Lane results carry their keys. -/
def Core.apply (c : Core) (d : Dest) (x : Src) : Core :=
  let w := x.asWord
  match d with
  | .none => c
  | .s r => c.setS r w
  | .a r => c.setA r w
  | .p r => c.setP r (w != 0)
  | .lanes => match x with | .lanes l => { c with v := l.foldl (fun v e => SMap.put v 0 e.1 e.2) c.v } | _ => c
  | .push q _ => match x with | .lanes l => c.push q (l.map (·.2)) | _ => c
  | .k key => match x with
    | .mask sel v => { c with k := SMap.upd c.k 0 key fun o => (o &&& ~~~sel) ||| (v &&& sel) }
    | _ => c
  | .mp k => { c with mp := SMap.put c.mp 0 k w }
  | .fmt => { c with fmt := w }
  | .mpc => { c with mpc := w }
  | .tl k => { c with tl := SMap.upd c.tl 0 k fun o => if o.toNat < w.toNat then w else o }
  | .port q => match x with | .port y => c.setPort q y | _ => c
  | .region _ => c

/-- A descriptor of the region table of core `p`'s vault is written; the lines that it maps become unfilled (10 R290). -/
def State.setRegion (s : State) (p i : Nat) (b : List Byte) : State :=
  let d := RDesc.ofBytes b
  (s.writeLogged (s.recFor p {}) (vaultAddr p (regionTable + 32 * i)) b [] none).unfillRange p d.voff d.len

/-- Land one result of agent `p`; an unbound or rebound write port first writes what it holds (10 R280). -/
def State.landOne (s : State) (p : Nat) (x : Pending) : State :=
  match x.dest, x.src with
  | .region i, .bytes b => s.setRegion p i b
  | .port q, v => (s.drainPort p q).updCore p fun c => c.apply x.dest v
  | _, v => let v := s.srcNow v; s.updCore p fun c => c.apply x.dest v

/-- The results of agent `p` that land at vc `m`, in their order. -/
def Core.landing (c : Core) (m : Nat) : List Pending := sortPend (c.pend.filter fun x => x.land == m)

/-- Accesses of agent `p` that perform at vc `m` and are of the wanted phase: atomics first, then reads. -/
def State.performPhase (s : State) (p m : Nat) (ck : List Nat) (writes : Bool) : State :=
  (seqFrom 0 (s.core p).pend.length).foldl (fun s i =>
    match (s.core p).pend[i]? with
    | none => s
    | some x =>
      let isW := match x.src with | .atomic .. => true | _ => false
      if x.perform = m ∧ !x.late ∧ !x.arrived ∧ isW = writes then
        let (s, go) := { s with cur := { core := p } }.completes p x
        if !go then s.spare p i x else
        let z := s.later p x
        let n := (s.core p).releasedBefore z.pos
        let s := if x.form == .c then (s.flush (.core p) false).overtake p n z else if x.undone then s.force p n z else s
        let (s, y) := s.performVault p x ck
        s.updCore p (·.setPend i y)
      else s) s

/-- Results due at vc `m` that wait for their path hold the core (01 R16), and so does an MMIO store that has not performed
though its bundle has completed (05 R136). -/
def Core.dueLate (c : Core) (m : Nat) : Option Pending :=
  c.pend.find? fun x => x.waits && (x.land == m || (x.perform == m && match x.src with | .mmio .. => true | _ => false))

/-- The effect of a signal at its target: a timeline raised, or EVT.PEER set (10 R287; 05 R148). -/
def Core.signal (c : Core) (g : InSig) : Core := if g.k = 8 then c.setEvt 4 else c.apply (.tl g.k) (.word g.val)

/-- Signals to members of a peloton due at its PVC (10 R287, 05 R148). -/
def State.landSigs (s : State) (p m : Nat) : State :=
  let l := s.sigs.filter fun g => g.target == p && g.due == some m
  let s := { s with sigs := s.sigs.filter fun g => !(g.target == p && g.due == some m) }
  l.foldl (fun s g =>
    let s := if g.k = 8 then s else s.force g.sender ((s.core g.sender).releasedBefore g.pos) (Later.signal g.pos g.due)
    s.updCore p (·.signal g)) s

/-- Of a vc's damages a consumption stands before a fault of an access (16 R397). -/
def consumptionFirst (l : List (Nat × Damage)) : List (Nat × Damage) :=
  (l.filter fun x => x.2.cls < 5) ++ l.filter fun x => !(x.2.cls < 5)

/-- The consumptions among the results of `l` that land at vc `m`, the one to deliver first: agent and damage; those
that a region admits land and are logged as tolerated (16 R397, R398). -/
def State.consumed (s : State) (l : List Nat) (m : Nat) : List (Nat × Damage) :=
  consumptionFirst (l.flatMap fun p =>
    ((s.core p).landing m).filterMap fun x =>
      if x.dmg.cls = 0 ∨ x.dest = .none ∧ x.dmg.cls < 5 then none
      else if (s.core p).tolerates x.dmg.cls then none else some (p, x.dmg))

/-- The record of a damage met by agent `p`: class 5 is a fault of the access itself. Damage that an HBM sector
brought is detected by its stack's block, any other by the agent's (16 R391; log entry 51). -/
def State.damageRec (s : State) (p : Nat) (d : Damage) : Rec :=
  let r := s.recFor p d.record
  match d.block with
  | some b => { r with block := b }
  | none => r

/-- The record of a tolerated consumption (16 R398). -/
def State.toleratedRec (s : State) (p : Nat) (d : Damage) : Rec :=
  { s.damageRec p d with flags := flagTolerated, cpc := 0xFFFFFFFFFFFFFFFF }

/-- Records of the tolerated consumptions of a vc: each lands, whatever else the vc brings (16 R398). -/
def State.tolerated (s : State) (l : List Nat) (m : Nat) : List Rec :=
  l.flatMap fun p => ((s.core p).landing m).filterMap fun x =>
    if x.dmg.cls ≠ 0 ∧ x.dest ≠ .none ∧ (s.core p).tolerates x.dmg.cls then some (s.toleratedRec p x.dmg) else none

/-- Deliver the first of several consumptions; the others, and the records beside them, are appended (16 R397). -/
def State.consume (s : State) (l : List (Nat × Damage)) (beside : List Rec) : State :=
  match l with
  | [] => s.logSorted beside
  | (p, d) :: r => s.deliverAmong p (s.damageRec p d) (d.cls < 5) (r.map (fun x => s.damageRec x.1 x.2) ++ beside)

/-- Has an agent an atomic that performs at vc `m` on its own time? -/
def State.atomAt (s : State) (m p : Nat) : Bool :=
  (s.core p).pend.any fun x => x.perform == m && !x.late && !x.arrived && match x.src with | .atomic .. => true | _ => false

/-- Has an agent gated stores that perform at their release vc? -/
def State.gatesTimed (s : State) (p : Nat) : Bool := (s.core p).gate.any (s.timed p)

/-- The writes of one PVC, in ascending member index: each member's atomics, then, for a member that stands at a
checkpoint bundle before a later member's atomic, the stores that its release performs now (09 R245 (a); 11 R299). -/
def State.writesAt (m : Nat) (ck : List Nat) : List Nat → State → State
  | [], s => s
  | p :: r, s =>
    let s := s.performPhase p m ck true
    let s := if ck.contains p && s.gatesTimed p && r.any (s.atomAt m) && (s.checkGate p).2.isNone then
        s.releaseSome p (s.timed p) else s
    State.writesAt m ck r s

/-- Does the order of the writes of vc `m` need a release before its bundle has issued? -/
def State.early (s : State) (m : Nat) (ck : List Nat) : List Nat → List Nat
  | [] => []
  | p :: r => (if ck.contains p && s.gatesTimed p && r.any (s.atomAt m) then [p] else []) ++ s.early m ck r

/-- RESULT_LANDING for the agents of one vc count: signals, the accesses that perform at this vc, and
the results due; `ck` are the members that stand at a checkpoint bundle. A consumption is delivered in
place of the bundle; nothing of that vc lands. -/
def State.landAll (s : State) (l : List Nat) (m : Nat) (ck : List Nat) : State :=
  let s := l.foldl (fun s p => s.landSigs p m) s.holdRecs
  let s := State.writesAt m ck l s
  let s := l.foldl (fun s p => s.performPhase p m ck false) s
  let told := s.held.getD [] ++ s.tolerated l m
  let s := { s with held := none }
  match s.consumed l m with
  | [] =>
    let s := s.logTogether told
    l.foldl (fun s p =>
      let due := (s.core p).landing m
      let s := s.updCore p fun c => { c with pend := c.pend.filter fun x => x.land != m, holdAt := true }
      due.foldl (fun s x => s.landOne p x) s) s
  | c =>
    let s := l.foldl (fun s p => s.updCore p fun k => { k with holdAt := true }) s
    let p := l.headD 0
    let s := if c.all (fun x => x.2.cls == 5) && s.oneSided p (c.map (·.1)) then (s.logTogether told).differ p (s.core p).pc
      else s.consume c told
    l.foldl (fun s p => s.updCore p fun k =>
      if k.halted || k.stopped then { k with pend := k.pend.filter fun x => x.land != m } else k) s

end Sys2Proof.Machine
end

