-- ==== Sys2Proof/Machine/Checks.lean ====
section
/-! DEFINITION. What an instruction's fields say about its bundle: stream ports it pops and pushes, queue places,
the operands that a tandem pair compares (06 R157; 08 R210; 10 R278 to R293; 16 R406). -/

namespace Sys2Proof

open Machine

/-- Ports that an LGOP pops and pushes (06 R157). -/
def Instr.streams (i : Instr) : Option Nat × Option Nat :=
  let take := fun (q : Bool) (r : BitVec 5) => if q then some (r.toNat % 8) else none
  match i with
  | .vadd d a _ _ qd qa | .vsub d a _ _ qd qa | .vmul d a _ _ qd qa | .vmulh d a _ _ qd qa
  | .vmin d a _ _ qd qa | .vmax d a _ _ qd qa | .vand d a _ _ qd qa | .vor d a _ _ qd qa
  | .vxor d a _ _ qd qa | .vshl d a _ _ qd qa | .vshr d a _ _ qd qa | .vsra d a _ _ qd qa
  | .vfadd d a _ _ qd qa | .vfsub d a _ _ qd qa | .vfmul d a _ _ qd qa | .vfmin d a _ _ qd qa
  | .vfmax d a _ _ qd qa | .vcvt d a _ _ qd qa | .vcvtTwq d a _ _ qd qa | .vcvtm d a _ _ qd qa
  | .vscale d a _ _ qd qa => (take qa a, take qd d)
  | .vnot d a _ qd qa | .vabs d a _ qd qa | .vneg d a _ qd qa | .vfabs d a _ qd qa | .vfneg d a _ qd qa
  | .vfrcp d a _ qd qa | .vfrsq d a _ qd qa | .vfexp2 d a _ qd qa | .vflog2 d a _ qd qa | .vftanh d a _ qd qa
  | .vfsigm d a _ qd qa | .vmov d a _ qd qa => (take qa a, take qd d)
  | .vsel d a _ _ _ qd qa | .vfma d a _ _ _ qd qa | .vfms d a _ _ _ qd qa | .vfnma d a _ _ _ qd qa => (take qa a, take qd d)
  | .vcmpEq _ a _ _ qa | .vcmpNe _ a _ _ qa | .vcmpLt _ a _ _ qa | .vcmpLe _ a _ _ qa | .vcmpGt _ a _ _ qa
  | .vcmpGe _ a _ _ qa | .vfcmpEq _ a _ _ qa | .vfcmpNe _ a _ _ qa | .vfcmpLt _ a _ _ qa
  | .vfcmpLe _ a _ _ qa | .vfcmpGt _ a _ _ qa | .vfcmpGe _ a _ _ qa => (take qa a, none)
  | .vmovi d _ _ qd | .vmovs d _ _ qd => (none, take qd d)
  | _ => (none, none)

/-- Does the operation take a place in the operand queue (08 R210)? -/
def Instr.queues : Instr → Bool
  | .mcall _ | .mspill _ | .mfill _ | .mtrue | .mfence => true
  | _ => false

/-- Does the operation read a metadata word: every M-slot operation (04 R88)? -/
def Instr.takesMeta : Instr → Bool
  | .mcall _ | .mspill _ | .mfill _ | .mtrue | .mfence | .mrmin .. | .mrmax .. | .mrank .. | .mtopk .. | .mqry .. => true
  | _ => false

/-- Is the operation a gather, which takes the vault for 32 vc (10 R273)? -/
def Instr.gathers : Instr → Bool
  | .vldx .. => true
  | _ => false

/-- Own-vault reads that an operation makes at its issue: address register and bytes (10 R278, R292). -/
def Instr.readsAtIssue : Instr → Option (BitVec 4 × Nat)
  | .bind _ a => some (a, 64)
  | .send a _ ln _ _ => some (a, 8 * (ln.toNat + 1))
  | _ => none

/-- When an operation of a bundle acts among those of its vc: a wait for a counter, which may be abandoned or fault, and a
read of one stand before the hub's irrevocable operations, which may fault, and those before what cannot (02 R45). -/
def Instr.stage : Instr → Nat
  | .hwaitc .. | .hreadc .. | .hreadcSt .. => 0
  | .hlaunch .. | .hlaunchSealg .. | .hlaunchSealp | .hlaunchEnd | .hcancel .. | .hsetc .. | .hsetcAdd .. | .hstop ..
  | .hstopU .. | .hctx .. | .hctxKill .. | .hctxHold .. | .hctxRun .. | .hdeal .. | .hdealE .. | .hdealRing .. => 1
  | _ => 2

/-- Addresses and source operands of an operation that is irrevocable in a class of 02 R45. -/
def Instr.operands (c : Core) (i : Instr) : Option (List Word) :=
  let far := fun (a : BitVec 4) => spaceOf (c.ga a) != 0
  let atom := fun (d : BitVec 5) (a : BitVec 4) (l : List Word) => if d != 0 || far a then some (c.ga a :: l) else none
  match i with
  | .atomAdd d a ss .. | .atomMin d a ss .. | .atomMax d a ss .. | .atomAnd d a ss .. | .atomOr d a ss ..
  | .atomXor d a ss .. | .atomSwap d a ss .. => atom d a [c.gs ss]
  | .atomCas d a ss sc .. => atom d a [c.gs ss, c.gs sc]
  | .atomFadd a ss _ => atom 0 a [c.gs ss]
  | .wcinit a _ => atom 0 a []
  | .hlaunch _ a | .hlaunchSealg a | .hcancel a | .hstop a | .hctx _ a | .hctxKill a | .hctxHold a | .hctxRun a
  | .hdealE _ a => some [c.gs a]
  | .hlaunchSealp | .hlaunchEnd => some []
  | .hsetc a b | .hsetcAdd a b | .hstopU a b | .hdeal _ a b | .hdealRing a b => some [c.gs a, c.gs b]
  | .send a st .. => some [c.ga a, c.gs st]
  | .mcall _ => if (c.gmp 5).setWidth 2 == (3 : BitVec 2) then some ((seqFrom 0 8).map c.gmp) else none
  | .gst r a .. => some [c.ga a, c.gs r]
  | .cxopen a .. => some [c.ga a]
  | .cxclose => some []
  | _ => none

/-- Is a machine step one that an engine, a hub, a sensor, a die or the world outside makes on its own? The steps of a
bundle, a routine or an access act only within it, and GTC_MATCH at the GTC's own edges. -/
def Instr.spontaneous : Instr → Bool
  | .snapshotGtcMatch | .snapshotPin | .snapshotLatch | .powerEstimate | .powerEmergencyStep
  | .telemetryRecord | .ptpCommitApply | .resetPin | .invalidationComplete | .powerOn | .holdEnd ..
  | .storePerform .. | .auditReplay .. | .launchReady .. | .unitStart .. | .unitRetire .. | .hubAnswer ..
  | .sliceCheck .. | .unitSave .. | .resume .. | .engineOpComplete .. | .tileOpStart .. | .tileOpComplete ..
  | .collComplete .. | .messageDelivered .. | .tlsigEffect .. | .lineFill .. | .pageWalk ..
  | .streamReadAhead .. | .streamWriteDrain .. | .parityUpdate .. | .stackLost .. | .truingIntervalExpiry ..
  | .tempUpdate .. | .truingRoundStart .. | .truingRunEnd .. | .snaphwTrig ..
  | .thermalStep .. | .freqSet .. | .ptpCommit .. | .warmReset .. | .coldReset .. | .semcas ..
  | .hrouteWrite .. | .linkForm .. | .tictlGo .. | .trdataRead .. | .trdataWrite .. | .jstart ..
  | .doffreq .. | .vforce .. | .dieOfflineTimeout .. | .railFault .. | .portStateChange .. | .flitReceived ..
  | .portShed .. | .viralFlitReceived .. | .incomingAccess .. | .hostMemAccess .. | .registerWrite .. => true
  | _ => false

namespace Machine

/-- The agent in whose name a machine step acts: whose access performs, whose engine, port, tile or vault it moves, whose
message or signal it carries; no agent for a step of a hub, a sensor, a die or the world outside (13 R362; 16 R391). -/
def State.actorOf (s : State) (i : Instr) : Nat :=
  match i with
  | .holdEnd p | .storePerform p _ | .engineOpComplete p _ | .streamReadAhead p _ | .streamWriteDrain p _ => p
  | .lineFill q _ | .tileOpStart q | .tileOpComplete q => q
  | .messageDelivered i => ((s.mesh[i]?).map (·.sender)).getD noAgent
  | .tlsigEffect i => ((s.sigs[i]?).map (·.sender)).getD noAgent
  | .collComplete i => ((s.colls[i]?).map fun c => if c.peer.isSome then noAgent else c.agent).getD noAgent
  | _ => noAgent

end Machine

end Sys2Proof
end

