-- ==== Sys2Proof/Machine/Flags.lean ====
section
/-! DEFINITION. Truth values: comparisons of scalar and vector operands, predicates, masks, and the event
bits (05 R119 to R124, R147; 06 R155, R161, R163). -/

namespace Sys2Proof.Machine

open Sys2Proof

/-- 1 or 0 (05 R119). -/
def boolWord (b : Bool) : Word := if b then 1 else 0

/-- The six comparisons, shared by scalar and vector forms. -/
inductive Rel where
  | eq | ne | lt | le | gt | ge
  deriving DecidableEq, Repr

/-- A comparison of integers (05 R124, 06 R161). -/
def Rel.int (r : Rel) (x y : Int) : Bool :=
  match r with
  | .eq => x == y | .ne => x != y | .lt => decide (x < y) | .le => decide (x ≤ y) | .gt => decide (y < x) | .ge => decide (y ≤ x)

/-- A comparison of floating-point values (06 R163): with a NaN operand only "not equal" holds. -/
def Rel.num (r : Rel) (x y : Exact) : Bool :=
  if x = .nan ∨ y = .nan then r == .ne else r.int (x.cmp y) 0

/-- A scalar comparison, signed or unsigned. -/
def Rel.word (r : Rel) (signed : Bool) (x y : Word) : Bool :=
  if signed then r.int x.toInt y.toInt else r.int x.toNat y.toNat

/-- EVT.RECV: a message that has not been popped waits (05 R147, 10 R293). -/
def Core.hasMsg (c : Core) : Bool := !c.errq.isEmpty || !c.recvq.isEmpty

/-- EVT as it reads. -/
def Core.evtNow (c : Core) : Word := (c.evt &&& 0x1E).setWidth 64 ||| boolWord c.hasMsg

/-- Is an enabled event pending (05 R151)? -/
def Core.eventPending (c : Core) : Bool := c.evtNow &&& c.evmask != 0

/-- STAT and ESTAT (05 R146). -/
def Core.stat (c : Core) : Word := boolWord c.sv ||| (boolWord c.snapen <<< 1)
def Core.estat (c : Core) : Word := boolWord c.psv

/-- Lanes as mask bits. -/
def maskOf (l : List (Nat × Bool)) : BitVec 16 :=
  l.foldl (fun m x => if x.2 then m ||| (1#16 <<< x.1) else m) 0

/-- Mask bits of the lanes listed. -/
def selOf (l : List Nat) : BitVec 16 := l.foldl (fun m i => m ||| (1#16 <<< i)) 0

end Sys2Proof.Machine
end

