-- ==== Sys2Proof/Machine/Place.lean ====
section
/-! DEFINITION. The deal: eligible peloton slots, the place of a unit, system registers
(01 R24; 02 R35, R36, R49; 05 R144 to R147; 12 R319). -/

namespace Sys2Proof.Machine

open Sys2Proof

/-! ### Eligible slots (02 R35) -/

/-- Consecutive pairs. -/
def pairsOf : List Nat → List (List Nat)
  | a :: b :: r => [a, b] :: pairsOf r
  | _ => []

/-- Pelotons of `n` cores of cluster `c` of V-die `d`. -/
def State.slotsIn (s : State) (d c n : Nat) : List (List Nat) :=
  let cores := (seqFrom (36 * d + 4 * c) 4).filter s.enabled
  match n with
  | 4 => if cores.length = 4 then [cores] else []
  | 2 => pairsOf cores
  | _ => cores.map fun p => [p]

/-- EligibleSlots(dies, n). -/
def State.eligible (s : State) (dies : BitVec 8) (n : Nat) : List (List Nat) :=
  ((seqFrom 0 8).filter dies.getLsbD).flatMap fun d => (seqFrom 0 9).flatMap fun c => s.slotsIn d c n

/-- Cores of a slot of a launch: a tandem pair counts as one slot of both sides (02 R49). -/
def slotSize (mode size : Nat) : Nat := if mode = 2 then 2 * size else size

/-- Eligible slots of a launch. -/
def State.slotsOf (s : State) (y : Launch) : List (List Nat) := s.eligible y.dies (slotSize y.mode y.size)

/-- E and round of a unit (02 R36). -/
def State.eOf (s : State) (y : Launch) : Nat := (s.slotsOf y).length
def State.roundOf (s : State) (y : Launch) (u : Nat) : Nat := u / s.eOf y

/-! ### System registers (05 R145) -/

/-- Access of a mode to a system register: 0 none, 1 rd, 2 rw, 3 w1c, 4 wo. -/
def sysKind (n : Nat) (sv : Bool) : Option Nat :=
  if n ≤ 0x0C then some 1
  else if n = 0x10 then some (if sv then 2 else 1)
  else if 0x11 ≤ n ∧ n ≤ 0x14 then some (if sv then 2 else 0)
  else if n = 0x18 then some 3
  else if n = 0x19 ∨ n = 0x1A then some 2
  else if n = 0x1B then some 4
  else if n = 0x20 ∨ n = 0x21 then some 1
  else if 0x40 ≤ n ∧ n < 0x80 ∧ n % 8 ≤ 5 then some 1
  else none

/-- The unit's launch, if it still exists. -/
def State.myLaunch (s : State) (p : Nat) : Option Launch :=
  match (s.core p).unit with | some (c, l, _) => s.launchOf c l | none => none

/-- A system register as agent `p` reads it (05 R145, 12 R319). -/
def State.sysReg (s : State) (p n : Nat) : Word :=
  let c := s.core p
  let u := s.unitOf p
  let slot := isSlot p
  let hub := fun (x : Word) => if slot then Config.slotReg n (p - slotBase) else x
  let no := match u with | some r => r.u | none => 0
  match n with
  | 0x00 => s.gtc
  | 0x01 => BitVec.ofNat 64 c.vc
  | 0x02 => if slot then 0 else BitVec.ofNat 64 (s.midx p)
  | 0x03 => if slot then 1 else match u with | some r => BitVec.ofNat 64 r.size | none => 1
  | 0x04 => hub (BitVec.ofNat 64 (s.modeOf p))
  | 0x05 => hub (match u with | some r => r.ucnt | none => 0)
  | 0x06 => if slot then 0 else BitVec.ofNat 64 no
  | 0x07 => if slot then 0 else match s.myLaunch p with | some y => BitVec.ofNat 64 (s.roundOf y no) | none => 0
  | 0x08 => if slot then 0 else match c.unit with | some (_, l, _) => BitVec.ofNat 64 l | none => 0
  | 0x09 => BitVec.ofNat 64 (s.ctxOf p)
  | 0x0A => hub (BitVec.ofNat 64 p)
  | 0x0B => hub (BitVec.ofNat 64 (s.lcore p + 256 * (p / 36)))
  | 0x0C => BitVec.ofNat 64 (0x4800 + 65536 * s.stepping.toNat)
  | 0x10 => c.stat
  | 0x11 => c.epc
  | 0x12 => c.estat
  | 0x13 => c.ecode.setWidth 64
  | 0x14 => c.svec.setWidth 64
  | 0x18 => c.evtNow
  | 0x19 => c.evmask
  | 0x1A => c.evgtc
  | 0x20 => BitVec.ofNat 64 c.loops.length
  | 0x21 => match c.loops.getLast? with | some l => l.count | none => 0
  | _ =>
    if 0x40 ≤ n ∧ n < 0x80 then
      (if n % 8 = 0 then s.harvest ((n - 0x40) / 8) else s.lpct ((n - 0x40) / 8) (n % 8 - 1))
    else 0

/-- System registers whose values the auditor logs as inputs (16 R407). -/
def sysLogged (n : Nat) : Bool := n == 0 || n == 0x0A || n == 0x0B || n == 0x18 || 0x40 ≤ n

/-- Arm or disarm the GTC comparison (05 R147). -/
def Core.putEvgtc (c : Core) (v : Word) : Core := { c with evgtc := v, armed := v != BitVec.allOnes 64 }

/-- A system register written by its access kind, EVSET apart (05 R145, R146). A bit of EVT cleared here at
vc n and rung for PVC n + 1 (R148) stands set after both: the ring comes later (DEDUCED, log 113). -/
def Core.sysPut (c : Core) (n : Nat) (v : Word) : Core :=
  match n with
  | 0x10 => { c with snapen := v.getLsbD 1 }
  | 0x11 => { c with epc := v }
  | 0x12 => { c with psv := v.getLsbD 0 }
  | 0x13 => { c with ecode := v.setWidth 16 }
  | 0x14 => { c with svec := v.setWidth 9 }
  | 0x18 => { c with evt := c.evt &&& ~~~(v.setWidth 5 &&& 0x1E) }
  | 0x19 => { c with evmask := v }
  | 0x1A => c.putEvgtc v
  | _ => c

/-- A write of EVSET by agent `p`: EVT.PEER of each named member at PVC n + 1, or in SOLO mode at a later
wall instant (05 R148). -/
def State.ringPeers (s : State) (p : Nat) (v : Word) : State :=
  let l := s.membersOf p
  let due := if s.modeOf p = 0 then none else some ((s.core p).vc + 1)
  let ms := l.filter fun m => v.getLsbD (s.midx m)
  let pos := 16 * (s.core p).vc + s.cur.slot.toNat
  { s with sigs := s.sigs ++ ms.map fun m => { sender := p, target := m, k := 8, val := 0, due := due, pos := pos } }

end Sys2Proof.Machine
end

