-- ==== Sys2Proof/Machine/Control.lean ====
section
/-! DEFINITION. Control transfers, matrix parameters, system registers, modes, fences of fetch, snapshots
and waiting (05 R125 to R131, R137 to R151; 17 R415). -/

namespace Sys2Proof.Machine

open Sys2Proof

/-! ### Checks and parts shared by several operations -/

/-- Cause 0x29: the operation must stand in a checkpoint bundle. -/
def State.placed (s : State) : Option Use := orUse s.me.inIssue.ck (s.use { cause := 0x29 })

/-- Cause 0x22: an irrevocable operation must stand in a checkpoint bundle. -/
def State.inCk (s : State) : Option Use := orUse s.me.inIssue.ck (s.use { cause := 0x22 })

/-- Cause 0x27 in program mode. -/
def State.privileged (s : State) (ok : Bool) : Option Use := orUse (s.cur.sv || ok) (s.use { cause := 0x27 })

/-- Cause 0x2A. -/
def State.inLimit (s : State) (ok : Bool) : Option Use := orUse ok (s.use { cause := 0x2A })

/-- The sequential successor of the bundle in issue (05 R125). -/
def Core.succ (c : Core) : Word := c.inIssue.word + BitVec.ofNat 64 c.inIssue.len

/-- A taken transfer; it acts with the bundle's last repetition (05 R125). -/
def Core.take (c : Core) (t : Word) (kind : Nat) : Core := { c with taken := some { target := t, kind := kind } }

/-- A result for s[d] in the next vc, and a transfer (call). -/
def State.go (s : State) (t : Word) (kind : Nat) : State := s.upd fun c => c.take t kind

/-- The words of a core that a copy wrote and drained become usable (05 R149; 18 R442). -/
def State.fenceFetch (s : State) (p : Nat) : State :=
  let mine := fun (k : Nat) => (ispAddr p 0 ≤ k && k < ispAddr (p + 1) 0) ||
    (microAddr p 0 ≤ k && k < microAddr (p + 1) 0) || (hcwAddr p 0 ≤ k && k < hcwAddr (p + 1) 0)
  { s with stale := s.stale.filter fun x => !(x.drained && mine x.key) }

/-! ### Transfers (05 R125 to R131) -/

/-- Check of br, brp, brp.n, call and bswap: the target lies in its window. -/
def chkTarget (w : Bool) (t : BitVec 12) (s : State) : Option Use := s.inLimit (targetOk w t)

/-- br: transfer to the target; levels it leaves are popped (05 R126, R129). -/
def execBr (w : Bool) (t : BitVec 12) (s : State) : Host.Outcome State Fault Refusal :=
  guarded s (chkTarget w t s) (s.go (target w t) 1)

/-- brp: transfer if p[pa] is 1 (05 R126). -/
def execBrp (p : BitVec 3) (w : Bool) (t : BitVec 12) (s : State) : Host.Outcome State Fault Refusal :=
  guarded s (chkTarget w t s) (if s.me.gp p then s.go (target w t) 1 else s)

/-- brp.n: transfer if p[pa] is 0 (05 R126). -/
def execBrpN (p : BitVec 3) (w : Bool) (t : BitVec 12) (s : State) : Host.Outcome State Fault Refusal :=
  guarded s (chkTarget w t s) (if s.me.gp p then s else s.go (target w t) 1)

/-- call: the link lands at vc n + 1; transfer (05 R126). -/
def execCall (r : BitVec 5) (w : Bool) (t : BitVec 12) (s : State) : Host.Outcome State Fault Refusal :=
  guarded s (chkTarget w t s) ((s.landS r s.me.succ 1).go (target w t) 0)

/-- ret: transfer to the word in s[sa] (05 R127). -/
def execRet (r : BitVec 5) (s : State) : Host.Outcome State Fault Refusal :=
  .next (s.go (s.me.gs r) 0)

/-- Checks of loop (17 R415 causes 0x2A, 0x2B). -/
def chkLoop (r : BitVec 5) (w : Bool) (t : BitVec 12) (s : State) : Option Use :=
  let c := s.me
  let x := (target w t).toNat
  firstUse [
    s.inLimit (targetOk w t && c.succ.toNat < x &&
      (match c.loops.getLast? with | some l => x ≤ l.stop.toNat | none => true)),
    orUse (c.gs r == 0 || c.loops.length < 4) (s.use { cause := 0x2B })]

/-- loop: push a level, or with a count of 0 end as a bundle whose successor is the target (05 R128). -/
def execLoop (r : BitVec 5) (w : Bool) (t : BitVec 12) (s : State) : Host.Outcome State Fault Refusal :=
  let n := s.me.gs r
  guarded s (chkLoop r w t s)
    (if n = 0 then s.go (target w t) 2
     else s.upd fun c => { c with loopPush := some { start := c.succ, stop := target w t, count := n } })

/-- bswap: ISPSEL inverted, loop levels popped, ifence, transfer, in one step with the bundle's last
repetition (05 R130). -/
def execBswap (w : Bool) (t : BitVec 12) (s : State) : Host.Outcome State Fault Refusal :=
  guarded s (chkTarget w t s) (s.go (target w t) 3)

/-- halt: the member issues nothing more; stores of its bundle are released once more (05 R131). -/
def execHalt (s : State) : Host.Outcome State Fault Refusal :=
  guarded s s.placed (s.go 0 4)

/-- nop (05 R122). -/
def execNop (s : State) : Host.Outcome State Fault Refusal := .next s

/-! ### Matrix parameters, format, metadata pointer (05 R137 to R139) -/

/-- mp[k] := s[sa], latency 1 (05 R137). -/
def execMsetp (k : BitVec 3) (a : BitVec 5) (s : State) : Host.Outcome State Fault Refusal :=
  .next (s.land (.mp k.toNat) (.word (s.me.gs a)) 1)

/-- s[sd] := mp[k], latency 1 (05 R137). -/
def execMgetp (d : BitVec 5) (k : BitVec 3) (s : State) : Host.Outcome State Fault Refusal :=
  .next (s.landS d (s.me.gmp k.toNat) 1)

/-- Check of setfmt: bits [63:7] 0, WF not 3, AF not 7 (17 R415 cause 0x2A). -/
def chkSetfmt (a : BitVec 5) (s : State) : Option Use :=
  let v := (s.me.gs a).toNat
  s.inLimit (v < 128 && nbits v 3 2 != 3 && nbits v 0 3 != 7)

/-- FMT := s[sa], latency 4 (05 R138). -/
def execSetfmt (a : BitVec 5) (s : State) : Host.Outcome State Fault Refusal :=
  guarded s (chkSetfmt a s) (s.land .fmt (.word (s.me.gs a)) 4)

/-- Check of setmpc: a word of the resident region or of the fetch window. -/
def chkSetmpc (a : BitVec 5) (s : State) : Option Use := s.inLimit (codeRange (s.me.gs a))

/-- MPC := s[sa], latency 1 (05 R139). -/
def execSetmpc (a : BitVec 5) (s : State) : Host.Outcome State Fault Refusal :=
  guarded s (chkSetmpc a s) (s.land .mpc (.word (s.me.gs a)) 1)

/-- s[sd] := MPC before this vc's advance (05 R139). -/
def execGetmpc (d : BitVec 5) (s : State) : Host.Outcome State Fault Refusal :=
  .next (s.landS d s.me.mpc 1)

/-! ### System registers (05 R144 to R148) -/

/-- The fault of a system register access: cause 0x28 for a number not in R145, or for a write where the
mode may only read; 0x27 for a register without access and for STAT in program mode (17 R415). -/
def chkSys (n : BitVec 16) (wr : Bool) (s : State) : Option Use :=
  let u := fun (c : Nat) => some (s.use { cause := c, wh := n.toNat })
  match sysKind n.toNat s.cur.sv with
  | none => u 0x28
  | some 0 => u 0x27
  | some 1 => if wr then (if n = 0x10 then u 0x27 else u 0x28) else none
  | some _ => none

/-- s[sd] := the register, sampled at issue; in tandem mode the primary's value (05 R144). EVSET reads 0. -/
def execSysrd (d : BitVec 5) (n : BitVec 16) (s : State) : Host.Outcome State Fault Refusal :=
  let p := s.cur.core
  let v := s.sysReg (s.primary p) n.toNat
  guarded s (chkSys n false s) ((if sysLogged n.toNat then s.auditIn p (toBytes 8 v.toNat) else s).landS d v 1)

/-- Write the register by its access kind, effective at vc n + 1 (05 R144 to R148). -/
def execSyswr (n : BitVec 16) (a : BitVec 5) (s : State) : Host.Outcome State Fault Refusal :=
  let v := s.me.gs a
  guarded s (chkSys n true s)
    (if n = 0x1B then s.ringPeers s.cur.core v else s.upd fun c => c.sysPut n.toNat v)

/-- The effect of syswr EVSET, sa (05 R148). -/
def execEvset (a : BitVec 5) (s : State) : Host.Outcome State Fault Refusal :=
  .next (s.ringPeers s.cur.core (s.me.gs a))

/-- The effect of syswr EVGTC, sa: arm the comparison, or disarm it (05 R147). -/
def execEvgtcWrite (a : BitVec 5) (s : State) : Host.Outcome State Fault Refusal :=
  .next (s.upd fun c => c.putEvgtc (s.me.gs a))

/-! ### Modes (05 R140 to R142) -/

/-- trap: ECODE, EPC, PSV and SV are written, and control goes to SVEC (05 R141). -/
def execTrap (code : BitVec 16) (s : State) : Host.Outcome State Fault Refusal :=
  guarded s s.placed
    (s.upd fun c => { (c.enterTrap c.succ code).take c.handler 0 with needCk := true })

/-- Checks of tret: a checkpoint bundle, supervisor mode. -/
def chkTret (s : State) : Option Use := firstUse [s.placed, s.privileged false]

/-- tret: the mode from ESTAT.PSV, control to EPC (05 R142); a hub program slot stays in supervisor mode (05 R140; 12
R319). -/
def execTret (s : State) : Host.Outcome State Fault Refusal :=
  let slot := isSlot s.cur.core
  guarded s (chkTret s) (s.upd fun c => { c.leaveTrap.take c.epc 0 with needCk := true, sv := slot || c.psv })

/-! ### Fetch, snapshots, waiting (05 R149 to R151) -/

/-- ifence: later bundles and metadata words are taken afresh (05 R149). -/
def execIfence (s : State) : Host.Outcome State Fault Refusal := .next (s.fenceFetch s.cur.core)

/-- Check of snap: in program mode only with STAT.SNAPEN (05 R150). -/
def chkSnap (s : State) : Option Use := s.privileged s.me.snapen

/-- snap: the common trigger, with the GTC of the issue, TAG and PCORE (05 R150; 13 R358). -/
def execSnap (tag : BitVec 8) (s : State) : Host.Outcome State Fault Refusal :=
  guarded s (chkSnap s) (s.trigger 0 tag s.cur.core)

/-- Checks of wfe: a checkpoint bundle with no slot but S and P. -/
def chkWfe (s : State) : Option Use :=
  orUse (s.me.inIssue.ck && s.me.inIssue.slots.all (fun x => x.1 == 2)) (s.use { cause := 0x29 })

/-- wfe: the bundle completes once each member that has not halted finds an event pending; until then
it issues again at the next vc (05 R151). -/
def execWfe (s : State) : Host.Outcome State Fault Refusal :=
  let go := (s.lock s.cur.core).all fun m => (s.core m).halted || (s.core m).eventPending
  guarded s (chkWfe s) (if go then s else s.upd fun c => { c with again := true })

end Sys2Proof.Machine
end

