-- ==== Sys2Proof/Machine/Loads.lean ====
section
/-! DEFINITION. Loads and stores of the S slot's vault forms and gld, vector access, and the once-only rule
of irrevocable operations (05 R132 to R135; 10 R271 to R273; 17 R419 to R421). -/

namespace Sys2Proof.Machine

open Sys2Proof

/-- A result of the acting operation that performs `perf` and lands `lat` vc after its issue. -/
def State.fly (s : State) (d : Dest) (x : Src) (perf lat : Nat) (f : Pending → Pending) : State :=
  let cur := s.cur
  s.upd fun c => { c with pend := c.pend ++ [f
    { dest := d, src := x, issue := c.vc, ord := cur.slot.toNat, perform := c.vc + perf, land := c.vc + lat }] }

/-! ### Irrevocable operations (02 R45; 17 R419, R421) -/

/-- Key of the acting slot in the irrevocable record; a handler's keys stay apart (log entry 12). -/
def State.irrevKey (s : State) : Nat := s.cur.slot.toNat + (if s.cur.sv && !isSlot s.cur.core then 16 else 0)

/-- Did the acting slot's operation perform when its bundle completed before? -/
def State.donePreviously (s : State) : Bool := s.me.irrevNew.done.contains s.irrevKey

/-- Mark the acting slot's operation as performed. -/
def State.markDone (s : State) : State :=
  let k := s.irrevKey
  s.upd fun c => { c with irrevNew := { c.irrevNew with done := c.irrevNew.done ++ [k] } }

/-- Mark the acting slot's push or pop of the region stack as performed; it is taken back if the bundle does not complete
(17 R411 (b), R419 (c)). -/
def State.markSoft (s : State) : State :=
  let k := s.irrevKey
  s.markDone.upd fun c => { c with irrevNew := { c.irrevNew with soft := c.irrevNew.soft ++ [k] } }

/-- An irrevocable operation: performed once; on a re-issue of its completed bundle, and on a tandem
secondary, its recorded value lands instead. -/
def State.irrevocable (s : State) (d : Dest) (lat : Nat) (perform : State → State) : State :=
  let p := s.cur.core
  if s.donePreviously then s.land d (.recorded p s.irrevKey) lat
  else if s.secondary p then s.markDone.land d (.recorded (s.primary p) s.irrevKey) lat
  else perform s.markDone

/-- Note the value of the acting operation. -/
def State.noteVal (s : State) (v : Word) : State :=
  let k := s.irrevKey
  s.upd fun c => c.recordVal k v

/-! ### Vault loads and stores of the S slot (05 R132, R133) -/

/-- Checks of sld. -/
def chkSld (n : Nat) (a : BitVec 4) (imm : BitVec 16) (s : State) : Option Use :=
  s.localUse (s.eaS a imm).toNat n false

/-- sld: the own vault is read at vc n + 5, and the value lands sign-extended (05 R133). -/
def State.loadS (s : State) (n : Nat) (r : BitVec 5) (a : BitVec 4) (imm : BitVec 16) : Host.Outcome State Fault Refusal :=
  guarded s (chkSld n a imm s)
    (s.fly (.s r.toNat) (.load .l [{ key := 0, addr := (s.eaS a imm).toNat, width := n }] true false) 5 5 id)

/-- sld.b (05 R133). -/
def execSldB (r : BitVec 5) (a : BitVec 4) (imm : BitVec 16) (s : State) : Host.Outcome State Fault Refusal :=
  s.loadS 1 r a imm
/-- sld.h (05 R133). -/
def execSldH (r : BitVec 5) (a : BitVec 4) (imm : BitVec 16) (s : State) : Host.Outcome State Fault Refusal :=
  s.loadS 2 r a imm
/-- sld.w (05 R133). -/
def execSldW (r : BitVec 5) (a : BitVec 4) (imm : BitVec 16) (s : State) : Host.Outcome State Fault Refusal :=
  s.loadS 4 r a imm
/-- sld.d (05 R133). -/
def execSldD (r : BitVec 5) (a : BitVec 4) (imm : BitVec 16) (s : State) : Host.Outcome State Fault Refusal :=
  s.loadS 8 r a imm

/-- Cause 0x23: the gate buffer has room for `n` more entries (02 R41). -/
def State.gateUse (s : State) (n : Nat) : Option Use :=
  orUse (s.me.gateUsed + n ≤ 256) (s.use { cause := 0x23 })

/-- Checks of sst. -/
def chkSst (n : Nat) (a : BitVec 4) (imm : BitVec 16) (s : State) : Option Use :=
  firstUse [s.localUse (s.eaS a imm).toNat n true, s.gateUse 1]

/-- sst: one gated store of the low bytes of s[rd] (05 R133). -/
def State.storeS (s : State) (n : Nat) (r : BitVec 5) (a : BitVec 4) (imm : BitVec 16) : Host.Outcome State Fault Refusal :=
  guarded s (chkSst n a imm s)
    (s.gate .l (cellsAt (s.eaS a imm).toNat (toBytes n (s.me.gs r).toNat)) false)

/-- sst.b (05 R133). -/
def execSstB (r : BitVec 5) (a : BitVec 4) (imm : BitVec 16) (s : State) : Host.Outcome State Fault Refusal :=
  s.storeS 1 r a imm
/-- sst.h (05 R133). -/
def execSstH (r : BitVec 5) (a : BitVec 4) (imm : BitVec 16) (s : State) : Host.Outcome State Fault Refusal :=
  s.storeS 2 r a imm
/-- sst.w (05 R133). -/
def execSstW (r : BitVec 5) (a : BitVec 4) (imm : BitVec 16) (s : State) : Host.Outcome State Fault Refusal :=
  s.storeS 4 r a imm
/-- sst.d (05 R133). -/
def execSstD (r : BitVec 5) (a : BitVec 4) (imm : BitVec 16) (s : State) : Host.Outcome State Fault Refusal :=
  s.storeS 8 r a imm

/-! ### gld (05 R134, R135) -/

/-- Access width of the WID field of gld and gst. -/
def gWidth (wid : BitVec 2) : Nat := 2 ^ wid.toNat

/-- Checks of gld at issue. -/
def chkGld (a : BitVec 4) (off : BitVec 11) (wid : BitVec 2) (s : State) : Option Use :=
  s.globalUse (s.eaG a off) (gWidth wid) false

/-- gld: data due at vc n + 8, landing sign-extended when the hold ends (05 R135). -/
def execGld (r : BitVec 5) (a : BitVec 4) (off : BitVec 11) (wid : BitVec 2) (acq inv : Bool) (s : State) : Host.Outcome State Fault Refusal :=
  guarded s (chkGld a off wid s)
    (s.fly (.s r.toNat) (.load .g [{ key := 0, addr := (s.eaG a off).toNat, width := gWidth wid }] true inv) 8 8
      fun x => { x with late := true, row := 1, acq := acq })

/-! ### Vector access (10 R271, R272) -/

/-- Of cells for one byte the last prevails. -/
def lastCells : List (Nat × Byte) → List (Nat × Byte)
  | [] => []
  | x :: r => if r.any (fun y => y.1 == x.1) then lastCells r else x :: lastCells r

/-- Post-increment of the address register. -/
def State.postInc (s : State) (a : BitVec 4) (pi : Bool) (off : BitVec 10) : State :=
  if pi then s.landA a (s.me.ga a + BitVec.ofInt 64 (vecStep off)) else s

/-- Size of the space that an L- or C-space address names. -/
def State.spaceSize (s : State) (a : Word) : Nat := if spaceOf a = 1 then 0x800000 else localSize s.cur.core

/-- Cause 0x29 on a hub program slot for a C operation outside 12 R319. -/
def State.onCore (s : State) : Option Use := orUse (!isSlot s.cur.core) (s.use { cause := 0x29 })

/-- Checks of vld and vst; a hub program slot has neither (12 R319). -/
def chkVec (a : BitVec 4) (ms : BitVec 3) (wid gsc : BitVec 2) (pi : Bool) (off : BitVec 10) (wr : Bool) (s : State) : Option Use :=
  let t := s.me.ga a
  let l := s.vecOffs a ms wid gsc pi off
  firstUse [s.onCore, s.spaceUse t [0, 1] wr, s.lanesUse l (t.toNat / 2 ^ 23 * 2 ^ 23) (widBytes wid) (s.spaceSize t) wr,
    if wr then s.gateUse (distinct (l.flatMap fun x =>
      [x.2.toNat / 64, (x.2.toNat + widBytes wid - 1) / 64])).length else none]

/-- The lanes of a vector load as pieces. -/
def State.vecPieces (s : State) (v : BitVec 5) (t : Word) (l : List ((Nat × Nat) × Int)) (b : Nat) : List Piece :=
  l.map fun x => { key := vkey x.1.1 v.toNat x.1.2, addr := (s.formAddr t x.2.toNat).2, width := b }

/-- vld and vld.inv: read and landed at vc n + 6 from L-space, n + 14 from C-space; in SOLO mode a C-space
load performs at a wall instant before its landing (10 R272; 09 R247). -/
def State.loadVec (s : State) (v : BitVec 5) (a : BitVec 4) (ms : BitVec 3) (wid gsc : BitVec 2) (pi : Bool)
    (off : BitVec 10) (inv : Bool) : Host.Outcome State Fault Refusal :=
  let t := s.me.ga a
  let far := spaceOf t == 1
  let lat := if far then 14 else 6
  let ps := s.vecPieces v t (s.vecOffs a ms wid gsc pi off) (widBytes wid)
  let late := far && s.modeOf s.cur.core == 0
  guarded s (chkVec a ms wid gsc pi off false s)
    ((s.fly .lanes (.load (if far then .c else .l) ps false inv) lat lat
      fun x => { x with late := late, row := 4 }).postInc a pi off)

/-- vld (10 R272). -/
def execVld (v : BitVec 5) (a : BitVec 4) (msel : BitVec 3) (wid gsc : BitVec 2) (pi : Bool) (off : BitVec 10) (s : State) : Host.Outcome State Fault Refusal :=
  s.loadVec v a msel wid gsc pi off false

/-- vld.inv: vld with the invariant promise (10 R272; 11 R313). -/
def execVldInv (v : BitVec 5) (a : BitVec 4) (msel : BitVec 3) (wid gsc : BitVec 2) (pi : Bool) (off : BitVec 10) (s : State) : Host.Outcome State Fault Refusal :=
  s.loadVec v a msel wid gsc pi off true

/-- Cells that the active lanes of a vector store write. -/
def State.vecCells (s : State) (v : BitVec 5) (t : Word) (l : List ((Nat × Nat) × Int)) (b : Nat) : List (Nat × Byte) :=
  let c := s.me
  lastCells (l.flatMap fun x =>
    cellsAt (s.formAddr t x.2.toNat).2 (toBytes b (c.gv x.1.1 v.toNat x.1.2).toNat))

/-- vst: a gated store, one entry for each 64-byte block; the higher lane prevails (10 R272). -/
def execVst (v : BitVec 5) (a : BitVec 4) (msel : BitVec 3) (wid gsc : BitVec 2) (pi : Bool) (off : BitVec 10) (s : State) : Host.Outcome State Fault Refusal :=
  let t := s.me.ga a
  let cells := s.vecCells v t (s.vecOffs a msel wid gsc pi off) (widBytes wid)
  guarded s (chkVec a msel wid gsc pi off true s)
    ((s.gate (s.formAddr t 0).1 cells false).postInc a pi off)

/-! ### Gather and scatter (10 R273) -/

/-- Does some bank need more than 32 of these lines? -/
def bankOver (lines : List Nat) : Bool := (seqFrom 0 8).any fun b => 32 < (lines.filter (· % 8 == b)).length

/-- Checks of vldx and vstx; a hub program slot has neither (12 R319). -/
def chkIdx (vi : BitVec 5) (a : BitVec 4) (ms : BitVec 3) (wid sc : BitVec 2) (wr : Bool) (s : State) : Option Use :=
  let t := s.me.ga a
  let l := s.idxOffs vi a ms sc
  let lines := linesOfOffs (l.map fun x => x.2.toNat)
  firstUse [s.onCore, s.spaceUse t [0] wr, s.lanesUse l 0 (widBytes wid) (localSize s.cur.core) wr,
    if wr then s.gateUse lines.length else orUse (!bankOver lines) (s.useAt 0x24 t.toNat)]

/-- vldx: every lane reads at vc n + 31 and lands at n + 38; the vault is taken from n to n + 31 (10 R273). -/
def execVldx (v vi : BitVec 5) (a : BitVec 4) (msel : BitVec 3) (wid sc : BitVec 2) (s : State) : Host.Outcome State Fault Refusal :=
  let ps := s.vecPieces v 0 (s.idxOffs vi a msel sc) (widBytes wid)
  guarded s (chkIdx vi a msel wid sc false s)
    ((s.fly .lanes (.load .l ps false false) 31 38 id).upd fun c => { c with gatherAt := some c.vc })

/-- vstx: a gated store, one entry for each distinct 64-byte block (10 R273). -/
def execVstx (v vi : BitVec 5) (a : BitVec 4) (msel : BitVec 3) (wid sc : BitVec 2) (s : State) : Host.Outcome State Fault Refusal :=
  let cells := s.vecCells v 0 (s.idxOffs vi a msel sc) (widBytes wid)
  guarded s (chkIdx vi a msel wid sc true s) (s.gate .l cells false)

end Sys2Proof.Machine
end

