-- ==== Sys2Proof/Machine/Cslot.lean ====
section
/-! DEFINITION. The C slots: copies, stream ports, atomics and wide cells, timelines, fences, drains, mapped
regions, messages, collectives, containment regions and the audit controls, as they issue
(10 R268 to R294; 16 R401, R405). -/

namespace Sys2Proof.Machine

open Sys2Proof

/-! ### Checks shared by several operations -/



/-- Cause 0x26: an operand whose space a numbered operation does not accept (10 R268, R277). -/
def State.acceptUse (s : State) (a : Word) (accept : List Nat) (target : Bool) : Option Use :=
  let sp := spaceOf a
  orUse (accept.contains sp && !(isSlot s.cur.core && sp == 1) && !(target && sp == 3 && !s.pathAllowed a))
    (s.useAt 0x26 a.toNat)

/-- An operand that accepts only G-space takes either form of 09 R240 (causes 0x26, 0x05). -/
def State.gOnlyUse (s : State) (a : Word) : Option Use :=
  firstUse [orUse (spaceOf a == 0 || spaceOf a == 2) (s.useAt 0x26 a.toNat),
            orUse (nbits a.toNat 56 6 == 0) (s.useX 5 false a.toNat)]

/-- Operations of a copy engine that have issued and not completed. -/
def Core.engOps (c : Core) (e : Nat) : List EngOp := match e with | 0 => c.eng0 | 1 => c.eng1 | _ => c.eng3
/-- Set them. -/
def Core.setEng (c : Core) (e : Nat) (l : List EngOp) : Core :=
  match e with | 0 => { c with eng0 := l } | 1 => { c with eng1 := l } | _ => { c with eng3 := l }
/-- Issue count of a timeline (10 R269). -/
def Core.count (c : Core) (e : Nat) : Nat := match e with | 0 => c.n0 | 1 => c.n1 | _ => c.n3
/-- Advance it. -/
def Core.bump (c : Core) (e : Nat) : Core :=
  match e with | 0 => { c with n0 := c.n0 + 1 } | 1 => { c with n1 := c.n1 + 1 } | _ => { c with n3 := c.n3 + 1 }

/-- Cause 0x2D: more than 32 operations on a copy engine, or 8 on the collective engine (10 R270). -/
def State.roomUse (s : State) (e : Nat) : Option Use :=
  orUse ((s.me.engOps e).length < (if e = 3 then 8 else 32)) (s.use { cause := 0x2D })

/-- Engine of the ENG field. -/
def engOf (b : Bool) : Nat := if b then 1 else 0

/-- Give an operation the next number of engine `e`; the number lands in s[SN] at vc n + 1 (10 R269). -/
def State.submit (s : State) (e : Nat) (sn : BitVec 5) (o : EngOp) : State :=
  let n := s.me.count e + 1
  let o := { o with num := n, sv := s.cur.sv }
  (s.upd fun c => (c.bump e).setEng e (c.engOps e ++ [o])).landS sn (BitVec.ofNat 64 n) 1

/-! ### Copies (10 R274) -/

/-- Checks of the copies: spaces, room, and the alignment and limits of the parameters. -/
def chkCopy (sub : Nat) (ad as : BitVec 4) (sl : BitVec 5) (eng : Bool) (s : State) : Option Use :=
  let c := s.me
  let p1 := c.gs sl
  let p2 := (c.gs (sl + 1)).toNat
  firstUse [
    s.acceptUse (c.ga ad) (if sub = 5 then [0, 1, 2] else [0, 1, 2, 3]) true,
    if sub = 5 then none else s.acceptUse (c.ga as) [0, 1, 2] false,
    s.inLimit (sub == 1 || sub == 2 || sub == 3 || p1.toNat < 2 ^ 32),
    if sub = 2 ∨ sub = 3 then s.alignUse (p2 % 2 ^ 23) 4 else none,
    if sub = 4 then s.alignUse (p2 % 2 ^ 23) 8 else none,
    s.roomUse (engOf eng)]

/-- A copy issues: parameters are read, and the operation takes its number. -/
def State.copy (s : State) (sub : Nat) (ad as : BitVec 4) (sl sn : BitVec 5) (eng : Bool) : Host.Outcome State Fault Refusal :=
  let c := s.me
  let o : EngOp := { num := 0, sub := sub, dst := c.ga ad, src := c.ga as, p1 := c.gs sl, p2 := c.gs (sl + 1) }
  guarded s (chkCopy sub ad as sl eng s) (s.submit (engOf eng) sn o)

/-- cpy (10 R274). -/
def execCpy (ad as : BitVec 4) (sl sn : BitVec 5) (eng : Bool) (s : State) : Host.Outcome State Fault Refusal :=
  s.copy 0 ad as sl sn eng
/-- cpys (10 R274). -/
def execCpys (ad as : BitVec 4) (sl sn : BitVec 5) (eng : Bool) (s : State) : Host.Outcome State Fault Refusal :=
  s.copy 1 ad as sl sn eng
/-- cpyg (10 R274). -/
def execCpyg (ad as : BitVec 4) (sl sn : BitVec 5) (eng : Bool) (s : State) : Host.Outcome State Fault Refusal :=
  s.copy 2 ad as sl sn eng
/-- cpysc (10 R274). -/
def execCpysc (ad as : BitVec 4) (sl sn : BitVec 5) (eng : Bool) (s : State) : Host.Outcome State Fault Refusal :=
  s.copy 3 ad as sl sn eng
/-- cpy.sum (10 R274, R276). -/
def execCpySum (ad as : BitVec 4) (sl sn : BitVec 5) (eng : Bool) (s : State) : Host.Outcome State Fault Refusal :=
  s.copy 4 ad as sl sn eng
/-- cpy.fill (10 R274). -/
def execCpyFill (ad : BitVec 4) (sl sn : BitVec 5) (eng : Bool) (s : State) : Host.Outcome State Fault Refusal :=
  s.copy 5 ad 0 sl sn eng

/-! ### Stream ports (10 R278 to R280) -/

/-- Own-vault bytes as a slot access of this vc reads them. Like a load's, this read sees the core's own earlier gated
stores: 11 R312 does not say whether bind's descriptor read is a slot access (DESIGN CHOICE, log entry 121). -/
def State.ownBytes (s : State) (off n : Nat) : List Byte :=
  let ps : List Piece := [{ key := 0, addr := off, width := n }]
  let (_, b) := s.loadVault s.cur.core .l s.me.vc [] false ps
  toBytes n ((b.vals.head?.map (·.2)).getD 0)

/-- The fault of the fill that such a read needs (18 R436, R438). -/
def State.ownFault (s : State) (off n : Nat) : Option Use :=
  (s.loadVault s.cur.core .l s.me.vc [] false [{ key := 0, addr := off, width := n }]).2.fault.map s.use

/-- Checks of an L-space operand of `n` bytes aligned to `k`. -/
def State.lUse (s : State) (a : Word) (n k : Nat) (wr : Bool) : Option Use :=
  firstUse [s.spaceUse a [0] wr, s.alignUse a.toNat k,
    orUse (a.toNat + n ≤ localSize s.cur.core) (s.useX 8 wr a.toNat),
    orUse (!wr || isSlot s.cur.core || a.toNat + n ≤ regionTable) (s.useAt 0x26 a.toNat)]

/-- Checks of bind. -/
def chkBind (a : BitVec 4) (s : State) : Option Use :=
  let t := s.me.ga a
  firstUse [s.onCore, s.lUse t 64 64 false, s.ownFault t.toNat 64, s.inLimit (portOk (s.ownBytes t.toNat 64))]

/-- bind: at vc n + 6 the port holds the descriptor (10 R278). -/
def execBind (q : BitVec 3) (a : BitVec 4) (s : State) : Host.Outcome State Fault Refusal :=
  guarded s (chkBind a s) (s.land (.port q.toNat) (.port (portOf (s.ownBytes (s.me.ga a).toNat 64))) 6)

/-- unbind: at vc n + 1 the port is unbound (10 R280). -/
def execUnbind (q : BitVec 3) (s : State) : Host.Outcome State Fault Refusal :=
  guarded s s.onCore (s.land (.port q.toNat) (.port {}) 1)

/-- The status of a port (10 R280). -/
def Port.status (x : Port) : Word :=
  BitVec.ofNat 64 ((if x.bound then 1 else 0) + (if x.write then 2 else 0) + 4 * min x.ahead.length 512 +
    2 ^ 32 * (x.pos % 2 ^ 32))

/-- qstat: the status sampled at issue lands at vc n + 6 (10 R280). -/
def execQstat (d : BitVec 5) (q : BitVec 3) (s : State) : Host.Outcome State Fault Refusal :=
  guarded s s.onCore (s.landS d (s.me.port q.toNat).status 6)

/-! ### Atomics and wide cells (10 R282 to R285) -/

/-- Checks of an atomic on a cell of `n` bytes; `ret` tells that it returns a value. -/
def chkAtom (a : BitVec 4) (n : Nat) (ret : Bool) (s : State) : Option Use :=
  let t := s.me.ga a
  let sp := spaceOf t
  firstUse [
    orUse (!(isSlot s.cur.core && sp != 2)) (s.useAt 0x26 t.toNat),
    s.spaceUse t [0, 1, 2] true, s.alignUse t.toNat n,
    if sp = 0 then s.lUse t n n true else none,
    orUse (sp != 1 || offOf t < regionTable) (s.useAt 0x26 t.toNat),
    if sp = 0 && !ret then s.gateUse 1 else s.inCk]

/-- An atomic issues in the course that its space and its return give it (10 R284). -/
def State.atomic (s : State) (d : BitVec 5) (a : BitVec 4) (op : AtomOp) (ret : Bool) (sem : BitVec 2) : State :=
  let t := s.me.ga a
  let k := s.irrevKey
  let dest := if ret then Dest.s d.toNat else .none
  let ar := fun (x : Pending) => { x with irrev := some k, acq := sem.getLsbD 0, rel := sem.getLsbD 1, enc := s.cur.enc }
  match spaceOf t with
  | 0 =>
    if ret then s.irrevocable dest 5 fun s => s.fly dest (.atomic .l (offOf t) op true) 5 5 ar
    else s.gateAtom (offOf t) op (sem.getLsbD 0) (sem.getLsbD 1)
  | 1 =>
    let late := s.modeOf s.cur.core == 0
    s.irrevocable dest 14 fun s =>
      s.fly dest (.atomic .c (vaultAddr (coreC s.cur.core t) (offOf t)) op ret) 14 14
        fun x => { ar x with late := late, row := 4 }
  | _ =>
    s.irrevocable dest 8 fun s =>
      s.fly dest (.atomic .g (vaOf t) op ret) 8 8 fun x => { ar x with late := true, row := 1 }

/-- An integer atomic. -/
def State.atomInt (s : State) (sub : Nat) (d : BitVec 5) (a : BitVec 4) (ss sc : BitVec 5) (wd u : Bool)
    (sem : BitVec 2) : Host.Outcome State Fault Refusal :=
  let w := if wd then 64 else 32
  let op : AtomOp := { sub := sub, w := w, u := u, x := s.me.gs ss, c := s.me.gs sc }
  guarded s (chkAtom a (w / 8) (d != 0) s) (s.atomic d a op (d != 0) sem)

/-- atom.add (10 R283). -/
def execAtomAdd (d : BitVec 5) (a : BitVec 4) (ss : BitVec 5) (wd : Bool) (sem : BitVec 2) (s : State) : Host.Outcome State Fault Refusal :=
  s.atomInt 0 d a ss 0 wd false sem
/-- atom.min (10 R283). -/
def execAtomMin (d : BitVec 5) (a : BitVec 4) (ss : BitVec 5) (wd u : Bool) (sem : BitVec 2) (s : State) : Host.Outcome State Fault Refusal :=
  s.atomInt 1 d a ss 0 wd u sem
/-- atom.max (10 R283). -/
def execAtomMax (d : BitVec 5) (a : BitVec 4) (ss : BitVec 5) (wd u : Bool) (sem : BitVec 2) (s : State) : Host.Outcome State Fault Refusal :=
  s.atomInt 2 d a ss 0 wd u sem
/-- atom.and (10 R283). -/
def execAtomAnd (d : BitVec 5) (a : BitVec 4) (ss : BitVec 5) (wd : Bool) (sem : BitVec 2) (s : State) : Host.Outcome State Fault Refusal :=
  s.atomInt 3 d a ss 0 wd false sem
/-- atom.or (10 R283). -/
def execAtomOr (d : BitVec 5) (a : BitVec 4) (ss : BitVec 5) (wd : Bool) (sem : BitVec 2) (s : State) : Host.Outcome State Fault Refusal :=
  s.atomInt 4 d a ss 0 wd false sem
/-- atom.xor (10 R283). -/
def execAtomXor (d : BitVec 5) (a : BitVec 4) (ss : BitVec 5) (wd : Bool) (sem : BitVec 2) (s : State) : Host.Outcome State Fault Refusal :=
  s.atomInt 5 d a ss 0 wd false sem
/-- atom.swap (10 R283). -/
def execAtomSwap (d : BitVec 5) (a : BitVec 4) (ss : BitVec 5) (wd : Bool) (sem : BitVec 2) (s : State) : Host.Outcome State Fault Refusal :=
  s.atomInt 6 d a ss 0 wd false sem
/-- atom.cas (10 R283). -/
def execAtomCas (d : BitVec 5) (a : BitVec 4) (ss sc : BitVec 5) (wd : Bool) (sem : BitVec 2) (s : State) : Host.Outcome State Fault Refusal :=
  s.atomInt 7 d a ss sc wd false sem

/-- atom.fadd and atom.fadd.bf16: WideAdd into the cell (10 R285; 03 R82). -/
def execAtomFadd (a : BitVec 4) (ss : BitVec 5) (bf : Bool) (s : State) : Host.Outcome State Fault Refusal :=
  let op : AtomOp := { sub := if bf then 10 else 8, w := 128, u := false, x := s.me.gs ss, c := 0 }
  guarded s (chkAtom a 16 false s) (s.atomic 0 a op false 0)

/-- wcinit: the cell gets CE, with I and the flags 0 (10 R285). -/
def execWcinit (a : BitVec 4) (ce : BitVec 8) (s : State) : Host.Outcome State Fault Refusal :=
  let op : AtomOp := { sub := 9, w := 128, u := false, x := ce.setWidth 64, c := 0 }
  guarded s (chkAtom a 16 false s) (s.atomic 0 a op false 0)

/-- Checks of wcread. -/
def chkWcread (a : BitVec 4) (s : State) : Option Use := firstUse [s.onCore, s.lUse (s.me.ga a) 16 16 false]

/-- wcread: reads the cell at vc n + 5, lands its value at n + 6 (10 R285). -/
def execWcread (d : BitVec 5) (a : BitVec 4) (bf : Bool) (s : State) : Host.Outcome State Fault Refusal :=
  guarded s (chkWcread a s) (s.fly (.s d.toNat) (.wcread (s.me.ga a).toNat bf) 5 6 id)

/-! ### Timelines (10 R286, R287) -/

/-- Words of the HCW table that a copy wrote become usable once its number is reached, and microstore
words once that of the drain after it is (04 R95; 08 R225). -/
def State.acquireWords (s : State) (p k n : Nat) : State :=
  let area := fun (f : Nat → Nat → Nat) (a : Nat) => f 0 0 ≤ a && a < f slotBase 0
  { s with stale := s.stale.filter fun x => !(x.agent == p &&
      ((area hcwAddr x.key && x.eng == k && x.num ≤ n) || (area microAddr x.key && x.drained && x.drain.1 == k && x.drain.2 ≤ n))) }

/-- tlwait, issued once the timeline has reached s[SS]: every operation numbered up to it has completed
(10 R286). -/
def execTlwait (k : BitVec 3) (ss : BitVec 5) (s : State) : Host.Outcome State Fault Refusal :=
  .next (if k.toNat ≤ 1 then s.acquireWords s.cur.core k.toNat (s.me.gs ss).toNat else s)

/-- tlread: the timeline sampled at issue lands at vc n + 6 (10 R287). -/
def execTlread (d : BitVec 5) (k : BitVec 3) (s : State) : Host.Outcome State Fault Refusal :=
  .next (s.landS d (s.me.gtl k.toNat) 6)

/-- Check of tladv and tlsig: a user timeline. -/
def chkUser (k : BitVec 3) (s : State) : Option Use := s.inLimit (4 ≤ k.toNat)

/-- tladv: tl[k] := max(tl[k], s[SS]) at vc n + 1 (10 R287). -/
def execTladv (k : BitVec 3) (ss : BitVec 5) (s : State) : Host.Outcome State Fault Refusal :=
  guarded s (chkUser k s) (s.land (.tl k.toNat) (.word (s.me.gs ss)) 1)

/-- Checks of tlsig. -/
def chkTlsig (k : BitVec 3) (a : BitVec 4) (s : State) : Option Use :=
  let t := s.me.ga a
  firstUse [s.onCore, chkUser k s, s.spaceUse t [1] false, orUse (offOf t == 0) (s.useAt 0x25 t.toNat)]

/-- tlsig: the target's timeline rises at PVC n + 14 in the issuer's own peloton, at a later wall instant
elsewhere (10 R287). -/
def execTlsig (k : BitVec 3) (ss : BitVec 5) (a : BitVec 4) (s : State) : Host.Outcome State Fault Refusal :=
  let p := s.cur.core
  let c := s.me
  let q := coreC p (c.ga a)
  let due := if s.modeOf p != 0 && (s.lock p).contains q then some (c.vc + 14) else none
  let g : InSig := { sender := p, target := q, k := k.toNat, val := c.gs ss, due := due, pos := s.posNow }
  guarded s (chkTlsig k a s) { s with sigs := s.sigs ++ [g] }

/-! ### Fences and drains (10 R288, R289; 11 R307) -/

/-- A fence takes its place in the access order of its core (10 R288; 11 R307); it never holds the core. -/
def State.fence (s : State) (kind : Nat) (sc : BitVec 3) : State :=
  let f : Fence := { pos := s.posNow, kind := kind, scope := sc.toNat }
  s.upd fun c => { c with fences := c.fences ++ [f] }

/-- fence: every access before it is ordered before every access after it, at its scope (10 R288; 11 R307). -/
def execFence (sc : BitVec 3) (s : State) : Host.Outcome State Fault Refusal := .next (s.fence 0 sc)
/-- fence.acq: every read before it is ordered before every access after it (10 R288; 11 R307). -/
def execFenceAcq (sc : BitVec 3) (s : State) : Host.Outcome State Fault Refusal := .next (s.fence 1 sc)
/-- fence.rel: every access before it is ordered before every write after it (10 R288; 11 R307). -/
def execFenceRel (sc : BitVec 3) (s : State) : Host.Outcome State Fault Refusal := .next (s.fence 2 sc)

/-- Checks of drain.path. -/
def chkDrain (a : BitVec 4) (eng : Bool) (s : State) : Option Use :=
  firstUse [s.acceptUse (s.me.ga a) [0, 1, 2, 3] false, s.roomUse (engOf eng)]

/-- drain.path on a memory or path: numbered; `p1` and `p2` hold the operations of both engines that stand
before it (10 R289). -/
def execDrainPath (a : BitVec 4) (sn : BitVec 5) (eng : Bool) (s : State) : Host.Outcome State Fault Refusal :=
  let c := s.me
  let o : EngOp := { num := 0, sub := 6, dst := c.ga a, p1 := BitVec.ofNat 64 c.n0, p2 := BitVec.ofNat 64 c.n1 }
  guarded s (chkDrain a eng s) (s.submit (engOf eng) sn o)

/-- drain.path of the core's stream write ports: `prog` holds its place in the access order (10 R289; 11 R309). -/
def execDrainPathStreams (sn : BitVec 5) (eng : Bool) (s : State) : Host.Outcome State Fault Refusal :=
  let c := s.me
  let o : EngOp := { num := 0, sub := 7, p1 := BitVec.ofNat 64 c.n0, p2 := BitVec.ofNat 64 c.n1, prog := s.posNow }
  guarded s (s.roomUse (engOf eng)) (s.submit (engOf eng) sn o)

/-! ### Mapped regions (10 R290, R291) -/

/-- The descriptor that mapreg writes. -/
def State.newRegion (s : State) (a : BitVec 4) (sl : BitVec 5) (wb : Bool) : RDesc :=
  let v := (s.me.gs sl).toNat
  { voff := nbits v 0 23, len := nbits v 32 23, gva := vaOf (s.me.ga a), wb := wb, sv := s.cur.sv }

/-- Descriptor `j` of the acting core's region table, as a mapreg of this bundle in flight will leave it. -/
def State.mapNow (s : State) (j : Nat) : RDesc :=
  match s.me.pend.reverse.find? (fun x => x.dest == .region j) with
  | some { src := .bytes b, .. } => RDesc.ofBytes b
  | _ => s.rdesc s.cur.core j

/-- Checks of mapreg (17 R415 cause 0x2A): alignment, limits, no other map in the descriptor, no overlap. -/
def chkMapreg (i : BitVec 3) (a : BitVec 4) (sl : BitVec 5) (wb : Bool) (s : State) : Option Use :=
  let d := s.newRegion a sl wb
  let old := s.mapNow i.toNat
  firstUse [s.onCore, s.gOnlyUse (s.me.ga a),
    s.inLimit (d.voff % 4096 == 0 && d.len % 4096 == 0 && d.gva % 4096 == 0 && d.voff + d.len ≤ regionTable &&
      (old.len == 0 || old == d) &&
      (seqFrom 0 8).all fun j => j == i.toNat || (let e := s.mapNow j
        e.len == 0 || d.len == 0 || d.voff + d.len ≤ e.voff || e.voff + e.len ≤ d.voff))]

/-- mapreg: at vc n + 1 the descriptor is written and the lines of its region become unfilled; an identical map
changes nothing (10 R290). -/
def execMapreg (i : BitVec 3) (a : BitVec 4) (sl : BitVec 5) (wb : Bool) (s : State) : Host.Outcome State Fault Refusal :=
  let d := s.newRegion a sl wb
  guarded s (chkMapreg i a sl wb s)
    (if s.mapNow i.toNat = d then s else s.land (.region i.toNat) (.bytes d.bytes) 1)

/-- Checks of unmapreg and wbreg. -/
def chkNumbered (eng : Bool) (s : State) : Option Use := firstUse [s.onCore, s.roomUse (engOf eng)]

/-- unmapreg: numbered write-back and freeing of a region (10 R291). -/
def execUnmapreg (i : BitVec 3) (sn : BitVec 5) (eng : Bool) (s : State) : Host.Outcome State Fault Refusal :=
  let o : EngOp := { num := 0, sub := 8, prog := i.toNat }
  guarded s (chkNumbered eng s) (s.submit (engOf eng) sn o)

/-- wbreg: numbered write-back of the lines dirty at issue (10 R291). -/
def execWbreg (i : BitVec 3) (sn : BitVec 5) (eng : Bool) (s : State) : Host.Outcome State Fault Refusal :=
  let p := s.cur.core
  let o : EngOp := { num := 0, sub := 9, prog := i.toNat, lines := s.dirtyLines p (s.rdesc p i.toNat) }
  guarded s (chkNumbered eng s) (s.submit (engOf eng) sn o)

/-- Checks of touch. -/
def chkTouch (a : BitVec 4) (eng : Bool) (s : State) : Option Use :=
  firstUse [s.onCore, s.spaceUse (s.me.ga a) [0] false, s.roomUse (engOf eng)]

/-- touch: numbered fill of the unfilled mapped lines of a range (10 R291). -/
def execTouch (a : BitVec 4) (sl sn : BitVec 5) (eng : Bool) (s : State) : Host.Outcome State Fault Refusal :=
  let o : EngOp := { num := 0, sub := 10, dst := s.me.ga a, p1 := s.me.gs sl }
  guarded s (chkTouch a eng s) (s.submit (engOf eng) sn o)

/-! ### Messages (10 R292, R293) -/

/-- Checks of send. -/
def chkSend (a : BitVec 4) (st : BitVec 5) (ln : BitVec 3) (eng : Bool) (s : State) : Option Use :=
  let q := (s.me.gs st).toNat % 512
  firstUse [s.onCore, s.inCk, s.lUse (s.me.ga a) (8 * (ln.toNat + 1)) 8 false,
    s.inLimit (q < slotBase && s.enabled q), s.roomUse (engOf eng)]

/-- A tandem secondary's send takes a number of its own timeline, which completes as its primary's does (02 R50 (d);
10 R269, R292). -/
def State.twinSend (s : State) (sn : BitVec 5) (e : Nat) : State :=
  let n := s.me.count e + 1
  let open_ := ((s.core (s.primary s.cur.core)).engOps e).any fun o => o.num == n && o.sub == 11
  (s.markDone.noteVal (BitVec.ofNat 64 n)).submit e sn { num := 0, sub := if open_ then 11 else 15, prog := s.posNow }

/-- send: irrevocable; the message is read at issue and goes into the mesh, and the send completes when it
stands in the target's queue (10 R292). A failing fill of its source is reported, and the number
completes (18 R437). -/
def execSend (a : BitVec 4) (st : BitVec 5) (ln : BitVec 3) (sn : BitVec 5) (eng : Bool) (s : State) : Host.Outcome State Fault Refusal :=
  let p := s.cur.core
  let e := engOf eng
  let n := 8 * (ln.toNat + 1)
  let off := (s.me.ga a).toNat
  guarded s (chkSend a st ln eng s)
    (if s.secondary p && !s.donePreviously then s.twinSend sn e else
     s.irrevocable (.s sn.toNat) 1 fun s =>
      let (s, f) := s.fillRange p off n
      let num := s.me.count e + 1
      let s := s.noteVal (BitVec.ofNat 64 num)
      let c := s.me
      match f with
      | some f =>
        let w : Who := { p := p, ctx := s.ctxOf p, sv := s.cur.sv, eng := true }
        (s.submit e sn { num := 0, sub := 15 }).report p
          (s.recFor p { kind := f.kind, sev := 5, va := f.va, pa := f.pa, detail := f.detail w false 0 })
      | none =>
        let (s, b, k) := s.readLogged (s.recFor p {}) (localAddr p off) n
        let q := (c.gs st).toNat % 512
        let m : InMesh := { sender := p, eng := e, num := num, target := q, bytes := b, cls := k, pos := s.posNow }
        { (s.submit e sn { num := 0, sub := 11, dst := BitVec.ofNat 64 q, prog := s.posNow }) with mesh := s.mesh ++ [m] })

/-- The oldest message that a recv would pop: an error trap's record stands first (16 R396). -/
def Core.nextMsg (c : Core) : Option Msg := match c.errq with | m :: _ => some m | [] => c.recvq.head?

/-- Checks of recv. -/
def chkRecv (a : BitVec 4) (s : State) : Option Use := firstUse [s.onCore, s.lUse (s.me.ga a) 64 64 true, s.gateUse 1]

/-- recv, issued once a message is present: pop it, land its sender and length at vc n + 6, and write it as
one gated store of 64 bytes (10 R293). -/
def execRecv (d : BitVec 5) (a : BitVec 4) (s : State) : Host.Outcome State Fault Refusal :=
  let c := s.me
  guarded s (chkRecv a s)
    (match c.nextMsg with
     | none => s
     | some m =>
       let pop := fun (c : Core) => { c with
         recvq := if c.errq.isEmpty then c.recvq.drop 1 else c.recvq, errq := c.errq.drop 1,
         shadow := c.shadow.map fun h => { h with msgs := h.msgs ++ [m] } }
       let s := (s.upd pop).auditIn s.cur.core m.bytes
       let s := s.landS d (BitVec.ofNat 64 (m.sender % 512 + 2 ^ 16 * m.bytes.length)) 6
       (s.gate .l (cellsAt (c.ga a).toNat (m.bytes ++ List.replicate (64 - m.bytes.length) 0)) false).gateDamage
         (((seqFrom (c.ga a).toNat 64).zip m.cls).filter fun x => x.2 != 0))

/-! ### Collectives (10 R294) -/

/-- Checks of coll. -/
def chkColl (a : BitVec 4) (s : State) : Option Use :=
  let t := s.me.ga a
  firstUse [s.onCore, s.gOnlyUse t, s.alignUse (vaOf t) 64, s.roomUse 3]

/-- coll: numbered on tl3; the engine reads the descriptor in wall time (10 R294). -/
def execColl (sn : BitVec 5) (a : BitVec 4) (s : State) : Host.Outcome State Fault Refusal :=
  let o : EngOp := { num := 0, sub := 12, dst := s.me.ga a }
  guarded s (chkColl a s) (s.submit 3 sn o)

/-! ### Containment regions (16 R398, R401) -/

/-- Checks of cxopen. -/
def chkCxopen (a : BitVec 4) (w : Bool) (t : BitVec 12) (s : State) : Option Use :=
  firstUse [s.onCore, s.inCk, s.lUse (s.me.ga a) 64 64 true, s.inLimit (targetOk w t),
    orUse (s.donePreviously || s.me.regions.length < 4) (s.use { cause := 0x2B })]

/-- cxopen: push (target, a[AN], TOL, loop depth), once (16 R401; 17 R419 (c)). -/
def execCxopen (a : BitVec 4) (tol : BitVec 2) (w : Bool) (t : BitVec 12) (s : State) : Host.Outcome State Fault Refusal :=
  let r := fun (c : Core) => ({ w := w, t := t, addr := (c.ga a).toNat, tol := tol.toNat, ldepth := c.loops.length } : Region)
  guarded s (chkCxopen a w t s)
    (if s.donePreviously then s else s.markSoft.upd fun c => { c with regions := c.regions ++ [r c] })

/-- Checks of cxclose. -/
def chkCxclose (s : State) : Option Use :=
  firstUse [s.onCore, s.inCk, orUse (s.donePreviously || !s.me.regions.isEmpty) (s.use { cause := 0x2B })]

/-- cxclose: pop the innermost region, once (16 R401). -/
def execCxclose (s : State) : Host.Outcome State Fault Refusal :=
  guarded s (chkCxclose s)
    (if s.donePreviously then s else s.markSoft.upd fun c => { c with regions := c.regions.dropLast })

/-! ### Audit and tandem controls (16 R405) -/

/-- audmark: s[SS] enters the unit's signature at the next release (16 R405). -/
def execAudmark (ss : BitVec 5) (s : State) : Host.Outcome State Fault Refusal :=
  let cur := s.cur
  guarded s s.onCore
    (s.upd fun c =>
      let e : Gated := { form := .l, cells := cellsAt 0 (toBytes 8 (c.gs ss).toNat), issue := c.vc, ord := cur.slot.toNat, sv := cur.sv, entry := false }
      { c with gate := c.gate ++ [e] })

/-- audoff: the unit leaves auditing at once; a sampled unit's log is discarded (16 R405). -/
def execAudoff (s : State) : Host.Outcome State Fault Refusal :=
  guarded s s.onCore
    (match s.unitOf s.cur.core with
     | none => s
     | some u =>
       if !u.audited then s
       else if !u.sampled then s.setUnit { u with audited := false }
       else { s.setUnit { u with audited := false } with
                err := { s.err with skip := satInc s.err.skip, audused := s.err.audused - u.logn } })

/-- tcheck: s[SS] joins the next comparison of a tandem pair (16 R405). -/
def execTcheck (ss : BitVec 5) (s : State) : Host.Outcome State Fault Refusal :=
  guarded s s.onCore (if s.modeOf s.cur.core = 2 then s.upd fun c => { c with tchecks := c.tchecks ++ [c.gs ss] } else s)

end Sys2Proof.Machine
end

