-- ==== Sys2Proof/Machine/Engine.lean ====
section
/-! DEFINITION. The copy engines, the collective engines, messages and signals in the mesh, stream ports and
fills in wall time (10 R269 to R277, R279, R287 to R294; 11 R307; 13 R354, R355; 18 R430, R437, R438). -/

namespace Sys2Proof.Machine

open Sys2Proof

/-! ### Accesses of an engine -/

/-- The engines of agent `p` access memory in the mode in which their operation issued. -/
def State.engWho (s : State) (p : Nat) (sv : Bool) : Who := { p := p, ctx := s.ctxOf p, sv := sv, eng := true }

/-- An address fault of an engine: 5 in G-space, 8 elsewhere (18 R435). -/
def placeFault (a : Word) : XFault :=
  if spaceOf a = 2 then { cause := 5, va := a.toNat } else { cause := 8, pa := a.toNat }

/-- Does the range of `n` bytes that an engine forms from `base` stay in its space (18 R435)? -/
def State.placeOk (s : State) (p : Nat) (base a : Word) (n : Nat) : Bool :=
  spaceOf a == spaceOf base && (match spaceOf base with
    | 0 => addrBitsOk a && decide (offOf a + n ≤ localSize p)
    | 1 => addrBitsOk a && s.coreUp (coreC p a)
    | 2 => addrBitsOk a && decide (vaOf a + n ≤ 2 ^ 56)
    | _ =>
      let (path, d, q, off) := pathOf a
      addrBitsOk a && a >>> 16 == base >>> 16 && d < 8 && q < 36 && s.coreUp (36 * d + q) &&
        (seqFrom off n).all (pathHolds path))

/-- The vault that an L- or C-space address names. -/
def vaultOf (p : Nat) (a : Word) : Nat := if spaceOf a = 1 then coreC p a else p

/-- An engine fetches `n` bytes at a tagged address, with what the read finds; `pred` tells whether it may be predicted:
reads of copies are, those of the collective engine are not (09 R255; 10 R275 (b)). -/
def State.engFetch (s : State) (p : Nat) (sv : Bool) (base a : Word) (n : Nat) (pred : Bool := true) :
    State × Except XFault Got :=
  if !s.placeOk p base a n then (s, .error (placeFault base))
  else if spaceOf a = 2 then s.loadG (s.engWho p sv) (vaOf a) n pred
  else
    let q := vaultOf p a
    let (s, f) := if isSlot q then (s, none) else s.fillRange q (offOf a) n
    match f with
    | some f => (s, .error f)
    | none =>
      let (s, b, c, fs) := s.readStore (localAddr q (offOf a)) n
      (s, .ok { data := b, cls := c, finds := fs })

/-- An engine of agent `p` has taken bytes in from a tagged address: they enter the auditor's log unless they come from
a vault of the unit (16 R407). -/
def State.engTaken (s : State) (p : Nat) (a : Word) (b : List Byte) : State :=
  if spaceOf a ≠ 2 ∧ (s.membersOf p).contains (vaultOf p a) then s else s.auditIn p b

/-- The record that a finding of an engine's read at a tagged address starts from. -/
def State.engFound (s : State) (p : Nat) (a : Word) : Rec := s.recFor p { va := if spaceOf a = 2 then vaOf a else 0 }

/-- An engine reads `n` bytes at a tagged address (10 R275 (b); 18 R430). -/
def State.engRead (s : State) (p : Nat) (sv : Bool) (base a : Word) (n : Nat) (pred : Bool := true) :
    State × Except XFault Got :=
  let (s, r) := s.engFetch p sv base a n pred
  match r with
  | .error f => (s, .error f)
  | .ok g => ((s.logAll (s.engFound p a) g.finds).engTaken p a g.data, .ok g)

/-- Does a route that is not yet in force keep an access of `n` bytes of G-space, host memory among them, in its path
(13 R349)? -/
def State.routeKeeps (s : State) (w : Who) (va n : Nat) : Bool :=
  s.ctl.hnext.isSome && (pagesOf (n / 4096 + 2) va n).any fun l =>
    match s.peek w l.1 false false with | .ok x => inHost x.pa | .error _ => false

/-- A word that a copy writes on a path: what stood there before stays usable until its use is ordered (18 R442). -/
def State.markStale (s : State) (p e num a : Nat) : State :=
  let k := a / 4 * 4
  { s with stale := s.stale ++ [{ key := k, old := BitVec.ofNat 32 (leNat (s.bytes k 4)), agent := p, eng := e, num := num }] }

/-- Does a G-space range reach a region table? -/
def State.tableHit (s : State) (w : Who) (va n : Nat) : Bool :=
  (pagesOf (n / 4096 + 2) va n).any fun l =>
    match (s.translate w l.1 true false).2 with
    | .ok x => inVault x.pa && decide (regionTable < vaultOff x.pa + l.2)
    | .error _ => false

/-- An engine writes bytes at a tagged address with their classes; a region table takes no write (17 R415
cause 0x26). -/
def State.engWrite (s : State) (p : Nat) (sv : Bool) (e num : Nat) (base a : Word) (d : List Byte) (cls : List Nat) :
    State × Option XFault :=
  let n := d.length
  if !s.placeOk p base a n then (s, some (placeFault base)) else
  match spaceOf a with
  | 2 =>
    let w := s.engWho p sv
    if s.tableHit w (vaOf a) n then (s, some { cause := 0x26, pa := a.toNat, kind := 6 }) else
    let (s, r) := s.putG w (vaOf a) d cls
    match r with
    | .error f => (s, some f)
    | .ok _ => (s.sign p (BitVec.ofNat 64 (vaOf a)) d, none)
  | 3 =>
    let (path, v, q, off) := pathOf a
    let st := pathStore path (36 * v + q) off
    let l := s.membersOf p
    let q := 36 * v + q
    let s := (distinct ((seqFrom st n).map (· / 4 * 4))).foldl (fun s k => s.markStale p e num k) s
    let s := s.writeLogged (s.recFor p {}) st d [] none
    (s.sign p (pathKey path (if l.contains q then indexIn l q else 4 + q % 4) off) d, none)
  | _ =>
    let q := vaultOf p a
    if !isSlot q && decide (regionTable < offOf a + n) then (s, some { cause := 0x26, pa := a.toNat, kind := 6 }) else
    let (s, f) := if isSlot q then (s, none) else s.fillRange q (offOf a) n
    match f with
    | some f => (s, some f)
    | none => ((s.writeLocal q (offOf a) d cls).sign p (s.keyOf p q (offOf a)) d, none)

/-- The record of an engine's fault with DONE (17 R413; 18 R435, R437). -/
def State.engRec (s : State) (p : Nat) (sv : Bool) (f : XFault) (wr : Bool) (done : Nat) : Rec :=
  s.recFor p { kind := f.kind, va := f.va, pa := f.pa,
               detail := if f.kind = 6 then ({ cause := f.cause } : Use).word else f.detail (s.engWho p sv) wr done }

/-! ### Requests of a copy (10 R274 to R276; 18 R437) -/

/-- One step of the reflected CRC-32C over a byte (10 R276). -/
def crcByte (c : BitVec 32) (b : Byte) : BitVec 32 :=
  (seqFrom 0 8).foldl (fun c _ => if c.getLsbD 0 then (c >>> 1) ^^^ 0x82F63B78#32 else c >>> 1) (c ^^^ b.setWidth 32)

/-- Bytes of a row, and rows. -/
def EngOp.shape (o : EngOp) : Nat × Nat :=
  let lo := o.p1.toNat % 2 ^ 32
  let hi := o.p1.toNat / 2 ^ 32
  if o.sub = 1 ∨ o.sub = 2 ∨ o.sub = 3 then (lo, hi) else (lo, 1)

/-- Bytes that a copy moves. -/
def EngOp.total (o : EngOp) : Nat := o.shape.1 * o.shape.2

/-- The two signed halves of the second parameter: [31:0], [63:32]. -/
def loI (w : Word) : Int := (w.extractLsb' 0 32).toInt
def hiI (w : Word) : Int := (w.extractLsb' 32 32).toInt

/-- A tagged address displaced. -/
def shift (a : Word) (d : Int) : Word := a + BitVec.ofInt 64 d

/-- Source and destination of byte k of row r, `idx` being entry r of the index table (10 R274). -/
def EngOp.places (o : EngOp) (r k idx : Nat) : Word × Word :=
  let (rb, _) := o.shape
  let lin := fun (a : Word) => shift a ((r * rb + k : Nat))
  let by_ := fun (a : Word) (m : Nat) (st : Int) => shift a (m * st + k)
  match o.sub with
  | 1 => (by_ o.src r (loI o.p2), by_ o.dst r (hiI o.p2))
  | 2 => (by_ o.src idx (hiI o.p2), lin o.dst)
  | 3 => (lin o.src, by_ o.dst idx (hiI o.p2))
  | _ => (lin o.src, lin o.dst)

/-- Bytes of a request at `a` before the next vault of C-space. -/
def room (a : Word) (n : Nat) : Nat := if spaceOf a = 1 then min n (0x800000 - offOf a) else n

/-- Replace operation `num` of an engine. -/
def Core.putOp (c : Core) (e : Nat) (o : EngOp) : Core :=
  c.setEng e ((c.engOps e).map fun x => if x.num = o.num then o else x)

/-- An operation has settled: its number completes in its turn. -/
def State.settle (s : State) (p e : Nat) (o : EngOp) : State := s.updCore p (·.putOp e { o with sub := 15 })

/-- An operation faults: it issues no more requests, and the fault is reported (18 R437; 17 R418). -/
def State.engFault (s : State) (p e : Nat) (o : EngOp) (f : XFault) (wr : Bool) (done : Nat) : State :=
  let r := s.engRec p o.sv f wr done
  (s.settle p e o).report p r

/-- The index entry that row r needs. -/
def State.indexOf (s : State) (p : Nat) (o : EngOp) (r : Nat) : State × Except XFault Nat :=
  if o.sub ≠ 2 ∧ o.sub ≠ 3 then (s, .ok 0) else
  let (s, g) := s.engRead p o.sv 0 (BitVec.ofNat 64 (o.p2.toNat % 2 ^ 23 + 4 * r)) 4
  match g with | .error f => (s, .error f) | .ok g => (s, .ok (leNat g.data))

/-- The destination that a written address belongs to: a vault, HBM, host memory or a peer, or a path; a G-space
address by its page, an unmapped one by itself (10 R267). -/
def State.destOf (s : State) (p : Nat) (sv : Bool) (a : Word) : Nat × Nat :=
  match spaceOf a with
  | 2 =>
    match s.peek (s.engWho p sv) (vaOf a) true false with
    | .ok x =>
      if inVault x.pa then (0, vaultCore x.pa) else if inPeer x.pa then (4, (peerOf x.pa).1)
      else if inHost x.pa then (3, 0) else (2, 0)
    | .error _ => (5, vaOf a)
  | 3 => (1, a.toNat / 65536)
  | _ => (0, vaultOf p a)

/-- Where the byte at offset `off` of a copy comes from and goes to: source, destination, bytes left in its row. The
index entry of a row is read for every request that needs it, so one row may use two values of an entry that changes (10
R275 (b) gives the values of one read; log entry 122). -/
def State.copyPlace (s : State) (p : Nat) (o : EngOp) (off : Nat) : State × Except XFault (Word × Word × Nat) :=
  let rb := o.shape.1
  let (s, x) := s.indexOf p o (off / rb)
  match x with
  | .error f => (s, .error f)
  | .ok idx =>
    let (a, d) := o.places (off / rb) (off % rb) idx
    (s, .ok (a, d, rb - off % rb))

/-- Does a request of a copy at offset `off` read or write host memory? -/
def State.copyHost (s : State) (p : Nat) (o : EngOp) (off : Nat) : Bool :=
  match (s.copyPlace p o off).2 with
  | .error _ => false
  | .ok (a, d, _) => s.destOf p o.sv d == (3, 0) || (o.sub != 5 && s.destOf p o.sv a == (3, 0))

/-- The engine puts the next bytes of a copy into a request: up to 256 of one row and one vault, as many as Quiran
likes (10 R267, R302; 18 R437). Nothing is issued to a destination that asserts stop, nor to host memory while a route
waits to take force (13 R349). -/
def State.copyIssue (s : State) (p e : Nat) (o : EngOp) : State :=
  if s.ctl.hnext.isSome && s.copyHost p o o.prog then s else
  let n := match (s.copyPlace p o o.prog).2 with
    | .error _ => 1
    | .ok (a, d, left) => let n := min 256 left; room d (if o.sub = 5 then n else room a n)
  let k := Config.pick (s.tick + 11) % n
  let n := if k = 0 then n else k
  s.updCore p (·.putOp e { o with prog := o.prog + n, flights := o.flights ++ [(o.prog, n)] })

/-- A request faults: of several the lowest counts, later ones are written whole or not at all, and no more are issued
(18 R437). -/
def State.copyFail (s : State) (p e : Nat) (o : EngOp) (off : Nat) (f : XFault) (wr : Bool) : State :=
  let r := s.engRec p o.sv f wr off
  let fail := match o.fail with | some x => if x.1 ≤ off then some x else some (off, r) | none => some (off, r)
  s.updCore p (·.putOp e { o with fail := fail, prog := o.total, flights := o.flights.filter fun x =>
    x.1 < off || (x.1 != off && Config.choice (s.tick + x.1)) })

/-- An outstanding request of a copy performs. -/
def State.copyRequest (s : State) (p e : Nat) (o : EngOp) (x : Nat × Nat) : State :=
  let (s, pl) := s.copyPlace p o x.1
  match pl with
  | .error f => s.copyFail p e o x.1 f false
  | .ok (a, d, _) =>
    let (s, g) := if o.sub = 5 then
        (s, .ok { data := (seqFrom (x.1 % o.shape.1) x.2).map fun i => o.p2.extractLsb' (8 * (i % 8)) 8 })
      else s.engRead p o.sv o.src a x.2
    match g with
    | .error f => s.copyFail p e o x.1 f false
    | .ok g =>
      let (s, f) := s.engWrite p o.sv e o.num o.dst d g.data g.cls
      match f with
      | some f => s.copyFail p e o x.1 f true
      | none =>
        s.updCore p (·.putOp e { o with flights := o.flights.filter (· != x),
                                        crc := if o.sub = 4 then g.data.foldl crcByte o.crc else o.crc })

/-- All requests of a copy have settled: its checksum is written, or the fault that it met is reported (10 R276;
18 R437). -/
def State.copyEnd (s : State) (p e : Nat) (o : EngOp) : State :=
  match o.fail with
  | some x => (s.settle p e o).report p x.2
  | none =>
    if o.sub ≠ 4 then s.settle p e o else
    let v := if o.total = 0 then 0 else (~~~o.crc).toNat
    let (s, f) := s.engWrite p o.sv e o.num 0 (BitVec.ofNat 64 (o.p2.toNat % 2 ^ 23)) (toBytes 8 v) []
    match f with
    | some f => s.engFault p e o f true o.total
    | none => s.settle p e o

/-- The requests of a copy that are outstanding; the result of a checksum stands behind them as one of no bytes. -/
def EngOp.requests (o : EngOp) : List (Nat × Nat) :=
  o.flights ++ (if o.sub = 4 ∧ o.fail.isNone then [(o.total, 0)] else [])

/-- The destinations of a request's first and last byte: a G-space page may end between them. -/
def State.goals (s : State) (p : Nat) (o : EngOp) (x : Nat × Nat) : List (Nat × Nat) :=
  if x.2 = 0 then [(0, p)] else
  match (s.copyPlace p o x.1).2 with
  | .ok (_, d, _) => [s.destOf p o.sv d, s.destOf p o.sv (shift d (x.2 - 1 : Nat))]
  | .error _ => [(6, x.1)]

/-- The outstanding requests of an engine that may perform: each the first of its engine for its destinations, and
those of a checksum in their order, its result last (10 R267, R275 (e), R276). -/
def State.flightsReady (s : State) (p e : Nat) : List (EngOp × Nat × Nat) :=
  let all := ((s.core p).engOps e).flatMap fun o => o.requests.map fun x => (o, x)
  let ds := all.map fun y => s.goals p y.1 y.2
  ((seqFrom 0 all.length).zip all).filterMap fun (i, y) =>
    if ((ds[i]?).getD []).any (fun d => (ds.take i).any (·.contains d)) ||
        ((all.take i).any fun z => y.1.sub == 4 && z.1.num == y.1.num) || (y.2.2 == 0 && y.1.prog < y.1.total) then none
    else some y

/-- Requests of an engine that are outstanding. -/
def Core.outstanding (c : Core) (e : Nat) : Nat := (c.engOps e).foldl (fun n o => n + o.flights.length) 0

/-- Engine `e` on its copies: an outstanding request performs, or, while there are at most 64, the next is issued. -/
def State.copyStep (s : State) (p e : Nat) (o : EngOp) : State :=
  let ready := s.flightsReady p e
  let more := decide (o.sub ≤ 5 ∧ o.prog < o.total ∧ (s.core p).outstanding e < 64)
  if more && (ready.isEmpty || Config.choice (s.tick + 12)) then s.copyIssue p e o
  else match ready[Config.pick (s.tick + 13) % ready.length]? with
    | some (q, x) => if x.2 = 0 then s.copyEnd p e q else s.copyRequest p e q x
    | none => s.copyEnd p e o

/-! ### Drains, regions and touches (10 R289, R291; 18 R438) -/

/-- The last operation of engine `k` that stands before a drain on engine `e`. -/
def EngOp.before (o : EngOp) (e k : Nat) : Nat :=
  if e = k then o.num - 1 else if k = 0 then o.p1.toNat else o.p2.toNat

/-- May a drain complete: every earlier write from either engine has performed, and every earlier message to
vault `q`, where the drain names one, stands in its queue (10 R289; 11 R311)? A drain of the stream write ports also
waits for the pushes in flight that were issued before it (11 R309 (c)). -/
def Core.drainReady (c : Core) (e : Nat) (o : EngOp) (q : Option Nat) : Bool :=
  let waits := fun (k : Nat) (x : EngOp) => x.num ≤ o.before e k && x.sub ≠ 15 && x.sub ≠ 6 && x.sub ≠ 7 &&
    (x.sub ≠ 11 || q == some x.dst.toNat)
  !(c.eng0.any (waits 0) || c.eng1.any (waits 1) ||
    (o.sub == 7 && c.pend.any fun x => x.pos < o.prog && match x.dest with | .push .. => true | _ => false))

/-- The drain of a path makes the words ready for use that the writes before it left there (04 R102; 08 R225; 10
R289). -/
def State.drainWords (s : State) (p e : Nat) (o : EngOp) : State :=
  if spaceOf o.dst ≠ 3 then s else
  let (path, d, q, _) := pathOf o.dst
  let st := pathStore path (36 * d + q) 0
  { s with stale := s.stale.map fun x =>
      if x.agent = p ∧ st ≤ x.key ∧ x.key < st + 0x10000 ∧ x.num ≤ o.before e x.eng ∧ x.drained = false then
        { x with drained := true, drain := (e, o.num) } else x }

/-- A drain: a G-space address names the memory that its page maps; an address of no legal form, or that names a core or
an offset that is not there, faults as a copy's does (09 R239; 10 R289; 18 R435, R437). -/
def State.drainStep (s : State) (p e : Nat) (o : EngOp) : State :=
  let done := fun (s : State) (q : Option Nat) =>
    if (s.core p).drainReady e o q then (s.drainWords p e o).settle p e o else s
  if !s.placeOk p o.dst o.dst 1 then s.engFault p e o (placeFault o.dst) false 0 else
  match spaceOf o.dst with
  | 2 =>
    let (s, r) := s.translate (s.engWho p o.sv) (vaOf o.dst) false false
    match r with
    | .error f => s.engFault p e o f false 0
    | .ok x => done s (if inVault x.pa then some (vaultCore x.pa) else none)
  | 3 => done s none
  | _ => done s (some (vaultOf p o.dst))

/-- What write ports hold is written (10 R279, R281). -/
def State.drainStreams (s : State) (p : Nat) : State :=
  (seqFrom 0 8).foldl (fun s q =>
    let s := s.drainPort p q
    s.updCore p fun c => let x := c.port q; if x.write then c.setPort q { x with ahead := [], part := [] } else c) s

/-- A drain of the core's stream write ports (10 R289; 11 R309, R311). -/
def State.streamsStep (s : State) (p e : Nat) (o : EngOp) : State :=
  if (s.core p).drainReady e o (some p) then ((s.drainStreams p).settle p e o).settleLate p else s

/-- In whose name a region of core `p`'s vault is filled and written back (09 R259, R260). -/
def State.backWho (s : State) (p : Nat) (d : RDesc) : Who := { p := p, ctx := s.ctxOf p, sv := d.sv, eng := true }

/-- Write back bytes `lo` to `hi - 1` of a line of core `p`'s vault. -/
def State.backPart (s : State) (p : Nat) (d : RDesc) (l lo hi : Nat) : State × Option XFault :=
  let (s, b, c, fs) := s.readStore (vaultAddr p (64 * l + lo)) (hi - lo)
  let s := s.logAll (s.recFor p {}) fs
  let (s, x) := s.writeG (s.backWho p d) (d.gva + (64 * l + lo - d.voff)) b c
  match x with | .ok _ => (s, none) | .error f => (s, some f)

/-- The bytes from `lo` on that one step of a write-back moves: an HBM sector is written whole, any other memory by any
number of bytes at once (09 R263; 11 R302). -/
def State.backNow (s : State) (p : Nat) (d : RDesc) (l lo : Nat) : Nat :=
  match s.peek (s.backWho p d) (d.gva + (64 * l - d.voff)) true false with
  | .ok x => if s.inHbm x.pa then 64 - lo else s.someBytes (64 - lo)
  | .error _ => 64 - lo

/-- The first line of a write-back whose write faults is the one to report; the line stays dirty (18 R438). -/
def State.backFail (s : State) (p e : Nat) (o : EngOp) (d : RDesc) (l : Nat) (f : XFault) : State :=
  let x := o.fail.getD (64 * l - d.voff, s.engRec p o.sv f true (64 * l - d.voff))
  (s.setFill p l 3).updCore p (·.putOp e { o with lines := o.lines.drop 1, p1 := 0, fail := some x })

/-- One step of the write-back of line `l`, atomic per byte only (09 R260; 11 R302). `p1` counts the bytes done. A write
that performs in between makes the line dirty again. To host memory it waits while a route is not yet in force (13
R349). -/
def State.backStep (s : State) (p e : Nat) (o : EngOp) (d : RDesc) (l : Nat) : State :=
  let lo := o.p1.toNat
  let hi := lo + s.backNow p d l lo
  if !d.wb || (lo = 0 && s.fillOf p l != 3) then s.updCore p (·.putOp e { o with lines := o.lines.drop 1 })
  else if s.routeKeeps (s.backWho p d) (d.gva + (64 * l - d.voff)) 64 then s
  else
    let s := if lo = 0 then s.setFill p l 1 else s
    let (s, f) := s.backPart p d l lo hi
    match f with
    | some f => s.backFail p e o d l f
    | none =>
      s.updCore p (·.putOp e (if hi = 64 then { o with lines := o.lines.drop 1, p1 := 0 } else { o with p1 := BitVec.ofNat 64 hi }))

/-- wbreg and unmapreg: write back the lines dirty at issue, or all dirty ones, and for unmapreg free the descriptor
(09 R260; 10 R291); `p2` tells that the lines have been listed. -/
def State.regionStep (s : State) (p e : Nat) (o : EngOp) : State :=
  let d := s.rdesc p o.prog
  if d.len = 0 then s.settle p e o
  else if o.p2 = 0 then
    let mine := o.lines.filter fun l => d.voff ≤ 64 * l && 64 * l < d.voff + d.len
    s.updCore p (·.putOp e { o with p2 := 1, lines := if o.sub = 8 then s.dirtyLines p d else mine })
  else match o.lines with
    | l :: _ => s.backStep p e o d l
    | [] =>
      match o.fail with
      | some x => (s.settle p e o).report p x.2
      | none =>
        if o.sub ≠ 8 then s.settle p e o
        else if d.wb && !(s.dirtyLines p d).isEmpty then s.updCore p (·.putOp e { o with p2 := 0 })
        else ((s.writeLogged (s.recFor p {}) (vaultAddr p (regionTable + 32 * o.prog)) (toBytes 32 0) [] none).unfillRange p d.voff d.len).settle p e o

/-- Does a fill read host memory? -/
def State.fillHost (s : State) (q line : Nat) : Bool :=
  match s.regionAt q (64 * line) with
  | none => false
  | some (_, d) =>
    match s.peek (s.backWho q d) (d.gva + (64 * line - d.voff)) false false with
    | .ok x => inHost x.pa
    | .error _ => false

/-- Fill the mapped lines of a range; DONE is the offset of the first line that could not be filled. Lines of host memory
wait while a route is not yet in force (13 R349). -/
def State.touchStep (s : State) (p e : Nat) (o : EngOp) : State :=
  let off := offOf o.dst
  let ls := linesIn off (min o.p1.toNat (localSize p - off))
  if s.ctl.hnext.isSome && ls.any (fun l => s.unfilled p l && s.fillHost p l) then s else
  let (s, f) := ls.foldl (fun (r : State × Option (XFault × Nat)) l =>
    if r.1.unfilled p l then
      let (s, f) := r.1.fillLine p l
      (s, match r.2, f with | none, some f => some (f, 64 * l) | x, _ => x)
    else r) (s, none)
  match f with
  | some (f, done) => s.engFault p e o f false done
  | none => s.settle p e o

/-! ### Collectives (10 R294; 13 R354, R355; 19 R458) -/

/-- Bytes of an element format. -/
def elemBytes (f : Nat) : Nat := match f with | 0 => 4 | 1 => 2 | _ => 16

/-- Fields of a descriptor. -/
def Coll.seq (c : Coll) : Word := BitVec.ofNat 64 (fieldOf c.desc 0 8)
def Coll.op (c : Coll) : Nat := fieldOf c.desc 16 1
def Coll.nm (c : Coll) : Nat := fieldOf c.desc 17 1
def Coll.rank (c : Coll) : Nat := fieldOf c.desc 18 1
def Coll.ifmt (c : Coll) : Nat := fieldOf c.desc 19 1
def Coll.ofmt (c : Coll) : Nat := fieldOf c.desc 20 1
def Coll.ce (c : Coll) : Nat := fieldOf c.desc 21 1
def Coll.root (c : Coll) : Nat := fieldOf c.desc 22 1
def Coll.count (c : Coll) : Nat := fieldOf c.desc 40 8

/-- The limits of 13 R354 and R355; bits [15:10] of the entries of its list are 0. -/
def Coll.valid (c : Coll) : Bool :=
  c.op < 4 && 2 ≤ c.nm && c.nm ≤ 64 && c.rank < c.nm && c.ifmt < 3 && c.ofmt < 3 && 1 ≤ c.count && c.count ≤ 2 ^ 32 &&
  (seqFrom 0 c.nm).all (fun r => fieldOf c.list (2 * r) 2 < 1024) &&
  fieldOf c.desc 23 1 == 0 && fieldOf c.desc 48 16 == 0 && fieldOf c.desc 8 8 % 64 == 0 &&
  (c.op != 1 || c.count % c.nm == 0) && (c.op < 2 || c.ifmt == c.ofmt) && (c.op != 3 || c.root < c.nm)

/-- The X-die engine of a core (13 R354); with X1 failed, X0's for every core (19 R455). -/
def State.sideOf (s : State) (p : Nat) : Nat := if s.xmask.getLsbD 1 then p / 144 else 0

/-- Key of a descriptor address in the memory of sequence values of the engine of a die side. -/
def seqKey (side ctx : Nat) (a : Word) : Word := BitVec.ofNat 64 (side * 2 ^ 60 + ctx * 2 ^ 56 + vaOf a)

/-- Entry r of a member list: peer and engine. -/
def Coll.entry (c : Coll) (r : Nat) : Nat × Nat := (fieldOf c.list (2 * r) 2 % 512, nbits (fieldOf c.list (2 * r) 2) 9 1)

/-- The peers among the members of a collective; 511 is this module. -/
def Coll.peers (c : Coll) : List Nat := distinct (((seqFrom 0 c.nm).map fun r => (c.entry r).1).filter (· != 511))

/-- A physical address of a peer. -/
def peerBase (n : Nat) : Nat := 0xC000000000000 + n * 2 ^ 41

/-- What keeps a contribution of a context from its members on peers: a lost link, or no key (13 R352; 19 R457). -/
def State.collFault (s : State) (c : Coll) : Option XFault := c.peers.findSome? fun n => s.peerFault c.ctx 0 (peerBase n)

/-- A contribution leaves for the peers among its members, in flits; none leaves a viral module (13 R351; 16 R409). -/
def State.collSend (s : State) (c : Coll) : State :=
  if s.err.viral then s else
  c.peers.foldl (fun s n => (seqFrom 0 ((64 + c.list.length + c.data.length + 127) / 128)).foldl (fun s _ => s.flit (peerBase n)) s) s

/-- A tagged G-space address. -/
def gTag (va : Nat) : Word := BitVec.ofNat 64 (2 ^ 63 + va % 2 ^ 56)

/-- A G-space address that a collective descriptor holds, where its bits [63:56] are of a legal form (09 R240). -/
def gField (v : Nat) : Except XFault Word :=
  if v / 2 ^ 56 = 0 ∨ v / 2 ^ 56 = 0x80 then .ok (gTag v) else .error { cause := 5, va := v }

/-- The collective engine reads `n` bytes at an address of a descriptor; nothing is read of none. -/
def State.collRead (s : State) (p : Nat) (sv : Bool) (v n : Nat) : State × Except XFault Got :=
  if n = 0 then (s, .ok {}) else
  match gField v with
  | .error f => (s, .error f)
  | .ok a => s.engRead p sv a a n false

/-- Do host accesses of a collective's reads wait for a route to take force (13 R349)? -/
def State.collKept (s : State) (p : Nat) (o : EngOp) : Bool :=
  let w := s.engWho p o.sv
  s.routeKeeps w (vaOf o.dst) 64 || (s.ctl.hnext.isSome && match (s.collRead p o.sv (vaOf o.dst) 64).2 with
    | .error _ => false
    | .ok g =>
      let x : Coll := { agent := p, num := o.num, addr := o.dst, ctx := w.ctx, desc := g.data, list := [], data := [], cls := [], sv := o.sv }
      s.routeKeeps w (fieldOf x.desc 8 8 % 2 ^ 56) (2 * x.nm) ||
        s.routeKeeps w (fieldOf x.desc 24 8 % 2 ^ 56) (x.count * elemBytes x.ifmt))

/-- The collective engine reads a descriptor: a new sequence value posts a contribution with the member
list and the source elements; a repeated one starts nothing (10 R294). -/
def State.collStep (s : State) (p : Nat) (o : EngOp) : State :=
  if s.collKept p o then s else
  let ctx := s.ctxOf p
  let rd := fun (s : State) (v n : Nat) => s.collRead p o.sv v n
  let (s, g) := rd s (vaOf o.dst) 64
  match g with
  | .error f => s.engFault p 3 o f false 0
  | .ok g =>
    let x : Coll := { agent := p, num := o.num, addr := o.dst, ctx := ctx, desc := g.data, list := [], data := [], cls := [], sv := o.sv }
    let k := seqKey (s.sideOf p) ctx o.dst
    let again := s.seqs.any fun y => y.1 == k && y.2 == x.seq
    if again then
      if s.colls.any (fun c => c.peer.isNone && c.ctx == ctx && s.sideOf c.agent == s.sideOf p && vaOf c.addr == vaOf o.dst &&
          c.seq == x.seq) then
        s.updCore p (·.putOp 3 { o with sub := 13, p1 := x.seq })
      else s.settle p 3 o
    else
      let (s, l) := rd s (fieldOf x.desc 8 8) (2 * x.nm)
      match l with
      | .error f => s.engFault p 3 o f false 0
      | .ok l =>
        let n := if !x.valid || (x.op = 3 && x.rank ≠ x.root) then 0 else x.count * elemBytes x.ifmt
        let (s, d) := rd s (fieldOf x.desc 24 8) n
        match d with
        | .error f => s.engFault p 3 o f false 0
        | .ok d =>
          let y := { x with list := l.data, data := d.data, cls := d.cls }
          match s.collFault y with
          | some f => s.engFault p 3 o f true 0
          | none =>
            let s := s.collSend y
            { s.updCore p (·.putOp 3 { o with sub := 13, p1 := x.seq }) with
                seqs := s.seqs.filter (fun y => y.1 != k) ++ [(k, x.seq)], colls := s.colls ++ [y] }

/-- The key under which a contribution stands: its context's, or the one that a peer's carried. -/
def State.collKey (s : State) (c : Coll) : BitVec 24 := match c.peer with | some x => x.2 | none => SMap.get s.fab.ckeys 0 c.ctx

/-- Are two contributions members of one collective: the same SEQ under one context's key? -/
def State.sameColl (s : State) (a b : Coll) : Bool :=
  a.seq == b.seq && ((a.peer.isNone && b.peer.isNone && a.ctx == b.ctx) || (s.collKey a != 0 && s.collKey a == s.collKey b))

/-- The member that a contribution comes from, as this module names it. -/
def State.collHome (s : State) (c : Coll) : Nat × Nat :=
  match c.peer with | some x => (x.1, (c.entry c.rank).2) | none => (511, s.sideOf c.agent)

/-- Do two descriptors agree (13 R354)? -/
def Coll.agrees (a b : Coll) : Bool :=
  a.nm == b.nm && a.op == b.op && a.count == b.count && a.ce == b.ce && a.ifmt == b.ifmt && a.ofmt == b.ofmt &&
  (seqFrom 0 a.nm).all fun r => (a.entry r).2 == (b.entry r).2

/-- Element k of a contribution as raw bits, and whether it reads as NaN (18 R430). -/
def Coll.elem (c : Coll) (k : Nat) : Nat × Bool :=
  let n := elemBytes c.ifmt
  (fieldOf c.data (n * k) n, ((c.cls.drop (n * k)).take n).any (3 ≤ ·))

/-- The sum of element k over all members, as a cell (13 R355; 03 R82). -/
def sumCell (l : List Coll) (ce k : Nat) : Nat :=
  l.foldl (fun cell c =>
    let (v, bad) := c.elem k
    if bad then wideAdd cell .nan
    else match c.ifmt with
      | 0 => wideAdd cell (fp32.read false v)
      | 1 => wideAdd cell (bf16.read false v)
      | _ => cellMerge cell v) (cellInit (BitVec.ofNat 8 ce))

/-- A summed element in the output format. -/
def sumBytes (ofmt cell : Nat) : List Byte :=
  match ofmt with
  | 0 => toBytes 4 (fp32.write {} (cellValue cell) 0).1
  | 1 => toBytes 2 (bf16.write {} (cellValue cell) 0).1
  | _ => toBytes 16 cell

/-- What a member's DST receives, with classes (13 R355); `l` the contributions by rank. -/
def Coll.result (c : Coll) (l : List Coll) : List Byte × List Nat :=
  let sums := fun (lo n : Nat) => (seqFrom lo n).flatMap fun k => sumBytes c.ofmt (sumCell l c.ce k)
  match c.op with
  | 0 => (sums 0 c.count, [])
  | 1 => (sums (c.rank * (c.count / c.nm)) (c.count / c.nm), [])
  | 2 => (l.flatMap (·.data), l.flatMap (·.cls))
  | _ => match l[c.root]? with | some x => (x.data, x.cls) | none => ([], [])

/-- Does a cell contribution hold another CE than its descriptor (13 R355)? -/
def Coll.ceBad (c : Coll) : Bool :=
  c.ifmt == 2 && c.op < 2 && (seqFrom 0 c.count).any fun k => nbits (c.elem k).1 116 8 != c.ce

/-- Remove a contribution and let its coll, and every coll of its context on its die side that repeats it, complete
(10 R294). -/
def State.endColl (s : State) (c : Coll) : State :=
  let s := { s with colls := s.colls.filter (· != c) }
  if c.peer.isSome then s else
  ((s.cores.map (·.1)).filter fun q => q < slotBase && s.sideOf q == s.sideOf c.agent && s.ctxOf q == c.ctx).foldl (fun s q =>
    s.updCore q fun k => { k with eng3 := k.eng3.map fun o =>
      if o.sub = 13 ∧ o.p1 = c.seq ∧ vaOf o.dst = vaOf c.addr then { o with sub := 15 } else o }) s

/-- The contributions to the collective of `c`, a member of this module, by rank: the peers' too (13 R354). -/
def State.byRank (s : State) (c : Coll) (g : List Coll) : List Coll :=
  (seqFrom 0 c.nm).filterMap fun r => g.find? fun x => x.rank == r && s.collHome x == c.entry r

/-- A contribution of this module ends in a fault of its coll; a peer's is its own module's concern. -/
def State.failColl (s : State) (x : Coll) (r : Rec) : State :=
  if x.peer.isSome then s.endColl x else (s.endColl x).report x.agent (s.recFor x.agent r)

/-- A member's result reaches its DST (09 R240; 13 R355). -/
def State.collWrite (s : State) (x : Coll) (d : List Byte) (cls : List Nat) : State × Option XFault :=
  match gField (fieldOf x.desc 32 8) with
  | .error f => (s, some f)
  | .ok a => s.engWrite x.agent x.sv 3 x.num a a d cls

/-- COLL_COMPLETE: all members' contributions are present. When they agree the DST of each member of this module receives
its result; else every such member's coll faults with CAUSE 0x60 (13 R354, R355; 19 R458). -/
def State.collFinish (s : State) (i : Nat) : State :=
  match s.colls[i]? with
  | none => s
  | some c =>
    let g := s.colls.filter (s.sameColl c)
    let need := g.foldl (fun n x => min n x.nm) c.nm
    if c.peer.isSome || g.length < need then s
    else if !(g.all fun x => x.valid && c.agrees x && !x.ceBad) then
      g.foldl (fun s x => s.failColl x { kind := 6, detail := ({ cause := 0x60 } : Use).word }) s
    else
      let byRank := s.byRank c g
      if byRank.length < c.nm then s else
      if byRank.any (fun x => x.peer.isNone && s.routeKeeps (s.engWho x.agent x.sv) (fieldOf x.desc 32 8 % 2 ^ 56) (x.result byRank).1.length) then s else
      byRank.foldl (fun s x =>
        if x.peer.isSome then s.endColl x else
        let (d, cls) := x.result byRank
        let (s, f) := (s.flush (.core x.agent) true).collWrite x d cls
        let s := s.endColl x
        match f with
        | some f => s.report x.agent (s.engRec x.agent x.sv f true 0)
        | none => s) s

/-- COLL_COMPLETE (10 R294). -/
def execCollComplete (i : Nat) (s : State) : Host.Outcome State Fault Refusal := .next (s.collFinish i)

/-! ### The engine's next request, and completions (10 R269, R275) -/

/-- Has an operation still to be started, or, if it is a copy, requests to issue? A copy whose requests are all
outstanding lets the next operation start (10 R275 (a)). -/
def EngOp.hasWork (o : EngOp) : Bool :=
  if o.sub ≤ 5 then o.prog < o.total || o.flights.isEmpty else o.sub ≤ 10 || o.sub == 12

/-- Engine `e` of agent `p` acts on its oldest operation that has work left, or on requests outstanding. -/
def State.engineStep (s : State) (p e : Nat) : State :=
  let s := s.flush (.core p) true
  match (((s.core p).engOps e).find? EngOp.hasWork).orElse fun _ => ((s.core p).engOps e).find? (fun o => !o.flights.isEmpty) with
  | none => s
  | some o =>
    if 5 < o.sub ∧ (s.core p).outstanding e ≠ 0 ∧ Config.choice (s.tick + 15) = false then s.copyStep p e o else
    match o.sub with
    | 6 => s.drainStep p e o
    | 7 => s.streamsStep p e o
    | 8 => s.regionStep p e o
    | 9 => s.regionStep p e o
    | 10 => s.touchStep p e o
    | 12 => s.collStep p o
    | _ => s.copyStep p e o

/-- ENGINE_OP_COMPLETE: the oldest operation of an engine, once settled, completes, and the timeline reaches
its number (10 R269). -/
def execEngineOpComplete (p e : Nat) (s : State) : Host.Outcome State Fault Refusal :=
  .next (match (s.core p).engOps e with
    | o :: r => if o.sub = 15 then s.updCore p fun c => (c.setEng e r).setTl (if e < 2 then e else 3) (BitVec.ofNat 64 o.num) else s
    | [] => s)

/-! ### Host routing (13 R349) -/

/-- Have all host accesses that were routed when the route was written performed? -/
def State.routeQuiet (s : State) : Bool :=
  s.cores.all fun (p, c) =>
    let cut := SMap.get s.ctl.hcuts 0 p
    !(c.pend.any fun x => x.going && x.pos < cut && (s.rangeOf p x).any inHost) &&
    !(c.released.any fun g => g.pos < cut && (g.locs p).any inHost) &&
    (c.eng0 ++ c.eng1).all fun o => o.flights.all fun x => !s.copyHost p o x.1

/-- A route that has been written takes force. -/
def State.settleRoute (s : State) : State :=
  match s.ctl.hnext with
  | none => s
  | some k => if s.routeQuiet then { s with ctl := { s.ctl with hroute := k, hnext := none, hcuts := [] } }.flushOwn else s

/-! ### Messages and signals (10 R287, R292; 11 R307) -/

/-- May a message be delivered: its send's bundles have completed, what fences and R308 put before the send has
performed, and so have the stores that the send's own checkpoint bundle released, which the message carries (02 R45; 11
R310 (b))? -/
def State.mayDeliver (s : State) (m : InMesh) : Bool :=
  s.maySignal m.sender m.pos none && !s.bundleOpen m.sender m.pos &&
    !((s.core m.sender).released.any fun e => e.pos == m.pos / 16 * 16)

/-- A tlsig or send of agent `p` at place `pos` takes effect, before whatever it overtakes (11 R306, R307). -/
def State.signalled (s : State) (p pos : Nat) : State := s.overtake p ((s.core p).releasedBefore pos) (Later.signal pos none)

/-- MESSAGE_DELIVERED: the i-th message in the mesh enters its target's queue of 16, in issue order for its
sender and target; its send then completes, on a tandem secondary too (10 R292; 02 R50 (d)). -/
def execMessageDelivered (i : Nat) (s : State) : Host.Outcome State Fault Refusal :=
  .next (match s.mesh[i]? with
    | none => s
    | some m =>
      let first := (s.mesh.take i).all fun x => !(x.sender == m.sender && x.target == m.target)
      if first && s.mayDeliver m && (s.core m.target).recvq.length < 16 then
        let s := { s with mesh := s.mesh.take i ++ s.mesh.drop (i + 1) }.signalled m.sender m.pos
        let s := s.updCore m.target fun c => { c with recvq := c.recvq ++ [{ sender := m.sender, bytes := m.bytes, cls := m.cls }] }
        ((s.membersOf m.sender).filter fun q => s.primary q == m.sender).foldl (fun s q =>
          s.updCore q fun c => c.setEng m.eng ((c.engOps m.eng).map fun o =>
            if o.num = m.num ∧ o.sub = 11 then { o with sub := 15 } else o)) s
      else s)

/-- TLSIG_EFFECT: a signal between agents of different vc counts takes effect, in issue order for its sender
and target (10 R287; 05 R148). -/
def execTlsigEffect (i : Nat) (s : State) : Host.Outcome State Fault Refusal :=
  .next (match s.sigs[i]? with
    | none => s
    | some g =>
      let first := (s.sigs.take i).all fun x => !(x.sender == g.sender && (if g.k = 8 then x.k == 8 && x.pos < g.pos
        else x.target == g.target && x.k != 8))
      if g.due = none ∧ first = true ∧ (g.k = 8 ∨ s.maySignal g.sender g.pos none = true) then
        let s := { s with sigs := s.sigs.take i ++ s.sigs.drop (i + 1) }
        (if g.k = 8 then s else s.signalled g.sender g.pos).updCore g.target (·.signal g)
      else s)

/-! ### Streams, fills, walks and stores in wall time -/

/-- STREAM_READ_AHEAD: port `q` of core `p` reads its next element, up to 512, or some bytes of it (10 R279; 11 R302). An
element address outside L-space is met by the bundle that pops it; a fill that fails is reported (18 R438). -/
def execStreamReadAhead (p q : Nat) (s : State) : Host.Outcome State Fault Refusal :=
  let x := (s.core p).port q
  .next (if x.bound && !x.write && x.ahead.length < 512 then
      let (s, f) := (s.flush (.core p) true).readAhead p q (s.someBytes (2 ^ x.lsz - x.part.length))
      match f with
      | some f => if f.cause = 8 ∨ !(s.core p).late.isEmpty then s else s.report p (s.engRec p (s.core p).sv f false 0)
      | none => s
    else s)

/-- Port `q` of core `p` writes some more bytes of its oldest element; one that faults is written no further. -/
def State.drainSome (s : State) (p q : Nat) : State :=
  let x := (s.core p).port q
  match x.ahead with
  | [] => s
  | e :: r =>
    let n := 2 ^ x.lsz
    let lo := x.part.length
    let bad := (x.badAt (BitVec.ofNat 64 e.1).toInt).isSome || decide (regionTable < e.1 + n) || (s.fillRange p e.1 n).2.isSome
    let hi := if bad then n else lo + s.someBytes (n - lo)
    let s := s.updCore p fun c => c.setPort q
      (if hi < n then { x with part := x.part ++ List.replicate (hi - lo) (0, 0) } else { x with ahead := r, part := [] })
    s.writePart p x e lo hi

/-- STREAM_WRITE_DRAIN: port `q` of core `p` writes its oldest element, or some bytes of it (10 R279; 11 R302). -/
def execStreamWriteDrain (p q : Nat) (s : State) : Host.Outcome State Fault Refusal :=
  let x := (s.core p).port q
  .next (if x.bound && x.write then ((s.flush (.core p) true).drainSome p q).settleLate p else s)

/-- A started fill ends: the line is filled, or the access that started it is to meet the fault (09 R259; 18 R438). One
from host memory waits while a route is not yet in force (13 R349). -/
def State.endFill (s : State) (q line : Nat) : State :=
  if s.fillOf q line ≠ 2 || (s.ctl.hnext.isSome && s.fillHost q line) then s else
  let (s, f) := s.fillLine q line
  match f with | none => s | some _ => s.setFill q line 4

/-- LINE_FILL: the fill of the line of core `q`'s vault at `off` ends, if an access has started it (09 R259). -/
def execLineFill (q off : Nat) (s : State) : Host.Outcome State Fault Refusal :=
  .next ((s.flush (.core q) true).endFill q (off / 64))

/-- PAGE_WALK: a walk completes, and its leaf enters the caches (09 R254 to R256). -/
def execPageWalk (c : Nat) (va : BitVec 56) (s : State) : Host.Outcome State Fault Refusal :=
  .next (s.walk c va.toNat).1

/-- STORE_PERFORM: the i-th released store of agent `p` performs, if nothing orders it after an access that
has not (02 R42; 11 R307, R312). -/
def execStorePerform (p i : Nat) (s : State) : Host.Outcome State Fault Refusal :=
  .next (if s.mayPerform p i then
      match (s.core p).released[i]? with
      | none => s
      | some e =>
        let s := (s.flush (.core p) false).overtake p i (e.later p)
        (s.updCore p fun c => { c with released := c.released.take i ++ c.released.drop (i + 1) }).performStore p e
    else s)

/-- The fills that the accesses of core `p` have started, in the vaults of its cluster, end. -/
def State.endFills (s : State) (p : Nat) : State :=
  (seqFrom (clusterBase p) 4).foldl (fun s q =>
    (((s.core q).fills.filter fun e => e.2 == 2).map (·.1)).foldl (fun s l => s.endFill q l) s) s

end Sys2Proof.Machine
end

