-- ==== Sys2Proof/Machine/Matrix.lean ====
section
/-! DEFINITION. The M slot: captures, numbered operations of the tile, key races and queries
(07 R188 to R191; 08 R207 to R223; 19 R444 to R446). -/

namespace Sys2Proof.Machine

open Sys2Proof

/-! ### Key races (07 R188 to R191) -/

/-- Width of a key type in bits (07 R189). -/
def keyWidth (ty : Nat) : Nat :=
  match ty with | 0 | 3 => 8 | 1 | 4 | 6 | 7 => 16 | _ => 32

/-- KeyCode (07 R189). -/
def keyCode (v ty : Nat) (desc : Bool) : Nat :=
  let w := keyWidth ty
  let v := v % 2 ^ w
  let fl := fun (f : Fp) =>
    let v := match f.read false v with | .nan => f.nanBits | _ => v
    if nbit v (w - 1) then 2 ^ w - 1 - v else v + 2 ^ (w - 1)
  let c := match ty with
    | 0 | 1 | 2 => v
    | 3 | 4 | 5 => v ^^^ 2 ^ (w - 1)
    | 6 => fl fp16
    | 7 => fl bf16
    | _ => fl fp32
  if desc then 2 ^ w - 1 - c else c

/-- Insert a line by (code, index). -/
def insertLine (x : Nat × Nat) : List (Nat × Nat) → List (Nat × Nat)
  | [] => [x]
  | y :: r => if x.1 < y.1 ∨ (x.1 = y.1 ∧ x.2 < y.2) then x :: y :: r else y :: insertLine x r

/-- The order O of the keys on lines 0 upward (07 R190). -/
def raceOrder (keys : List Nat) (ty : Nat) (desc : Bool) : List Nat :=
  (((keys.map fun v => keyCode v ty desc).zip (seqFrom 0 keys.length)).foldl (fun r x => insertLine x r) []).map (·.2)

/-- An order statistic: 0 min, 1 max, 2 rank, 3 top-k (07 R191). -/
def raceDesc (op : Nat) : Bool := op == 1 || op == 3

/-- The 128 lanes that an M-slot race writes from the order of its lines (08 R219). -/
def raceLanes (op : Nat) (o : List Nat) (keys : List Nat) (k : Nat) : List Nat :=
  let ones := 0xFFFFFFFF
  match op with
  | 0 | 1 =>
    let l := o.headD 0
    (seqFrom 0 128).map fun i => if i % 16 = 0 then l else if i % 16 = 1 then keys.getD l 0 else 0
  | 2 => (seqFrom 0 128).map fun i => if i < keys.length then indexIn o i else ones
  | _ => (seqFrom 0 128).map fun i => if i < k then o.getD i 0 else ones

/-! ### Readings under trim words (07 R185, R199; log entry 15) -/

/-- Factors of a trim word, over 2^17 for PSEG and NSEG and over 2^18 for GAIN; its offset in 1/64 τ. -/
def psegOf (w : BitVec 32) : Int := 2 ^ 17 + (w.toNat % 256 : Nat) - 128
def nsegOf (w : BitVec 32) : Int := 2 ^ 17 + (w.toNat / 2 ^ 8 % 256 : Nat) - 128
def gainOf (w : BitVec 32) : Int := 2 ^ 18 + (w.toNat / 2 ^ 16 % 256 : Nat) - 128
def offsetOf (w : BitVec 32) : Int := (w.toNat / 2 ^ 24 % 256 : Nat) - 128

/-- The sum of products a · x / y: numerator and denominator. -/
def ratSum (l : List (Int × Int × Int)) : Int × Int :=
  l.foldl (fun n e => (n.1 * e.2.2 + e.1 * e.2.1 * n.2, n.2 * e.2.2)) (0, 1)

/-- A reading in 1/256 τ of a converter whose committed word is `was` and whose word in force is `now`: `parts` are
its delays, each with the factors of its chain in force and committed, `e` its error under the committed words. -/
def readingOf (parts : List (Int × Int × Int)) (was now : BitVec 32) (e : Int) : Int :=
  let (n, d) := ratSum parts
  (256 * n + (e - 4 * offsetOf was) * d) * gainOf now / (d * gainOf was) + 4 * offsetOf now

/-- The nearest integer of a reading, and its deviation from it in 1/256 τ. -/
def gridOf (r : Int) : Int × Int := let n := (r + 128) / 256; (n, r - 256 * n)

/-- The error of converter `i` of array `a` of tile `q`, at its temperature and in its millisecond. -/
def State.readError (s : State) (q a i : Nat) : Int :=
  ((Config.refraceMean ((((s.gtc.toNat / 2 ^ 20 * 65536 + (s.tile q).tnow.toNat) * 512 + q) * 4 + a) * 4096 + i)).toNat % 129 : Nat) - 64

/-- Has a word of array `a` been written since its last commit? -/
def Tile.astray (t : Tile) (a : Nat) : Bool := t.moved.any fun e => e.1 / 4096 == a

/-! ### Margin faults (19 R444) -/

/-- A truing run of array `a` of tile `q` commits its 3,584 words in one step (07 R200, R201). -/
def State.commitArray (s : State) (q a : Nat) : State :=
  s.updTile q fun t => { t with
    trims := (seqFrom 0 3584).foldl (fun m i => SMap.put m 0x80808080 (4096 * a + i) (Config.trimMeasured s.tick a i)) t.trims,
    moved := t.moved.filter (fun e => e.1 / 4096 != a), done := t.done ||| (1#4 <<< a),
    fails := t.fails.filter (fun e => e.1 != a) }

/-- DETAIL of KIND 0x09: a stamp has class 0 (19 R447). -/
def OffGrid.detail (g : OffGrid) (key : Bool) (cause : Nat) : Nat :=
  let d : Int := if g.dev < -32768 then -32768 else if 32767 < g.dev then 32767 else g.dev
  (d % 65536).toNat * 2 ^ 48 + g.arr % 4 * 2 ^ 46 + g.row % 128 * 2 ^ 39 + (if key then 2 ^ 33 else g.cls % 8 * 2 ^ 36) +
    g.seg % 4 * 2 ^ 34 + cause

/-- The record of a reading off the grid. -/
def State.marginRec (s : State) (q : Nat) (g : OffGrid) (key : Bool) (sev cause : Nat) : Rec :=
  { s.recFor q { kind := 9, sev := sev, detail := g.detail key cause } with block := 288 + q }

/-- Does the mtrue that the tile has taken wait for its round (08 R221)? -/
def Tile.asked (t : Tile) : Bool := (match t.busyOp with | some o => o.kind == .mtrue && !t.fin | none => false)

/-- A truing run of array `a`, other than a ballast run, fails; the third failure in a row withdraws the tile (19
R445). -/
def Tile.runFails (t : Tile) (a : Nat) : Tile :=
  let n := SMap.get t.fails 0 a + 1
  let t := { t with fails := SMap.put t.fails 0 a n }
  if n < 3 then t else { t with wdrn := true, round := none, due := false, boot := false, fin := t.fin || t.asked }

/-- A truing run of array `a` of tile `q` that fails is logged, not delivered (19 R445). -/
def State.logRun (s : State) (q a : Nat) : State :=
  s.log (s.marginRec q { arr := a, dev := 0, again := false, saturated := false } false 5 4)

/-- Array `a` of tile `q` is trued on its own, again after each run that fails, until a run commits or the tile is
withdrawn (19 R444, R445). Whether a run fails is the converter's: a free choice. -/
def State.trueArray : Nat → State → Nat → Nat → State
  | 0, s, _, _ => s
  | n + 1, s, q, a =>
    if Config.choice (s.tick + 40 + n) = false then s.commitArray q a
    else
      let s := (s.logRun q a).updTile q (·.runFails a)
      if (s.tile q).wdrn then s else State.trueArray n s q a

/-- Does a reading that was off the grid repeat after the run on its array: its retry is off again, or no run has
committed and written words still stand in the array (19 R444)? -/
def State.repeats (s : State) (q : Nat) (g : OffGrid) : Bool := g.again || (s.tile q).astray g.arr

/-- Meet a reading off the grid: the array is trued and the vector raced again; a retry inside the band
is logged (SEV 0), a repeat on a dense vector too (SEV 3). -/
def State.meetMargin (s : State) (q : Nat) (g : OffGrid) (key : Bool) : State :=
  let s := State.trueArray 3 (s.updTile q fun t => { t with off := t.off.erase g }) q g.arr
  if !s.repeats q g then s.log (s.marginRec q g key 0 (if g.saturated then 3 else 1))
  else if key then s else s.log (s.marginRec q g key 3 2)

/-- A key race meets a reading off the grid; the record of the fault that it takes when the reading repeats. -/
def State.meetStamp (s : State) (q : Nat) (g : OffGrid) : State × Option Rec :=
  let s := s.meetMargin q g true
  (s, if s.repeats q g then some (s.marginRec q g true 5 2) else none)

/-- A key race of `passes` passes by tile `q`: the stamps off the grid that it meets, of class 0, and the record of
the fault it takes when one of them repeats. -/
def State.keyMargin (s : State) (q passes : Nat) : State × Option Rec :=
  ((s.tile q).off.filter fun g => g.arr < passes && g.cls == 0).foldl (fun (r : State × Option Rec) g =>
    match r.2 with | some _ => r | none => r.1.meetStamp q g) (s, none)

/-- The digit of pass `j` of a code (07 R190). -/
def digitOf (code ty j : Nat) : Nat := nbits code (keyWidth ty - 8 - 8 * j) 8

/-- The stamp of key line `i` of tile `q` for a delay `t` on array `a`, where words of the array have been written since
its commit, and its deviation: the delay lies in the P segments of class 0, the converter's OFF and GAIN in the word of
class 0 and segment 0 (07 R188, R199). -/
def State.stampOf (s : State) (q a i t : Nat) : Nat × Int :=
  let x := s.tile q
  let part := fun (k left : Nat) => if k = 3 then left else Config.keyShare (512 * q + 4 * i + k) t % (left + 1)
  let (parts, _) := (seqFrom 0 4).foldl (fun (r : List (Int × Int × Int) × Nat) k =>
    let m := part k r.2
    (r.1 ++ [((m : Int), psegOf (x.trim a (28 * i + k)), psegOf (x.was a (28 * i + k)))], r.2 - m)) ([], t)
  let (n, dev) := gridOf (readingOf parts (x.was a (28 * i)) (x.trim a (28 * i)) (s.readError q a (28 * i)))
  (min 65535 n.toNat, dev)

/-- The stamp of line `i` with key code `code` in pass `j`: exact unless trim words of the pass's array have been written
from outside a run (07 R185, R190). -/
def State.stampAt (s : State) (q ty j i code : Nat) : Nat × Int :=
  let t := 128 * digitOf code ty j + i
  if (s.tile q).astray j then s.stampOf q j i t else (t, 0)

/-- Passes whose stamps written trim words put off the grid have their arrays trued and are raced again; the record of
the fault where one repeats (19 R444). -/
def State.keyTrue (s : State) (q : Nat) (keys : List Nat) (ty : Nat) (desc : Bool) : State × Option Rec :=
  let codes := keys.map fun v => keyCode v ty desc
  (seqFrom 0 (keyWidth ty / 8)).foldl (fun (r : State × Option Rec) j =>
    match r.2, (codes.zip (seqFrom 0 codes.length)).find? fun e => decide (64 < (r.1.stampAt q ty j e.2 e.1).2.natAbs) with
    | none, some e =>
      r.1.meetStamp q { arr := j, row := e.2, dev := (r.1.stampAt q ty j e.2 e.1).2, again := false, saturated := false }
    | _, _ => r) (s, none)

/-- The order that a race finds on tile `q`, by the stamps of its passes (07 R190). -/
def State.keyOrder (s : State) (q : Nat) (keys : List Nat) (ty : Nat) (desc : Bool) : List Nat :=
  let codes := keys.map fun v => keyCode v ty desc
  if (seqFrom 0 (keyWidth ty / 8)).all fun j => !(s.tile q).astray j then raceOrder keys ty desc
  else
    let found := (codes.zip (seqFrom 0 codes.length)).map fun e =>
      (seqFrom 0 (keyWidth ty / 8)).foldl (fun n j => 512 * n + (s.stampAt q ty j e.2 e.1).1 / 128) 0
    ((found.zip (seqFrom 0 keys.length)).foldl (fun r x => insertLine x r) []).map (·.2)

/-- A key race on tile `q`: the order that it finds, and the record of the fault that it takes instead. -/
def State.keyRun (s : State) (q : Nat) (keys : List Nat) (ty : Nat) (desc : Bool) : State × List Nat × Option Rec :=
  let (s, f) := s.keyMargin q (keyWidth ty / 8)
  match f with
  | some r => (s, [], some r)
  | none =>
    let (s, f) := s.keyTrue q keys ty desc
    (s, s.keyOrder q keys ty desc, f)

/-! ### Issue (08 R207 to R210) -/

/-- Cause 0x51: MPC outside the code ranges (18 R443); cause 0x05 of KIND 0x09 on a withdrawn tile (19
R446); 0x29 on a hub program slot. -/
def chkM (races : Bool) (s : State) : Option Use :=
  firstUse [
    orUse (!isSlot s.cur.core) (s.use { cause := 0x29 }),
    orUse (codeRange s.me.mpc) (s.use { cause := 0x51 }),
    orUse (!(races && (s.tile s.cur.core).wdrn)) (s.use { kind := 9, cause := 5, detail := 5 })]

/-- The metadata word at MPC (08 R207 (d)). -/
def State.metaWord (s : State) : BitVec 32 :=
  let c := s.me
  match ispOffset c.ispsel c.mpc.toNat with
  | some o => s.codeWord (ispAddr s.cur.core o)
  | none => 0

/-- Every M-slot issue advances MPC (05 R139). -/
def State.mAdvance (s : State) : State := s.upd fun c => { c with mpc := c.mpc + 1 }

/-- What every M-slot issue but a key race does: the tile seed is drawn under RND 5, and MPC advances (03 R59; 05 R139;
log entry 46). -/
def State.mTake (s : State) : State :=
  (if s.cur.rnd = 5 then s.upd fun c => c.setRnd 0 (randStep (c.rndOf 0)) else s).mAdvance

/-- The captures of a numbered operation (08 R207). -/
def State.mOp (s : State) (k : TKind) : TileOp :=
  let c := s.me
  { num := c.ni + 1, kind := k, vc := c.vc, mp := (seqFrom 0 8).map c.gmp, fmt := c.fmt, rnd := s.cur.rnd,
    sat := s.cur.sat, ftz := s.cur.ftz, info := s.metaWord,
    seed := if s.cur.rnd = 5 then randStep (c.rndOf 0) else 0, sv := s.cur.sv }

/-- Put an operation into the operand queue of the acting core's tile. -/
def State.enqueue (s : State) (o : TileOp) : State :=
  s.updTile s.cur.core fun t => { t with queue := t.queue ++ [o] }

/-- A numbered operation issues: it takes the number NI + 1 (08 R209). -/
def State.mNumber (s : State) (k : TKind) : State :=
  let o := s.mOp k
  (s.enqueue o).mTake.upd fun c => { c with ni := c.ni + 1 }

/-- Numbered operations issued and not completed (08 R210). -/
def Tile.outstanding (t : Tile) : Nat :=
  (t.queue.filter fun o => match o.kind with | .query .. => false | .capture => false | .restore => false | _ => true).length +
    (if t.busyOp.isSome then 1 else 0)

/-- Is the accumulate mode of mp5 persistent (08 R212)? -/
def State.persistent (s : State) : Bool := (s.me.gmp 5).setWidth 2 == (3 : BitVec 2)

/-- Checks of mcall. -/
def chkMcall (s : State) : Option Use :=
  firstUse [chkM true s, orUse (!s.persistent || s.me.inIssue.ck) (s.use { cause := 0x22 })]

/-- mcall: enqueue the numbered call with its captures (08 R216). In persistent mode it is irrevocable: on a
re-issue of its completed bundle it is neither enqueued nor numbered again, and a tandem secondary's
call completes its number without accumulating (17 R419 (c); 02 R50 (d)). -/
def execMcall (idx : BitVec 10) (s : State) : Host.Outcome State Fault Refusal :=
  guarded s (chkMcall s)
    (if !s.persistent then s.mNumber (.mcall idx.toNat)
     else if s.donePreviously then s.mTake
     else if s.secondary s.cur.core then s.markDone.mNumber .mfence
     else s.markDone.mNumber (.mcall idx.toNat))

/-- Check of mspill and mfill: the base is 4 KiB aligned (08 R220). -/
def chkPannier (s : State) : Option Use := firstUse [chkM false s, s.alignUse (s.me.gmp 0).toNat 4096]

/-- mspill: numbered; the selected banks go to a pannier block (08 R220). -/
def execMspill (mask : BitVec 4) (s : State) : Host.Outcome State Fault Refusal :=
  guarded s (chkPannier s) (s.mNumber (.mspill mask.toNat))

/-- mfill: numbered; the selected banks and SAT come from a pannier block (08 R220). -/
def execMfill (mask : BitVec 4) (s : State) : Host.Outcome State Fault Refusal :=
  guarded s (chkPannier s) (s.mNumber (.mfill mask.toNat))

/-- mtrue: numbered request for a truing round (08 R221). -/
def execMtrue (s : State) : Host.Outcome State Fault Refusal := guarded s (chkM true s) (s.mNumber .mtrue)

/-- mfence: numbered; completes after every earlier one (08 R222). -/
def execMfence (s : State) : Host.Outcome State Fault Refusal := guarded s (chkM false s) (s.mNumber .mfence)

/-! ### Key races in the M slot (08 R218, R219) -/

/-- The keys on lines 0 to n − 1. -/
def State.raceKeys (s : State) (a : BitVec 5) (ty n : Nat) : List Nat :=
  (seqFrom 0 n).map fun i => (s.me.gv (i / 16) a.toNat (i % 16)).toNat % 2 ^ keyWidth ty

/-- A fault to deliver at the first vc after `due`. -/
def Core.pendLate (c : Core) (r : Rec) (due : Nat) : Core := { c with late := c.late ++ [{ what := r, due := due }] }

/-- A key race: all 128 lanes return from the M-die and land at vc n + 40; if a stamp stays off the grid nothing lands,
and the core takes the fault at that vc (01 R19; 08 R211, R219; 19 R444). The prefix has no effect. A truing or ballast
run that holds an array of the race neither waits nor is abandoned: both go on, for 07 R202 and R204 speak of routines
alone (DESIGN CHOICE, log entry 123). -/
def State.keyRace (s : State) (op : Nat) (d a : BitVec 5) (ty n k : Nat) : State :=
  let keys := s.raceKeys a ty n
  let (s, o, f) := s.keyRun s.cur.core keys ty (raceDesc op)
  let lanes := (raceLanes op o keys k).zip (seqFrom 0 128) |>.map fun (v, i) => (vkey (i / 16) d.toNat (i % 16), BitVec.ofNat 32 v)
  let back := fun (s : State) (l : List (Nat × BitVec 32)) => s.fly .lanes (.lanes l) 40 40 fun x => { x with late := true, row := 3 }
  let s := s.tally 2 (keyWidth ty / 8)
  let s := match f with
    | none => back s lanes
    | some r => (back s []).upd fun c => c.pendLate r (c.vc + 39)
  s.mAdvance

/-- mrmin (08 R219). -/
def execMrmin (d a : BitVec 5) (ty : BitVec 4) (nm1 : BitVec 7) (s : State) : Host.Outcome State Fault Refusal :=
  guarded s (chkM true s) (s.keyRace 0 d a ty.toNat (nm1.toNat + 1) 0)

/-- mrmax (08 R219). -/
def execMrmax (d a : BitVec 5) (ty : BitVec 4) (nm1 : BitVec 7) (s : State) : Host.Outcome State Fault Refusal :=
  guarded s (chkM true s) (s.keyRace 1 d a ty.toNat (nm1.toNat + 1) 0)

/-- mrank (08 R219). -/
def execMrank (d a : BitVec 5) (ty : BitVec 4) (nm1 : BitVec 7) (s : State) : Host.Outcome State Fault Refusal :=
  guarded s (chkM true s) (s.keyRace 2 d a ty.toNat (nm1.toNat + 1) 0)

/-- Check of mtopk: k at most n (17 R415 cause 0x2A). -/
def chkTopk (nm1 km1 : BitVec 7) (s : State) : Option Use :=
  firstUse [chkM true s, s.inLimit (km1.toNat ≤ nm1.toNat)]

/-- mtopk (08 R219). -/
def execMtopk (d a : BitVec 5) (ty : BitVec 4) (nm1 km1 : BitVec 7) (s : State) : Host.Outcome State Fault Refusal :=
  guarded s (chkTopk nm1 km1 s) (s.keyRace 3 d a ty.toNat (nm1.toNat + 1) (km1.toNat + 1))

/-! ### Queries (08 R223) -/

/-- mqry: the tile answers once every earlier numbered operation has completed; the value lands at vc
n + 40 (08 R211, R223). -/
def execMqry (d : BitVec 5) (sel : BitVec 2) (clr : Bool) (s : State) : Host.Outcome State Fault Refusal :=
  let id := s.tick
  let t := s.fly (.s d.toNat) (.query sel.toNat clr id) 40 40 fun x => { x with late := true, row := 3 }
  guarded s (chkM false s) (t.enqueue { num := 0, kind := .query id sel.toNat clr }).mTake

end Sys2Proof.Machine
end

