-- ==== Sys2Proof/Machine/Tile.lean ====
section
/-! DEFINITION. The race tile: the operand queue, routines and their tile stream code, truing (03 R66 to R80;
07 R181 to R206; 08 R209 to R236; 17 R417; 18 R430, R439; 19 R444 to R446). -/

namespace Sys2Proof.Machine

open Sys2Proof

/-! ### Accumulator entries (03 R71, R75; 07 R192) -/

/-- An entry: integer and class code. -/
abbrev Entry := BitVec 36 × BitVec 2
/-- Key of entry `c` of row `r` of bank `b`. -/
def accKey (b r c : Nat) : Nat := 16384 * (b % 4) + 128 * (r % 128) + c % 128
/-- An entry of a tile. -/
def Tile.entry (t : Tile) (b r c : Nat) : Entry := SMap.get t.acc (0, 0) (accKey b r c)
/-- Set it. -/
def Tile.setEntry (t : Tile) (b r c : Nat) (e : Entry) : Tile := { t with acc := SMap.put t.acc (0, 0) (accKey b r c) e }
/-- The 8-byte image of an entry (02 R56). -/
def entryImage (e : Entry) : List Byte := toBytes 8 (e.1.toNat + 2 ^ 36 * e.2.toNat)
/-- The entry of an image; bits [63:38] are ignored. An image outside 03 R71's range (A = −2^35, or a class
other than finite with A not 0) is taken as it stands (DESIGN CHOICE, log 111). -/
def imageEntry (b : List Byte) : Entry := let n := leNat b; (BitVec.ofNat 36 n, BitVec.ofNat 2 (n / 2 ^ 36))
/-- Greatest finite integer. -/
def accMax : Int := 2 ^ 35 - 1

/-- Combine (03 R75): the entry after one addend, and whether it saturated. `d` is the addend's class code
and integer. -/
def combine (e : Entry) (d : Nat × Int) : Entry × Bool :=
  let c := e.2.toNat
  if c = 3 ∨ d.1 = 3 then ((0, 3), false)
  else if c ≠ 0 ∧ d.1 ≠ 0 ∧ c ≠ d.1 then ((0, 3), false)
  else if c ≠ 0 then (e, false)
  else if d.1 ≠ 0 then ((0, BitVec.ofNat 2 d.1), false)
  else
    let v := e.1.toInt + d.2
    if accMax < v then ((BitVec.ofInt 36 accMax, 0), true)
    else if v < -accMax then ((BitVec.ofInt 36 (-accMax), 0), true)
    else ((BitVec.ofInt 36 v, 0), false)

/-- Is a bank in persistent mode? -/
def Tile.persists (t : Tile) (b : Nat) : Bool := (SMap.get t.modes 0 b).setWidth 2 == (3 : BitVec 2)

/-- Key in a capture that tells that bank `b` was captured. -/
def bankMark (b : Nat) : Nat := 65536 + b

/-- The tile's part of a capture: the banks that are not persistent (02 R43). -/
def Tile.capture (t : Tile) : Tile :=
  let m := (seqFrom 0 4).filter fun b => !t.persists b
  { t with shadow := some (t.acc.filter (fun e => m.contains (e.1 / 16384)) ++ m.map fun b => (bankMark b, (1, 0))) }

/-- The tile's part of a rollback: the captured banks, but those persistent now (02 R44). -/
def Tile.restore (t : Tile) : Tile :=
  match t.shadow with
  | none => t
  | some h =>
    let back := fun (b : Nat) => h.any (fun e => e.1 == bankMark b) && !t.persists b
    let pick := fun (b : Nat) => (if back b then h else t.acc).filter fun e => e.1 / 16384 == b && e.1 < 65536
    { t with acc := (seqFrom 0 4).flatMap pick }

/-! ### Faults of a routine (17 R417) -/

/-- The record of a routine's fault. -/
def State.tileRec (s : State) (q : Nat) (r : Rec) : Rec := { s.recFor q r with block := 288 + q }
/-- A microstore word. -/
def State.microWord (s : State) (q w : Nat) : BitVec 32 := s.codeWord (microAddr q (4 * w))
/-- A fault with SLOT 8: ENC and WHERE give the word that the routine is at, and its microstore word; for cause 0x40
WHERE is `wh`, the index called (17 R413, R414, R417). -/
def State.tileUse (s : State) (q cause wh : Nat) : Rec :=
  let u : Use := { kind := if cause = 0x0A then 5 else 6, cause := cause, slot := 8 }
  let u : Use := match (s.tile q).run with
    | none => { u with wh := wh }
    | some r => { u with wh := r.pc, enc := if r.pc < 8192 then (s.microWord q r.pc).toNat else 0 }
  s.tileRec q { kind := u.kind, detail := u.word }
/-- An access fault of a routine. -/
def State.tileAcc (s : State) (q : Nat) (sv : Bool) (f : XFault) (wr : Bool) : Rec :=
  let r := s.engRec q sv f wr 0
  s.tileRec q (if f.kind = 6 then { r with detail := (s.tileUse q f.cause 0).detail } else r)

/-- A routine ends: its number completes with TILE_OP_COMPLETE. -/
def Tile.endRoutine (t : Tile) : Tile := { t with run := none, fin := true }
/-- A routine stops at a faulting word; its number completes, and the fault is reported. -/
def State.routineFault (s : State) (q : Nat) (r : Rec) : State := (s.updTile q Tile.endRoutine).report q r

/-- One TSC word of the acting tile's routine: the routine goes on, or faults. -/
def State.tsc (s : State) (f : Nat → Routine → State × Except Rec Routine) : Host.Outcome State Fault Refusal :=
  let q := s.cur.core
  match (s.tile q).run with
  | none => .next s
  | some r =>
    match f q r with
    | (s, .ok r) => .next (s.updTile q fun t => { t with run := some r })
    | (s, .error e) => .next (s.routineFault q e)

/-- A word of the routine runs. -/
def Tile.ran (t : Tile) : Tile := { t with run := t.run.map fun r => { r with at_ := r.at_ + 1 } }
/-- The routine at the next word. -/
def Routine.succ (r : Routine) : Routine := { r with pc := r.pc + 1 }
/-- t[k]. -/
def Routine.gt (r : Routine) (k : BitVec 4) : Word := SMap.get r.t 0 k.toNat
/-- Set t[k]. -/
def Routine.setT (r : Routine) (k : BitVec 4) (v : Word) : Routine := { r with t := SMap.put r.t 0 k.toNat v }

/-! ### Parameters (08 R212, R213) -/

/-- ROWS, NCOL and KB from t3. -/
def Routine.rows (r : Routine) : Nat := nbits (r.gt 3).toNat 0 7 + 1
def Routine.ncol (r : Routine) : Nat := nbits (r.gt 3).toNat 8 9 + 1
def Routine.kb (r : Routine) : Nat := nbits (r.gt 3).toNat 20 4 + 1
/-- LI. -/
def Routine.li (r : Routine) : Nat := match r.loops.getLast? with | some l => l.idx | none => 0
/-- Format fields (04 R92). -/
def Routine.af (r : Routine) : Nat := nbits r.fmt.toNat 0 3
def Routine.wf (r : Routine) : Nat := nbits r.fmt.toNat 3 2
def Routine.wq (r : Routine) : Nat := nbits r.fmt.toNat 5 2
/-- Are weights TW16? -/
def Routine.tw16 (r : Routine) : Bool := r.wq == 0 && r.wf == 2
/-- Bytes of an activation vector and of a column. -/
def Routine.eb (r : Routine) : Nat := if r.af = 2 ∨ r.af = 3 ∨ r.af = 6 then 64 else 128
def Routine.wb (r : Routine) : Nat := if r.wq ≠ 0 then 128 else match r.wf with | 0 => 64 | 2 => 256 | _ => 128
/-- An image size: units of 64 bytes. -/
def imageSize (n b : Nat) : Nat := (n * (b + 1) + 63) / 64 * 64
/-- EACC. -/
def Routine.eacc (r : Routine) : Int := ((r.gt 4).setWidth 8).toInt
/-- An override scale of t4. -/
def Routine.ovr (r : Routine) (bit lo : Nat) : Option Nat :=
  if (r.gt 4).getLsbD bit then some (nbits (r.gt 4).toNat lo 8) else none
/-- Array of a column, and its N mask bit. -/
def Routine.arrOf (r : Routine) (c : Nat) : Nat := if r.tw16 then c / 64 else c / 128
def Routine.groupOf (r : Routine) (c : Nat) : Nat := if r.tw16 then 4 * (c / 64) + c % 64 / 16 else c / 32
def Routine.colOn (r : Routine) (c : Nat) : Bool := r.info.getLsbD (16 + r.groupOf c)
/-- Is NCOL within the limit of TW16 (cause 0x41)? -/
def Routine.colsOk (r : Routine) : Bool := !r.tw16 || r.ncol ≤ 256
/-- Is an image base legal (cause 0x41)? -/
def baseOk (a : Word) : Bool := a.toNat % 64 == 0 && spaceOf a ≤ 1

/-- The mode of the call's roundings. -/
def Routine.mode (r : Routine) : Mode := { rnd := r.rnd, sat := r.sat, ftz := r.ftz }

/-- Element k of packed bytes, `bits` wide, with the highest class of its bytes. -/
def elemAt (d : List Byte) (cls : List Nat) (bits k : Nat) : Nat × Nat :=
  if bits = 4 then (nbits ((d[k / 2]?).getD 0).toNat (4 * (k % 2)) 4, (cls[k / 2]?).getD 0)
  else (((d[k]?).getD 0).toNat, (cls[k]?).getD 0)

/-- A byte that an operation of tile `q` reads (08 R214): what it held at the operation's issue, after the first `n` steps
of its unit's history, or what any write since has left there, whichever Quiran gives. The history of the unit's memory
tells, at store address `k`, whose newest byte is `b`. -/
def State.seenByte (s : State) (q : Nat) (seen : Option Nat) (k : Nat) (b : Byte) : Byte :=
  match seen, s.unitOf q with
  | some n, some u =>
    let l := u.since_ n k
    if l.all (· == b) then b else ((b :: l)[Config.pick (s.tick + k + 17) % (l.length + 1)]?).getD b
  | _, _ => b

/-- A byte that a routine reads: one that it wrote before a waitq is what it held there or a later write left (08
R234). -/
def State.routineByte (s : State) (q : Nat) (r : Routine) (k : Nat) (b : Byte) : Byte :=
  s.seenByte q (if r.firm.any (fun x => x.1 ≤ k && k < x.1 + x.2) then some r.firmAt else r.seen) k b

/-- May some of `n` bytes at store address `k` have been written since the first `m` steps of the history of tile `q`'s
unit? -/
def State.stirred (s : State) (q : Nat) (seen : Option Nat) (k n : Nat) : Bool :=
  match seen, s.unitOf q with
  | some m, some u => (u.hist.take (u.hist.length - m)).any fun h => h.1 != u.members || h.2.any fun c => k ≤ c.1 && c.1 < k + n
  | _, _ => false

/-- The bytes at a vault address that a member of the same LOCK peloton has fetched at the same place of a call issued
in the same PVC (08 R215). -/
def State.merged (s : State) (q : Nat) (r : Routine) (k n : Nat) : Option Fetched :=
  if s.modeOf q = 0 then none else
  ((s.membersOf q).filter (· != q)).findSome? fun m => (s.tile m).fetched.find? fun f =>
    f.vc == r.vc && f.at_ == r.at_ && f.addr == k && f.data.length == n

/-- What a routine's read finds is logged: damaged and marked bytes by the tile, as KIND 0x01, not delivered; what is
corrected by its store (18 R428, R430). -/
def State.logTile (s : State) (q : Nat) (fs : List Find) : State :=
  let s := s.logFixed q 0 fs
  let bad := fs.filter fun f => f.worst != 0
  if bad.isEmpty then s else
  s.logTogether (bad.map fun f => { s.findRec (s.recFor q {}) f with kind := 1, block := 288 + q })

/-- A routine reads bytes of a vault (08 R214, R215); those that come from outside the unit, as it takes them, enter the
auditor's log (16 R407). -/
def State.tileRead (s : State) (q : Nat) (r : Routine) (base a : Word) (n : Nat) : State × Except Rec Got :=
  let (s, g) := s.engFetch q r.sv base a n
  match g with
  | .error f => (s, .error (s.tileAcc q r.sv f false))
  | .ok g =>
    let k := localAddr (vaultOf q a) (offOf a)
    match s.merged q r k n with
    | some f => (s.engTaken q a f.data, .ok { g with data := f.data, cls := f.cls })
    | none =>
      let d := if r.firm.isEmpty && !s.stirred q r.seen k n then g.data
        else (g.data.zip (seqFrom k n)).map fun x => s.routineByte q r x.2 x.1
      let s := (s.logTile q g.finds).engTaken q a d
      let s := if s.modeOf q = 0 then s else
        s.updTile q fun t => { t with fetched := t.fetched ++ [{ vc := r.vc, at_ := r.at_, addr := k, data := d, cls := g.cls }] }
      (s, .ok { g with data := d })

/-- A word of the routine of tile `q` writes L-space bytes, at addresses with their bytes: they perform in their order,
byte by byte, before the routine's next word runs (08 R232, R235; 11 R302). -/
def Routine.writes (r : Routine) (q : Nat) (l : List (Word × List Byte)) : Routine :=
  { r with out := r.out ++ l, wrote := r.wrote ++ l.map fun x => (vaultAddr q (offOf x.1), x.2.length) }

/-- Some more bytes that a word of the routine writes perform; where the write of a run of bytes faults, none of the run
performs, and the routine stops at that word (17 R417; 18 R435). -/
def State.tileOut (s : State) (q : Nat) (r : Routine) : State :=
  match r.out with
  | [] => s
  | (a, d) :: l =>
    match (s.engWrite q r.sv 2 0 a a d []).2 with
    | some f =>
      let s := s.updTile q fun t => { t with run := some { r with pc := r.pc - 1, out := [] } }
      s.routineFault q (s.tileAcc q r.sv f true)
    | none =>
      let k := s.someBytes d.length
      let (s, _) := s.engWrite q r.sv 2 0 a a (d.take k) []
      s.updTile q fun t => { t with run := t.run.map fun r =>
        { r with out := if k < d.length then (a + BitVec.ofNat 64 k, d.drop k) :: l else l } }

/-! ### Loading weights (08 R228; 03 R63, R66) -/

/-- Widen a TW4 code to a TW8 byte (03 R63). -/
def widen4 (n : Nat) : Nat := 16 * n + 7

/-- ⌊log2 |x|⌋ of a finite nonzero value. -/
def Exact.exp2 : Exact → Option Int
  | .fin _ m e => if m = 0 then none else some ((Nat.log2 m : Nat) + e)
  | _ => none

/-- The greatest of a list. -/
def maxInt : List Int → Option Int
  | [] => none
  | x :: r => some (r.foldl max x)

/-- TwqBlock (03 R66): TW8 bytes, the shift, whether a weight is NaN or infinite. -/
def twqBlock (wq : Nat) (m : Mode) (ws : List Nat) (g : Word) : List Nat × Int × Bool × Word :=
  let code := match wq with | 1 => 8 | 2 => 12 | _ => 13
  let vs := ws.map fun w => (readMatrix code m.ftz w).num'
  let sh : Int := if wq = 1 then 0 else match maxInt (vs.filterMap Exact.exp2) with | none => 0 | some e => 6 - e
  let out := vs.foldl (fun (r : List Nat × Word) v =>
    match v with
    | .fin s n e =>
      let (a, d) := ratio n (e + sh)
      let (x, g) := roundSet tw8Set m.rnd s a d r.2
      (r.1 ++ [tw8Byte x], g)
    | _ => (r.1 ++ [0x77], r.2)) (([] : List Nat), g)
  (out.1, sh, vs.any (fun v => match v with | .fin .. => false | _ => true), out.2)

/-- One column's cells by row offset, its weight exponent, its NaN class, and the generator. -/
def Routine.column (r : Routine) (d : List Byte) (cls : List Nat) (eb : Nat) (g : Word) : List (List Nat) × Int × Bool × Word :=
  let bad := cls.any (3 ≤ ·) || eb == 255
  let b := d.map (·.toNat)
  let sB : Int := (eb : Int) - 127
  if r.wq ≠ 0 then
    let (o, sh, n, g) := twqBlock r.wq r.mode b g
    ([o], sB - sh, bad || n, g)
  else match r.wf with
    | 0 => ([(seqFrom 0 128).map fun k => widen4 (elemAt d [] 4 k).1], sB, bad, g)
    | 2 => ([(seqFrom 0 128).map (fun k => b.getD (2 * k + 1) 0x77), (seqFrom 0 128).map fun k => b.getD (2 * k) 0x77], sB, bad, g)
    | _ => ([b], sB, bad, g)

/-- wld and wconv: every column of block LI is read and put into its rows; rows not loaded hold 0x77. -/
def State.loadWeights (s : State) (q : Nat) (r : Routine) (ta : BitVec 4) : State × Except Rec Routine :=
  let base := r.gt ta
  let n := r.ncol
  let wb := r.wb
  let img := base + BitVec.ofNat 64 (r.li * imageSize n wb)
  if !baseOk base || !r.colsOk then (s, .error (s.tileUse q 0x41 0)) else
  let (s, g) := s.tileRead q r base img (n * wb)
  match g with
  | .error e => (s, .error e)
  | .ok g =>
    let (s, x) : State × Except Rec Got := match r.ovr 9 24 with
      | some w => (s, .ok { data := List.replicate n (BitVec.ofNat 8 w), cls := [] })
      | none => s.tileRead q r base (img + BitVec.ofNat 64 (n * wb)) n
    match x with
    | .error e => (s, .error e)
    | .ok x =>
      let init : List (Nat × Byte) × List (Nat × (Int × Bool)) × Word := ([], [], r.seed)
      let (cells, scale, seed) := (seqFrom 0 n).foldl (fun a c =>
        let (rows, sB, bad, g) := r.column ((g.data.drop (c * wb)).take wb) ((g.cls.drop (c * wb)).take wb)
          ((x.data[c]?).getD 0).toNat a.2.2
        let bad := bad || 3 ≤ (x.cls[c]?).getD 0
        let row0 := if r.tw16 then 2 * c else c
        let add := (rows.zip (seqFrom row0 2)).flatMap fun (l, i) =>
          (l.zip (seqFrom (128 * i) 128)).filterMap fun (w, k) => if w = 0x77 then none else some (k, BitVec.ofNat 8 w)
        (a.1 ++ add, a.2.1 ++ (if sB = 0 && !bad then [] else [(c, (sB, bad))]), g)) init
      (s, .ok { r.succ with cells := cells, scale := scale, seed := seed })

/-- wld (08 R228). -/
def execTscWld (ta : BitVec 4) (s : State) : Host.Outcome State Fault Refusal :=
  s.tsc fun q r => if r.wq ≠ 0 then (s, .error (s.tileUse q 0x44 0)) else s.loadWeights q r ta

/-- wconv (08 R228; 03 R66). -/
def execTscWconv (ta : BitVec 4) (s : State) : Host.Outcome State Fault Refusal :=
  s.tsc fun q r => if r.wq = 0 then (s, .error (s.tileUse q 0x44 0)) else s.loadWeights q r ta

/-- xstr: the stream becomes the activation image of block LI; nothing is read (08 R228). -/
def execTscXstr (ta : BitVec 4) (s : State) : Host.Outcome State Fault Refusal :=
  s.tsc fun q r =>
    let base := r.gt ta
    if !baseOk base then (s, .error (s.tileUse q 0x41 0))
    else (s, .ok { r.succ with xstr := some { base := base + BitVec.ofNat 64 (r.li * imageSize r.rows r.eb), rows := r.rows,
                                              ovr := r.ovr 8 16 } })

/-! ### The race (08 R229; 03 R70 to R78; 07 R182 to R187) -/

/-- An activation: signed pulse magnitude, and its class code. -/
abbrev Pulse := Int × Nat

/-- PulseBlock (03 R70): pulses and sA. -/
def pulseBlock (af : Nat) (m : Mode) (xs : List (Nat × Bool)) (ea : Nat) (g : Word) : List Pulse × Int × Word :=
  let sA : Int := (ea : Int) - 127
  if af ≤ 3 then
    (xs.map fun x => if x.2 then (0, 3) else (match readMatrix (8 + af) m.ftz x.1 with | .int v => (v, 0) | _ => (0, 0)), sA, g)
  else
    let vs := xs.map fun x => (if x.2 then Exact.nan else (readMatrix (8 + af) m.ftz x.1).num')
    let emax := (maxInt (vs.filterMap Exact.exp2)).getD 0
    let out := vs.foldl (fun (r : List Pulse × Word) v =>
      match v with
      | .fin s n e =>
        let (x, g) := roundPow m.rnd (if s then -(n : Int) else n) (e + 7 - emax) r.2
        (r.1 ++ [(x, 0)], g)
      | .inf s => (r.1 ++ [(0, if s then 2 else 1)], r.2)
      | .nan => (r.1 ++ [(0, 3)], r.2)) (([] : List Pulse), g)
    (out.1, sA + emax - 7, out.2)

/-- The weight in cell k of a row: the sum of its two terms (07 R183, R184). -/
def Routine.cell (r : Routine) (row k : Nat) : Int := tw8Val (SMap.get r.cells 0x77 (128 * row + k)).toNat

/-- The weights of a column. -/
def Routine.weights (r : Routine) (c : Nat) : List Int :=
  (seqFrom 0 128).map fun k => if r.tw16 then r.cell (2 * c) k * 128 + r.cell (2 * c + 1) k else r.cell c k

/-- The class of an addend over its elements (03 R76 (b) to (d)). -/
def addendClass (xs : List Pulse) (ws : List Int) : Nat :=
  let ps := (xs.zip ws).map fun (x, w) =>
    match x.2 with
    | 0 => 0
    | 3 => 3
    | k => if w = 0 then 3 else if decide (w < 0) then 3 - k else k
  if ps.contains 3 ∨ (ps.contains 1 ∧ ps.contains 2) then 3 else if ps.contains 1 then 1 else if ps.contains 2 then 2 else 0

/-- The race result (03 R72, R74): the exact sum of products. -/
def raceSum (xs : List Pulse) (ws : List Int) : Int := (xs.zip ws).foldl (fun n x => n + x.1.1 * x.2) 0

/-- P and N delays of a segment of a class of a row (07 R183): of the terms of that class in its cells, those whose sign
agrees with the pulse's, and the others. -/
def Routine.chains (r : Routine) (xs : List Pulse) (row e sg : Nat) : Int × Int :=
  (((seqFrom (32 * sg) 32).zip ((xs.drop (32 * sg)).take 32)).flatMap fun (k, x) =>
    let w := (SMap.get r.cells 0x77 (128 * row + k)).toNat
    [(nbit w 7, nbits w 4 3), (nbit w 3, nbits w 0 3)].filterMap fun t =>
      if t.2 = e then some (t.1 != decide (x.1 < 0), (x.1.natAbs : Int)) else none).foldl
    (fun n t => if t.1 then (n.1, n.2 + t.2) else (n.1 + t.2, n.2)) (0, 0)

/-- What a converter whose trim word has been written since its commit reports for a vector: array, row of the array,
class, segment, reading less the exact difference, deviation, and whether it saturates (07 R184, R185, R199; 19 R444). -/
structure Astray where
  arr : Nat
  row : Nat
  cls : Nat
  seg : Nat
  miss : Int
  dev : Int
  sat : Bool

/-- Is the reading off the grid (19 R444)? -/
def Astray.far (x : Astray) : Bool := x.sat || decide (64 < x.dev.natAbs)

/-- The converters of racing rows whose words have been written since their commits. -/
def State.astrays (s : State) (q : Nat) (r : Routine) (xs : List Pulse) : List Astray :=
  (s.tile q).moved.filterMap fun x =>
    let (a, i) := (x.1 / 4096, x.1 % 4096)
    let (row, e, sg) := (i / 28, i % 28 / 4, i % 4)
    let c := if r.tw16 then 64 * a + row / 2 else 128 * a + row
    if c < r.ncol && r.colOn c then
      let (p, n) := r.chains xs (128 * a + row) e sg
      let w := (s.tile q).trim a i
      let (v, dev) := gridOf (readingOf [(p, psegOf w, psegOf x.2), (-n, nsegOf w, nsegOf x.2)] x.2 w (s.readError q a i))
      some { arr := a, row := row, cls := e, seg := sg, miss := v - (p - n), dev := dev, sat := v ≤ -16384 || 16383 ≤ v }
    else none

/-- Arrays of which a converter reads off the grid are trued, and their vector is raced again (19 R444). -/
def State.trueAstray (s : State) (q m : Nat) (r : Routine) (xs : List Pulse) : State :=
  (seqFrom 0 4).foldl (fun s a =>
    match (s.astrays q r xs).find? fun x => x.arr == a && x.far with
    | none => s
    | some x => s.meetMargin q { arr := a, vec := m, row := x.row, cls := x.cls, seg := x.seg, dev := x.dev, again := false,
                                 saturated := x.sat } false) s

/-- How far the race result of a column lies from the exact sum (07 R184; 03 R72, R74). -/
def Routine.missOf (r : Routine) (l : List Astray) (c : Nat) : Int :=
  l.foldl (fun n x =>
    if r.tw16 then (if 64 * x.arr + x.row / 2 = c then n + x.miss * 2 ^ x.cls * (if x.row % 2 = 0 then 128 else 1) else n)
    else if 128 * x.arr + x.row = c then n + x.miss * 2 ^ x.cls else n) 0

/-- The addend of (vector, column) (03 R73, R74, R76): class code and integer; `miss` is what written trim words add to
the race result. -/
def Routine.addend (r : Routine) (xs : List Pulse) (ea : Nat) (sA : Int) (off : Bool) (miss : Int) (c : Nat) (g : Word) :
    (Nat × Int) × Word :=
  let (sB, bad) := SMap.get r.scale (0, false) c
  let ws := r.weights c
  let k := if ea = 255 ∨ bad = true ∨ off = true then 3 else addendClass xs ws
  if k ≠ 0 then ((k, 0), g) else
  let (v, g) := roundPow r.rnd (raceSum xs ws + miss) (sA + sB - r.eacc - (if r.tw16 then 7 else 0)) g
  ((0, v), g)

/-- Is an output masked (08 R231)? -/
def Tri.masks (t : Tri) (m c : Nat) : Bool := decide (t.diag < ((t.coff + c : Nat) : Int) - ((t.roff + m : Nat) : Int))
/-- Is its 16 × 16 sub-tile wholly masked? -/
def Tri.whole (t : Tri) (m c : Nat) : Bool := t.masks (m / 16 * 16 + 15) (c / 16 * 16)

/-- One vector of a race. -/
def State.raceVector (s : State) (q m : Nat) (x : XStr) (r : Routine) : State × Except Rec Routine :=
  let eb := r.eb
  let (s, d) := s.tileRead q r x.base (x.base + BitVec.ofNat 64 (m * eb)) eb
  match d with
  | .error e => (s, .error e)
  | .ok d =>
    let (s, e) : State × Except Rec Got := match x.ovr with
      | some v => (s, .ok { data := [BitVec.ofNat 8 v], cls := [0] })
      | none => s.tileRead q r x.base (x.base + BitVec.ofNat 64 (x.rows * eb + m)) 1
    match e with
    | .error e => (s, .error e)
    | .ok e =>
      let ea := if 3 ≤ e.cls.headD 0 then 255 else (e.data.headD 0).toNat
      let xs := (seqFrom 0 128).map fun k => let (v, c) := elemAt d.data d.cls (if eb = 64 then 4 else 8) k; (v, decide (3 ≤ c))
      let (ps, sA, g) := pulseBlock r.af r.mode xs ea r.seed
      let cols := (seqFrom 0 r.ncol).filter r.colOn
      let met := (s.tile q).off.filter fun o => o.vec == m && cols.any fun c => r.arrOf c == o.arr
      let s := (met.foldl (fun s o => s.meetMargin q o false) s).trueAstray q m r ps
      let far := s.astrays q r ps
      let lost := fun (a : Nat) => met.any (fun o => o.again && o.arr == a) || far.any fun x => x.arr == a && x.far
      let (t, seed) := cols.foldl (fun (a : Tile × Word) c =>
        let (b, row, j) := (r.bank + c / 128, r.row0 + m, c % 128)
        match r.tri with
        | some t =>
          if t.whole m c then a
          else if t.masks m c then (a.1.setEntry b row j (t.ca, t.cc), a.2)
          else
            let (v, g) := r.addend ps ea sA (lost (r.arrOf c)) (r.missOf far c) c a.2
            let (e, sat) := combine (a.1.entry b row j) v
            ({ a.1.setEntry b row j e with sat := a.1.sat || sat }, g)
        | none =>
          let (v, g) := r.addend ps ea sA (lost (r.arrOf c)) (r.missOf far c) c a.2
          let (e, sat) := combine (a.1.entry b row j) v
          ({ a.1.setEntry b row j e with sat := a.1.sat || sat }, g)) (s.tile q, g)
      ((s.setTile q t).tally 2 1, .ok { r with seed := seed })

/-- race (08 R229). -/
def execTscRace (s : State) : Host.Outcome State Fault Refusal :=
  s.tsc fun q r =>
    match r.xstr with
    | none => (s, .error (s.tileUse q 0x44 0))
    | some x =>
      if !r.accDone then (s, .error (s.tileUse q 0x44 0))
      else if !r.colsOk then (s, .error (s.tileUse q 0x41 0))
      else
        let (s, y) := (seqFrom 0 r.rows).foldl (fun (a : State × Except Rec Routine) m =>
          match a.2 with | .error _ => a | .ok r => a.1.raceVector q m x r) (s, .ok r)
        match y with | .error e => (s, .error e) | .ok r => (s, .ok r.succ)

/-! ### Accumulator operations (08 R230 to R232) -/

/-- accsel (08 R230). -/
def execTscAccsel (ta : BitVec 4) (s : State) : Host.Outcome State Fault Refusal :=
  s.tsc fun _ r => (s, .ok { r.succ with bank := nbits (r.gt ta).toNat 0 2, row0 := nbits (r.gt ta).toNat 8 7 })

/-- The prelude of a mode on one entry (03 R77). -/
def prelude (mode sh : Nat) (e : Entry) : Entry :=
  match mode with
  | 0 => (0, 0)
  | 2 => if e.2 = 0 then (BitVec.ofInt 36 (e.1.toInt - (roundPow 0 e.1.toInt (-(sh : Int)) 0).1), 0) else e
  | _ => e

/-- accmode: the mode byte of each bank in use, and the prelude (08 R230; 07 R193). -/
def execTscAccmode (ta : BitVec 4) (s : State) : Host.Outcome State Fault Refusal :=
  s.tsc fun q r =>
    let v := (r.gt ta).toNat
    let mode := nbits v 0 2
    let sh := nbits v 4 4
    if (mode == 2) == (sh == 0) || !r.colsOk then (s, .error (s.tileUse q 0x41 0)) else
    let s := s.updTile q fun t =>
      let t := { t with modes := (seqFrom 0 ((r.ncol + 127) / 128)).foldl (fun m h =>
        SMap.put m 0 ((r.bank + h) % 4) (BitVec.ofNat 8 (16 * sh + mode))) t.modes }
      (seqFrom 0 r.rows).foldl (fun t m => ((seqFrom 0 r.ncol).filter r.colOn).foldl (fun t c =>
        t.setEntry (r.bank + c / 128) (r.row0 + m) (c % 128)
          (prelude mode sh (t.entry (r.bank + c / 128) (r.row0 + m) (c % 128)))) t) t
    (s, .ok { r.succ with accDone := true })

/-- tri (08 R231): CA is 0 unless CC is 0 (cause 0x41). -/
def execTscTri (ta tb : BitVec 4) (s : State) : Host.Outcome State Fault Refusal :=
  s.tsc fun q r =>
    let v := r.gt ta
    let w := (r.gt tb).toNat
    let t : Tri := { diag := (v.setWidth 16).toInt, roff := nbits v.toNat 16 16, coff := nbits v.toNat 32 16,
                     ca := BitVec.ofNat 36 (w / 2 ^ 16), cc := BitVec.ofNat 2 (w / 2 ^ 52) }
    if t.cc ≠ 0 ∧ t.ca ≠ 0 then (s, .error (s.tileUse q 0x41 0)) else (s, .ok { r.succ with tri := some t })

/-- tri.off (08 R231). -/
def execTscTriOff (s : State) : Host.Outcome State Fault Refusal := s.tsc fun _ r => (s, .ok { r.succ with tri := none })

/-- An entry as a value, EACC given. -/
def entryNum (eacc : Int) (e : Entry) : Exact :=
  match e.2.toNat with
  | 0 => .fin (decide (e.1.toInt < 0)) e.1.toInt.natAbs eacc
  | 1 => .inf false
  | 2 => .inf true
  | _ => .nan

/-- Bit length. -/
def bitLen (n : Nat) : Nat := if n = 0 then 0 else Nat.log2 n + 1

/-- Block of 16 entries (03 R80). -/
def handoffBlock (rnd : BitVec 3) (eacc : Int) (es : List Entry) (g : Word) : Bfp × Word :=
  let l := es.foldl (fun n e => if e.2 = 0 then max n (bitLen e.1.toInt.natAbs) else n) 0
  bfpForm false rnd (es.map (entryNum eacc)) (if l = 0 then 0 else eacc + l + 127) g



/-- handoff (08 R232; 07 R197). -/
def execTscHandoff (ta : BitVec 4) (s : State) : Host.Outcome State Fault Refusal :=
  s.tsc fun q r =>
    let dest := (r.gt ta).toNat / 2 ^ 32
    if dest % 8 ≠ 0 then (s, .error (s.tileUse q 0x42 0))
    else if !r.colsOk then (s, .error (s.tileUse q 0x41 0)) else
    let nb := (r.ncol + 15) / 16
    let t := s.tile q
    let (out, seed) := (seqFrom 0 (r.rows * nb)).foldl (fun (a : List (Word × List Byte) × Word) i =>
      let m := i / nb
      let b := i % nb
      let es := (seqFrom 0 16).map fun k =>
        if 16 * b + k < r.ncol then t.entry (r.bank + b / 8) (r.row0 + m) (16 * (b % 8) + k) else (0, 0)
      let (blk, g) := handoffBlock r.rnd r.eacc es a.2
      (a.1 ++ [(BitVec.ofNat 64 (dest + 40 * i), blk.bytes)], g)) (([] : List (Word × List Byte)), r.seed)
    (s, .ok { r.succ.writes q out with seed := seed })

/-- emit (08 R232). -/
def execTscEmit (ta : BitVec 4) (s : State) : Host.Outcome State Fault Refusal :=
  s.tsc fun q r =>
    let dest := (r.gt ta).toNat / 2 ^ 32
    if dest % 8 ≠ 0 then (s, .error (s.tileUse q 0x42 0))
    else if !r.colsOk then (s, .error (s.tileUse q 0x41 0)) else
    let t := s.tile q
    let out := (seqFrom 0 (r.rows * r.ncol)).map fun i =>
      (BitVec.ofNat 64 (dest + 8 * i), entryImage (t.entry (r.bank + i % r.ncol / 128) (r.row0 + i / r.ncol) (i % r.ncol % 128)))
    (s, .ok (r.succ.writes q out))

/-! ### Control (08 R233, R234) -/

/-- The opcode of a microstore word. -/
def tscOp (w : BitVec 32) : Nat := w.toNat / 2 ^ 26

/-- The matching endl from word `w` on at a nesting depth; `n` words remain. -/
def State.matchEndl (s : State) (q : Nat) : Nat → Nat → Nat → Option Nat
  | 0, _, _ => none
  | n + 1, w, d =>
    match tscOp (s.microWord q w) with
    | 0x0A => State.matchEndl s q n (w + 1) (d + 1)
    | 0x0B => if d = 0 then some w else State.matchEndl s q n (w + 1) (d - 1)
    | _ => State.matchEndl s q n (w + 1) d

/-- loop with a count. -/
def State.tscLoop (s : State) (q : Nat) (r : Routine) (c : Nat) : State × Except Rec Routine :=
  let e := s.matchEndl q (8192 - (r.pc + 1)) (r.pc + 1) 0
  if c = 0 then
    match e with | some w => (s, .ok { r with pc := w + 1 }) | none => (s, .error (s.tileUse q 0x43 0))
  else if 4 ≤ r.loops.length then (s, .error (s.tileUse q 0x43 0))
  else (s, .ok { r.succ with loops := r.loops ++ [{ start := r.pc + 1, stop := e.getD 8191, idx := 0, count := c }] })

/-- loop with an immediate count. -/
def execTscLoopImm (c : BitVec 16) (s : State) : Host.Outcome State Fault Refusal := s.tsc fun q r => s.tscLoop q r c.toNat
/-- loop with a register's count. -/
def execTscLoopReg (c : BitVec 4) (s : State) : Host.Outcome State Fault Refusal :=
  s.tsc fun q r => s.tscLoop q r ((r.gt c).toNat % 65536)
/-- loop kb. -/
def execTscLoopKb (s : State) : Host.Outcome State Fault Refusal := s.tsc fun q r => s.tscLoop q r r.kb

/-- endl (08 R233). -/
def execTscEndl (s : State) : Host.Outcome State Fault Refusal :=
  s.tsc fun q r =>
    match r.loops.getLast? with
    | none => (s, .error (s.tileUse q 0x43 0))
    | some l =>
      if l.idx + 1 < l.count then (s, .ok { r with pc := l.start, loops := r.loops.dropLast ++ [{ l with idx := l.idx + 1 }] })
      else (s, .ok { r.succ with loops := r.loops.dropLast })

/-- skip n (08 R233): over neither loop nor endl. -/
def execTscSkip (n : BitVec 6) (s : State) : Host.Outcome State Fault Refusal :=
  s.tsc fun q r =>
    let bad := (seqFrom (r.pc + 1) n.toNat).any fun w => let o := tscOp (s.microWord q w); o == 0x0A || o == 0x0B
    if n = 0 then (s, .error (s.tileUse q 0x43 0))
    else if r.li < 16 && r.info.getLsbD r.li then (s, .ok r.succ)
    else if bad then (s, .error (s.tileUse q 0x43 0))
    else (s, .ok { r with pc := r.pc + 1 + n.toNat })

/-- brc (08 R233). -/
def execTscBrc (a : BitVec 4) (b : BitVec 6) (v : Bool) (t : BitVec 13) (s : State) : Host.Outcome State Fault Refusal :=
  s.tsc fun q r =>
    if (r.gt a).getLsbD b.toNat != v then (s, .ok r.succ)
    else match r.loops.getLast? with
      | some l => if l.start ≤ t.toNat ∧ t.toNat ≤ l.stop then (s, .ok { r with pc := t.toNat }) else (s, .error (s.tileUse q 0x43 0))
      | none => (s, .ok { r with pc := t.toNat })

/-- setp with an immediate (08 R233). -/
def execTscSetp (d a : BitVec 4) (imm : BitVec 16) (s : State) : Host.Outcome State Fault Refusal :=
  s.tsc fun _ r => (s, .ok (r.succ.setT d (r.gt a + imm.signExtend 64)))
/-- setp.hi. -/
def execTscSetpHi (d a : BitVec 4) (imm : BitVec 16) (s : State) : Host.Outcome State Fault Refusal :=
  s.tsc fun _ r => (s, .ok (r.succ.setT d (r.gt a + (imm.signExtend 64 <<< 16))))
/-- setp with a register. -/
def execTscSetpReg (d a b : BitVec 4) (s : State) : Host.Outcome State Fault Refusal :=
  s.tsc fun _ r => (s, .ok (r.succ.setT d (r.gt a + r.gt b)))

/-- waitq: every earlier read has returned and every earlier write has performed (08 R234). -/
def execTscWaitq (s : State) : Host.Outcome State Fault Refusal :=
  s.tsc fun q r => (s, .ok { r.succ with firm := r.firm ++ r.wrote, wrote := [],
                                         firmAt := match s.unitOf q with | some u => u.hist.length | none => 0 })

/-- halt ends the routine (08 R233). -/
def execTscHalt (s : State) : Host.Outcome State Fault Refusal := .next (s.updTile s.cur.core fun t => if t.run.isSome then t.endRoutine else t)

/-! ### Key races in memory (08 R235) -/

/-- A key race on keys at t[ta] with its result at t[tb]. -/
def State.tscKeys (s : State) (op : Nat) (a b : BitVec 4) (ty n k : Nat) : Host.Outcome State Fault Refusal :=
  s.tsc fun q r =>
    let wb := keyWidth ty / 8
    let base := r.gt a
    if op = 3 ∧ n < k then (s, .error (s.tileUse q 0x42 0))
    else if 1 < spaceOf base then (s, .error (s.tileAcc q r.sv (placeFault base) false))
    else if spaceOf (r.gt b) ≠ 0 then (s, .error (s.tileAcc q r.sv (placeFault (r.gt b)) true)) else
    let (s, d) := s.tileRead q r base base (n * wb)
    match d with
    | .error e => (s, .error e)
    | .ok d =>
      let keys := (seqFrom 0 n).map fun i => fieldOf d.data (i * wb) wb
      let (s, o, f) := s.keyRun q keys ty (raceDesc op)
      match f with
      | some e => (s, .error (s.tileRec q e))
      | none =>
        let l := o.headD 0
        let out := match op with
          | 0 | 1 => toBytes 4 l ++ toBytes 4 (keys.getD l 0)
          | 2 => (seqFrom 0 n).map fun i => BitVec.ofNat 8 (indexIn o i)
          | _ => (o.take k).map (BitVec.ofNat 8)
        (s.tally 2 wb, .ok (r.succ.writes q [(r.gt b, out)]))

/-- rmin (08 R235). -/
def execTscRmin (a b ty : BitVec 4) (nm1 : BitVec 7) (s : State) : Host.Outcome State Fault Refusal :=
  s.tscKeys 0 a b ty.toNat (nm1.toNat + 1) 0
/-- rmax (08 R235). -/
def execTscRmax (a b ty : BitVec 4) (nm1 : BitVec 7) (s : State) : Host.Outcome State Fault Refusal :=
  s.tscKeys 1 a b ty.toNat (nm1.toNat + 1) 0
/-- rank (08 R235). -/
def execTscRank (a b ty : BitVec 4) (nm1 : BitVec 7) (s : State) : Host.Outcome State Fault Refusal :=
  s.tscKeys 2 a b ty.toNat (nm1.toNat + 1) 0
/-- topk (08 R235). -/
def execTscTopk (a b ty : BitVec 4) (nm1 km1 : BitVec 7) (s : State) : Host.Outcome State Fault Refusal :=
  s.tscKeys 3 a b ty.toNat (nm1.toNat + 1) (km1.toNat + 1)

/-! ### Trim words (08 R236) -/

/-- TRADDR fields of a register: word, array. -/
def trWord (v : Word) : Nat × Nat := (nbits v.toNat 0 12, nbits v.toNat 14 2)
/-- The register after an access with AINC (07 R206). -/
def trNext (v : Word) : Word :=
  if !v.getLsbD 16 then v
  else if nbits v.toNat 0 12 = 3583 then (v &&& ~~~0xCFFF) ||| BitVec.ofNat 64 ((nbits v.toNat 14 2 + 1) % 4 * 16384)
  else v + 1
/-- The check of the three (cause 0x45). -/
def Routine.trimOk (r : Routine) (a : BitVec 4) : Bool := r.priv && (trWord (r.gt a)).1 ≤ 3583

/-- trimrd (08 R236). -/
def execTscTrimrd (d a : BitVec 4) (s : State) : Host.Outcome State Fault Refusal :=
  s.tsc fun q r =>
    if !r.trimOk a then (s, .error (s.tileUse q 0x45 0)) else
    let (w, i) := trWord (r.gt a)
    (s, .ok ((r.succ.setT a (trNext (r.gt a))).setT d (((s.tile q).trim i w).setWidth 64)))

/-- trimwr (08 R236; 07 R201). -/
def execTscTrimwr (a b : BitVec 4) (s : State) : Host.Outcome State Fault Refusal :=
  s.tsc fun q r =>
    if !r.trimOk a then (s, .error (s.tileUse q 0x45 0)) else
    let (w, i) := trWord (r.gt a)
    (s.updTile q fun t => t.setTrim i w ((r.gt b).setWidth 32), .ok (r.succ.setT a (trNext (r.gt a))))

/-- Measure of 07 R200 in 1/256 τ for word `i` of array `a`: both chains idle; a full chain against the reference edge
one period late, negated for the N side; or the P chain against an idle N chain. -/
def State.measure (s : State) (q a i kind : Nat) (nSide : Bool) : Int :=
  let now := (s.tile q).trim a i
  let was := (s.tile q).was a i
  let e := s.readError q a i
  let p : Int × Int × Int := (8000, psegOf now, psegOf was)
  match kind with
  | 0 => readingOf [] was now e
  | 1 => if nSide then -readingOf [(8000, 1, 1), (-8000, nsegOf now, nsegOf was)] was now e
         else readingOf [p, (-8000, 1, 1)] was now e
  | _ => readingOf [p] was now e

/-- refrace: a measurement, within a quarter of a delay unit of what the trim words in force give; every cell of the
array holds 0x77 afterwards (08 R236; 07 R185, R199, R200; log entry 15). -/
def execTscRefrace (d a : BitVec 4) (kind : BitVec 2) (s : State) : Host.Outcome State Fault Refusal :=
  s.tsc fun q r =>
    if !r.trimOk a then (s, .error (s.tileUse q 0x45 0)) else
    let (w, i) := trWord (r.gt a)
    (s, .ok { r.succ.setT d (BitVec.ofInt 64 (s.measure q i w kind.toNat ((r.gt a).getLsbD 13))) with
                cells := r.cells.filter fun e => e.1 / 16384 != i })

/-- TSC_NOT_AN_INSTRUCTION: a reached word that is none, cause 0x0A (17 R414, R417). -/
def execTscNotAnInstruction (_w : BitVec 32) (s : State) : Host.Outcome State Fault Refusal :=
  s.tsc fun q _ => (s, .error (s.tileUse q 0x0A 0))

/-! ### The operand queue (08 R209, R210, R220 to R223) -/

/-- Answer a query that waits. -/
def Core.answer (c : Core) (id : Nat) (v : Word) : Core :=
  { c with pend := c.pend.map fun x =>
      match x.src with
      | .query _ _ j => if j = id then { x with src := .word v, arrived := true } else x
      | _ => x }

/-- Is the pannier base a G-space address (09 R240)? -/
def pannierVa (a : Word) : Option Nat := if (spaceOf a = 0 ∨ spaceOf a = 2) ∧ nbits a.toNat 56 6 = 0 then some (vaOf a) else none



/-- Image of row r of bank b in a pannier block (02 R56). -/
def pannierRow (b r : Nat) : Nat := 0x1000 + 0x20000 * b + 1024 * r

/-- mspill's writes (08 R220; 18 R439). -/
def State.spill (s : State) (q : Nat) (sv : Bool) (va mask : Nat) : State × Option XFault :=
  let t := s.tile q
  let head := (0, toBytes 1 mask ++ toBytes 63 (if t.sat then 1 else 0))
  let rows := ((seqFrom 0 4).filter (nbit mask)).flatMap fun b => (seqFrom 0 128).map fun r =>
    (pannierRow b r, (seqFrom 0 128).flatMap fun c => entryImage (t.entry b r c))
  (head :: rows).foldl (fun (a : State × Option XFault) x =>
    match a.2 with | some _ => a | none => a.1.engWrite q sv 2 0 (gTag va) (gTag (va + x.1)) x.2 []) (s, none)

/-- mfill reads `n` bytes of one page of G-space: each as 08 R214 lets it be read. -/
def State.fillRead (s : State) (q : Nat) (o : TileOp) (va n : Nat) : State × Except XFault (List Byte) :=
  let (s, g) := s.engFetch q o.sv (gTag va) (gTag va) n false
  match g with
  | .error f => (s, .error f)
  | .ok g =>
    let d := if s.stirred q o.seen g.pa n then (g.data.zip (seqFrom g.pa n)).map fun x => s.seenByte q o.seen x.2 x.1 else g.data
    ((s.logTile q g.finds).engTaken q (gTag va) d, .ok d)

/-- mfill's reads, page by page, and then its writes (08 R220; 18 R439). -/
def State.fill (s : State) (q : Nat) (o : TileOp) (va mask : Nat) : State × Option XFault :=
  let (s, h) := s.fillRead q o va 64
  match h with
  | .error f => (s, some f)
  | .ok h =>
    let banks := (seqFrom 0 4).filter (nbit mask)
    let (s, r) := (banks.flatMap fun b => (seqFrom 0 32).map fun i => (b, i)).foldl
      (fun (a : State × Except XFault (List (Nat × List Byte))) x =>
        match a.2 with
        | .error _ => a
        | .ok l =>
          let (s, g) := a.1.fillRead q o (va + pannierRow x.1 0 + 4096 * x.2) 4096
          match g with | .error f => (s, .error f) | .ok d => (s, .ok (l ++ [(512 * (32 * x.1 + x.2), d)]))) (s, .ok [])
    match r with
    | .error f => (s, some f)
    | .ok l =>
      (s.updTile q fun t =>
        let t := l.foldl (fun t x => (seqFrom 0 512).foldl (fun t i =>
          let k := x.1 + i
          t.setEntry (k / 16384) (k % 16384 / 128) (k % 128) (imageEntry ((x.2.drop (8 * i)).take 8))) t) t
        { t with sat := nbit (fieldOf h 1 1) 0 }, none)

/-- An entry-table word (08 R224): VALID, PRIV, START. -/
def State.entryWord (s : State) (q i : Nat) : BitVec 32 := s.codeWord (microAddr q (0x8000 + 4 * i))

/-- Is a microstore or entry-table word uncorrectable: the record of the routine's fault (18 R429, R431)? -/
def State.microBad (s : State) (q off : Nat) : State × Option Rec :=
  let (s, _, c, fs) := s.readStore (microAddr q off) 4
  let s := s.logFixed q 0 fs
  (s, if c.any (· != 0) then
      some (s.tileRec q { kind := 1, sev := 4, detail := ((fs.find? fun f => f.worst != 0).map s.findDetail).getD 0 })
    else none)

/-- The start of a routine (08 R216, R217). -/
def State.startRoutine (s : State) (q idx : Nat) (o : TileOp) : State :=
  let (s, bad) := s.microBad q (0x8000 + 4 * idx)
  let e := s.entryWord q idx
  let s := s.updTile q fun t => { t with busyOp := some o }
  match bad with
  | some f => s.routineFault q f
  | none =>
  if !e.getLsbD 31 || (e.getLsbD 30 && !o.sv) then s.routineFault q (s.tileUse q 0x40 idx)
  else
    let t := (o.mp.zip (seqFrom 0 8)).foldl (fun m x => SMap.put m 0 x.2 x.1) ([] : SMap Word)
    let r : Routine := { pc := e.toNat % 8192, t := t, priv := e.getLsbD 30, sv := o.sv, fmt := o.fmt, rnd := o.rnd,
                         sat := o.sat, ftz := o.ftz, info := o.info, seed := o.seed, vc := o.vc, seen := o.seen, idx := idx }
    s.updTile q fun x => { x with run := some r }

/-- Does the core's time let the routine of an mcall start: no earlier than vc n + 18 (04 R97; 08 R210)? A core that is
held, or stands, counts no vc, and its wall time goes on (log entry 103). -/
def Core.lets (c : Core) (o : TileOp) : Bool := decide (o.vc + 18 ≤ c.vc) || c.hold != 0 || c.halted || c.stopped || c.idle

/-- Does the tile's truing let it start: a round that is due starts first, and a routine queued during a run starts when
that array's run commits (07 R202)? -/
def Tile.lets (t : Tile) (o : TileOp) : Bool :=
  match t.round with | none => !t.due && !t.boot | some r => !r.held || decide (o.num ≤ r.pass)

/-- A call in persistent mode starts once the bundles that issued with it have completed (02 R45). -/
def State.callOpen (s : State) (q : Nat) (o : TileOp) : Bool :=
  ((o.mp[5]?).getD 0).setWidth 2 == (3 : BitVec 2) && s.bundleOpen q (16 * o.vc)

/-- An mfence has completed: writes of earlier operations stand before every later operation's reads (08 R214). -/
def State.fenceSeen (s : State) (q : Nat) : State :=
  match s.unitOf q with
  | none => s
  | some u => s.updTile q fun t => { t with queue := t.queue.map fun o => { o with seen := o.seen.map fun _ => u.hist.length } }

/-- Operations that have issued since the last step learn what their unit's history holds (08 R214). -/
def State.noteIssues (s : State) : State :=
  { s with tiles := s.tiles.map fun e => match s.unitOf e.1 with
      | none => e
      | some u => (e.1, { e.2 with queue := e.2.queue.map fun o => if o.seen.isNone then { o with seen := some u.hist.length } else o }) }

/-- The tile takes the next entry of its queue: a marker acts at once, a numbered operation starts. -/
def State.tileNext (s : State) (q : Nat) : State :=
  let t := s.tile q
  match t.busyOp, t.queue with
  | none, o :: r =>
    let s' := s.setTile q { t with queue := r }
    let spillOp := fun (s : State) (mask : Nat) (f : State → Nat → State × Option XFault) =>
      let s := s.updTile q fun t => { t with busyOp := some o, fin := true }
      match pannierVa (o.mp.headD 0) with
      | none => s.report q (s.tileAcc q o.sv { cause := 5, va := (o.mp.headD 0).toNat } (mask = 0))
      | some va =>
        let (s, e) := f s va
        match e with | none => s | some e => s.report q (s.tileAcc q o.sv e (mask = 0))
    match o.kind with
    | .query id sel clr =>
      let v := match sel with | 0 => t.tstate | 1 => t.trgtc | _ => t.trstat
      (s'.updCore q (·.answer id v)).updTile q fun t => if clr then { t with sat := false } else t
    | .capture => s'.updTile q Tile.capture
    | .restore => s'.updTile q Tile.restore
    | .mfence => (s'.updTile q fun t => { t with busyOp := some o, fin := true }).fenceSeen q
    | .mtrue => s'.updTile q fun t => { t with busyOp := some o, fin := t.wdrn }
    | .mspill m => spillOp s' 0 fun s va => s.spill q o.sv va m
    | .mfill m => spillOp s' 1 fun s va => s.fill q o va m
    | .mcall i => if (s.core q).lets o && t.lets o && !s.callOpen q o then s'.startRoutine q i o else s
  | _, _ => s

/-- TILE_OP_START (08 R210). -/
def execTileOpStart (q : Nat) (s : State) : Host.Outcome State Fault Refusal := .next (s.tileNext q)

/-- What routines of LOCK pelotons fetched goes once no member has a call of that issue left. -/
def State.dropFetched (s : State) (q : Nat) : State :=
  let ops := (s.membersOf q).flatMap fun m => let t := s.tile m; t.queue ++ t.busyOp.toList
  s.updTile q fun t => { t with fetched := t.fetched.filter fun f => ops.any fun o => o.vc == f.vc }

/-- TILE_OP_COMPLETE (08 R209). -/
def execTileOpComplete (q : Nat) (s : State) : Host.Outcome State Fault Refusal :=
  .next (match (s.tile q).busyOp with
    | some o =>
      if (s.tile q).fin then
        ((s.updTile q fun t => { t with busyOp := none, fin := false }).dropFetched q).updCore q (·.setTl 2 (BitVec.ofNat 64 o.num))
      else s
    | none => s)

/-- The arrays that a word of a routine needs (07 R202, R204): those that it loads, races or measures. -/
def Routine.needs (r : Routine) (i : Instr) : BitVec 4 :=
  let upTo := fun (n : Nat) => (seqFrom 0 n).foldl (fun (m : BitVec 4) a => m ||| (1#4 <<< a)) 0
  match i with
  | .tscWld _ | .tscWconv _ => upTo (r.arrOf (r.ncol - 1) + 1)
  | .tscRace => ((seqFrom 0 r.ncol).filter r.colOn).foldl (fun (m : BitVec 4) c => m ||| (1#4 <<< r.arrOf c)) 0
  | .tscRmin _ _ ty _ | .tscRmax _ _ ty _ | .tscRank _ _ ty _ => upTo (keyWidth ty.toNat / 8)
  | .tscTopk _ _ ty _ _ => upTo (keyWidth ty.toNat / 8)
  | .tscRefrace _ a _ => 1#4 <<< nbits (r.gt a).toNat 14 2
  | _ => 0

/-- Does the run of a round hold an array of a set? -/
def Tile.barred (t : Tile) (m : BitVec 4) : Bool := match t.round with | some r => r.held && m.getLsbD r.arr | none => false

/-- A routine takes arrays: ballast runs on them are abandoned (07 R204). -/
def Tile.take (t : Tile) (m : BitVec 4) : Tile :=
  { t with ballast := t.ballast.map fun b => { b with arrs := b.arrs &&& ~~~m },
           run := t.run.map fun r => { r with used := r.used ||| m } }

/-- Tile q runs the next word of its routine, given what running an instruction does, or goes on with the writes of the
last one; it waits while a truing run holds an array that it needs (07 R202). Stores that must not stand passed before its
reads perform first (log entry 101). -/
def State.tileStep (run : Instr → State → Host.Outcome State Fault Refusal) (s : State) (q : Nat) : Host.Outcome State Fault Refusal :=
  match (s.tile q).run with
  | none => .next s
  | some r =>
    let s := { s with cur := { core := q, slot := 8, sv := r.sv } }
    let s := s.flush (.core q) true
    if !r.out.isEmpty then .next (s.tileOut q r) else
    if 8192 ≤ r.pc then .next (s.routineFault q (s.tileUse q 0x43 0)) else
    let (s, bad) := s.microBad q (4 * r.pc)
    match bad with
    | some f => .next (s.routineFault q f)
    | none =>
    let w := s.microWord q r.pc
    match decodeTsc w with
    | .ok i =>
      let m := r.needs i
      if (s.tile q).barred m then .next s
      else run i (s.updTile q fun t => (t.take m).ran)
    | .error _ => execTscNotAnInstruction w s

/-! ### Truing (07 R200 to R206; 19 R445, R446) -/

/-- Is the temperature trigger of 07 R202 (c) met? -/
def Tile.tempDue (t : Tile) : Bool := decide (t.dtemp.toNat < (t.tnow.toInt - t.tlast.toInt).natAbs)

/-- Is a round in progress, a run of ballast included (07 R203)? -/
def Tile.inRound (t : Tile) : Bool := t.round.isSome || (match t.ballast with | some b => b.arrs != 0 | none => false)

/-- TRUING_INTERVAL_EXPIRY: INTV ms of GTC time since the last complete round (07 R202 (b)); a round in progress is
that round. A warm reset, which puts TRGTC to 0, lets the interval count from GTC 0, so that a round may fall due at once
(DESIGN CHOICE, log entry 124). -/
def execTruingIntervalExpiry (q : Nat) (s : State) : Host.Outcome State Fault Refusal :=
  .next (s.updTile q fun t =>
    if !t.wdrn && t.round.isNone && t.intv.toNat * 1000000 ≤ (s.gtc - t.trgtc).toNat then { t with due := true } else t)

/-- TEMP_UPDATE: the sensor's new reading; outside a round it may make one due (07 R202 (c), R203). -/
def execTempUpdate (q : Nat) (v : BitVec 16) (s : State) : Host.Outcome State Fault Refusal :=
  .next (s.updTile q fun t =>
    let t := { t with tnow := v }
    if t.inRound || t.wdrn then t else { t with due := t.due || t.tempDue })



/-- May the run of a round take an array: no ballast run holds it, and no routine that is running has used it? -/
def Tile.idleFor (t : Tile) (a : Nat) : Bool :=
  !(match t.ballast with | some b => b.arrs.getLsbD a | none => false) && !(match t.run with | some r => r.used.getLsbD a | none => false)

/-- The round goes on with the array whose turn it is, once the array is idle. -/
def Tile.hold (t : Tile) : Tile :=
  match t.round with
  | some r => if r.held then t else { t with round := some { r with held := t.idleFor r.arr } }
  | none => t

/-- TRUING_ROUND_START: a round that is due, or that an mtrue asks for, begins at a boundary between routines; a round
in progress goes on (07 R202; 08 R221). -/
def execTruingRoundStart (q : Nat) (s : State) : Host.Outcome State Fault Refusal :=
  .next (s.updTile q fun t =>
    if t.round.isSome then t.hold
    else if (t.due || t.boot || t.asked) && t.run.isNone then
      { t with due := false, round := some { arr := 0, held := t.idleFor 0, temp := t.tnow, mt := t.asked } }
    else t)

/-- A round, ballast or not, is complete: it counts for the interval and the temperature (07 R202 to R204). A withdrawn
tile keeps the one round that a warm reset gives it, and none falls due (19 R446). -/
def Tile.counted (t : Tile) (temp : BitVec 16) (gtc : Word) : Tile :=
  let t := { t with tlast := temp, trgtc := gtc }
  { t with due := if t.wdrn then t.due else !t.round.isSome && t.tempDue }

/-- The round of a tile ends (07 R202, R203; 08 R221; 19 R446). -/
def Tile.endRound (t : Tile) (r : Round) (gtc : Word) : Tile :=
  { t with round := none, boot := false, wdrn := false, fin := t.fin || r.mt }.counted r.temp gtc

/-- The greatest number in a tile's queue. -/
def Tile.lastQueued (t : Tile) : Nat := t.queue.foldl (fun n o => max n o.num) 0

/-- A run of a round on array `r.arr` commits, and the next array has its turn. -/
def State.runCommits (s : State) (q : Nat) (r : Round) : State :=
  (s.commitArray q r.arr).updTile q fun t =>
    if r.arr < 3 then { t with round := some { r with arr := r.arr + 1, held := t.idleFor (r.arr + 1), pass := t.lastQueued } }
    else t.endRound r s.gtc



/-- A ballast run ends: one that fails is not retried, and a ballast round that has done all four arrays counts
(07 R204; 19 R445). -/
def Tile.ballastEnds (t : Tile) (b : Ballast) (a : Nat) (ok : Bool) (gtc : Word) : Tile :=
  let b := { b with arrs := b.arrs &&& ~~~(1#4 <<< a), done := if ok then b.done ||| (1#4 <<< a) else b.done }
  if b.done = 15 then { t with ballast := none }.counted b.temp gtc else { t with ballast := some b }

/-- TRUING_RUN_END: the run on an array, whichever of the tile's runs ends first, commits or fails (07 R201, R204; 19
R445). -/
def execTruingRunEnd (q : Nat) (ok : Bool) (s : State) : Host.Outcome State Fault Refusal :=
  let t := s.tile q
  let rounds : List (Option Nat) := match t.round with | some r => if r.held then [none] else [] | none => []
  let bals : List (Option Nat) := match t.ballast with | some b => ((seqFrom 0 4).filter b.arrs.getLsbD).map some | none => []
  .next (match (rounds ++ bals)[if (rounds ++ bals).length = 1 then 0 else Config.pick s.tick % (rounds ++ bals).length]?, t.round, t.ballast with
    | some none, some r, _ => if ok then s.runCommits q r else (s.logRun q r.arr).updTile q (·.runFails r.arr)
    | some (some a), _, some b =>
      let s' := if ok then s.commitArray q a else s.logRun q a
      s'.updTile q (·.ballastEnds b a ok s.gtc)
    | _, _, _ => s)

/-- TRDATA_READ: the word in force is read, and WORD advances (07 R206); what it reads is `Tile.reg`. -/
def execTrdataRead (q : Nat) (s : State) : Host.Outcome State Fault Refusal := .next (s.updTile q Tile.advance)

/-- TRDATA_WRITE (07 R206). -/
def execTrdataWrite (q : Nat) (v : BitVec 32) (s : State) : Host.Outcome State Fault Refusal :=
  .next (s.updTile q fun t => t.regPut 0x28 (v.setWidth 64) 0xFFFFFFFF)

end Sys2Proof.Machine
end

