-- ==== Sys2Proof/Machine/Bundle.lean ====
section
/-! DEFINITION. What a bundle does besides its slots: the three actions of a checkpoint bundle, re-issues,
repetitions and loop ends, landings, and the delivery of faults (02 R39 to R45; 04 R84 to R89, R96; 05 R125 to
R131; 17 R412 to R420). -/

namespace Sys2Proof.Machine

open Sys2Proof

/-! ### Checkpoint bundles (02 R40) -/

/-- A port as a checkpoint commits it: its position, without what it holds (02 R44; 10 R281). -/
def Port.committed (x : Port) : Port := { x with ahead := [], part := [] }

/-- The capture of the shadow (02 R43). -/
def Core.capture (c : Core) : Shadow :=
  { s := c.s, a := c.a, p := c.p, v := c.v, k := c.k, mp := c.mp, fmt := c.fmt, mpc := c.mpc, pc := c.pc,
    ispsel := c.ispsel, loops := c.loops, rnd := c.rnd, ports := c.ports.map (fun e => (e.1, e.2.committed)), msgs := [] }

/-- Does the core stand at the checkpoint bundle that it rolled back to, with operations of it that have performed
(17 R419)? -/
def Core.atReplay (c : Core) : Bool :=
  c.replay && !c.sv && c.irrev.word == c.pc && (c.irrev.whole || !c.irrev.done.isEmpty)

/-- The record of irrevocable operations that a checkpoint bundle starts with: a re-issue of the completed
bundle keeps it, and so does the handler that stands before the re-issue (17 R419, R420; log entry 12). -/
def Core.newIrrev (c : Core) : Irrev :=
  if c.atReplay then { c.irrev with soft := [] }
  else if c.replay && c.sv then
    { c.irrev with done := c.irrev.done.filter (· < 16), vals := c.irrev.vals.filter (fun e => e.1 < 16), soft := [] }
  else { valid := true, word := c.pc }

/-- The three actions of a checkpoint bundle of agent `p`: the release of gated stores, the capture, and the
commitment of stream positions and popped messages. The tile takes its part in queue order. -/
def State.checkpoint (s : State) (p : Nat) : State :=
  let s := s.release p
  let s := s.updCore p fun c =>
    { c with shadow := some c.capture, recs := [], ckWord := c.pc, ckVc := c.vc, ckQp := c.inIssue.qp, ckDone := false,
             ckRegions := c.regions,
             irrevNew := c.newIrrev, needCk := false, marks := [], tchecks := [],
             fences := if c.released.isEmpty && !(c.pend.any Pending.undone) then [] else c.fences }
  if isSlot p then s else s.updTile p fun t => { t with queue := t.queue ++ [{ num := 0, kind := .capture }] }

/-- CHECKPOINT_BUNDLE (02 R40). -/
def execCheckpointBundle (s : State) : Host.Outcome State Fault Refusal := .next (s.checkpoint s.cur.core)

/-! ### Re-issue (04 R88) -/

/-- The step of a re-issued M slot: mp0 and mp1 advance by mp7 at once. -/
def Core.stepM (c : Core) : Core :=
  { c with mp := SMap.put (SMap.put c.mp 0 0 (c.gmp 0 + c.gmp 7)) 0 1 (c.gmp 1 + c.gmp 7) }

/-- REISSUE: the stepping of the acting slot; its operation follows (04 R88). -/
def execReissue (s : State) : Host.Outcome State Fault Refusal :=
  .next (if s.cur.slot = 5 then s.upd Core.stepM else s)

/-- HEADER_ONLY_BUNDLE: no slot acts (04 R86). -/
def execHeaderOnlyBundle (s : State) : Host.Outcome State Fault Refusal := .next s

/-! ### The end of a repetition (04 R89; 05 R125 to R131) -/

/-- LoopEnd of word `y` with successor `nxt` (05 R128): the levels and the next word. -/
def loopEnd (y nxt : Word) : Nat → List Loop → List Loop × Word
  | 0, l => (l, nxt)
  | n + 1, l =>
    match l.getLast? with
    | none => (l, nxt)
    | some x =>
      if x.start.toNat ≤ y.toNat ∧ y.toNat < x.stop.toNat ∧ nxt = x.stop then
        if x.count - 1 ≠ 0 then (l.dropLast ++ [{ x with count := x.count - 1 }], x.start)
        else loopEnd y nxt n l.dropLast
      else (l, nxt)

/-- The levels that a branch from `y` to `t` leaves (05 R129). -/
def popBranch (y t : Word) : Nat → List Loop → List Loop
  | 0, l => l
  | n + 1, l =>
    match l.getLast? with
    | none => l
    | some x =>
      let within := fun (w : Word) => x.start.toNat ≤ w.toNat && w.toNat < x.stop.toNat
      if within y && !within t then popBranch y t n l.dropLast else l

/-- What the last repetition of a bundle does to the pc, the loop levels and the bank. -/
def Core.transfer (c : Core) : Core :=
  let y := c.inIssue.word
  match c.taken with
  | none =>
    let l := c.loops ++ (match c.loopPush with | some x => [x] | none => [])
    let (l, w) := loopEnd y c.succ 5 l
    { c with loops := l, pc := w }
  | some t =>
    match t.kind with
    | 1 => { c with loops := popBranch y t.target 5 c.loops, pc := t.target }
    | 2 => let (l, w) := loopEnd y t.target 5 c.loops; { c with loops := l, pc := w }
    | 3 => { c with loops := [], ispsel := !c.ispsel, pc := t.target }
    | 4 => { c with halted := true, stopVc := c.vc + 1 }
    | _ => { c with pc := t.target }

/-- Is the bundle in issue the re-issue of a completed one? -/
def Core.reissued (c : Core) : Bool := c.replay && c.irrevNew.word == c.inIssue.word && c.irrev.word == c.inIssue.word

/-- Completion of a checkpoint bundle: its irrevocable operations are recorded (17 R419). A handler's bundle leaves the
record of the bundle rolled back to as it stands, completed or not. -/
def Core.complete (c : Core) : Core :=
  if c.inIssue.ck then
    { c with ckDone := true, irrev := { c.irrevNew with whole := c.irrevNew.word == c.inIssue.word || c.irrev.whole },
             replay := c.replay && c.irrevNew.word != c.inIssue.word }
  else c

/-- UCNT advances when member 0 completes a checkpoint bundle, but not at a re-issue of a completed one
(02 R32; 17 R419). -/
def State.countUnit (s : State) (p : Nat) : State :=
  match s.unitOf p with
  | none => s
  | some u =>
    if u.members.head? = some p ∧ (s.core p).inIssue.ck ∧ !((s.core p).reissued && (s.core p).irrev.whole) then
      s.setUnit { u with ucnt := u.ucnt + 1 } else s

/-! ### The release of gated stores (16 R394, R406; 17 R415, R421; 18 R436) -/

/-- Gated stores of agent `m` whose data are damaged, as they reach the vault at the release: those that no region
tolerates, and the records of those that one does (16 R394 (b), R398). -/
def State.gateDamages (s : State) (m : Nat) : List (Nat × Damage) × List Rec :=
  let ds := (s.core m).gate.filterMap fun e =>
    let worst := e.bad.foldl (fun w b => max w b.2) 0
    if worst = 0 then none else
    let at_ := fun (x : Nat × Nat) => cellStore m e.form x.1
    let a := ((e.bad.head?.map at_).getD 0) / 64 * 64
    some (s.vaultDamage (e.form == .c)
      [{ data := [], cls := [worst], vault := true, pa := a, poison := true,
         hit := (seqFrom a 64).map fun k => if e.bad.any fun x => at_ x == k && x.2 != 0 then 1 else 0 }])
  let ok := fun (d : Damage) => (s.core m).tolerates d.cls
  ((ds.filter fun d => !ok d).map fun d => (m, d), (ds.filter ok).map (s.toleratedRec m))

/-- The faults that the releases of some members meet, each member's first (18 R436). -/
def State.gateFaults (s : State) (ms : List Nat) : State × List (Nat × Use) :=
  ms.foldl (fun r m => let (s, u) := r.1.checkGate m; (s, r.2 ++ (u.map fun u => (m, u)).toList)) (s, [])

/-- Members `ms` are to release their stores, beside which the consumptions `more` stand: the state where a fault or a
consumption stands in the way; none where nothing does (16 R394, R397; 17 R421; 18 R436). -/
def State.meetRelease (s : State) (p : Nat) (ms : List Nat) (more : List (Nat × Damage) × List Rec) : State × Option State :=
  let ds := ms.map s.gateDamages
  let bad := more.1 ++ ds.flatMap (·.1)
  let (t, fs) := s.gateFaults ms
  (t, if bad.isEmpty then (if fs.isEmpty then none else some (t.deliverUses p fs))
      else some (t.consume bad (more.2 ++ ds.flatMap (·.2) ++ fs.map fun x => t.useRec x.1 x.2)))

/-- Does the bundle in issue end in a halt? -/
def Core.halting (c : Core) : Bool := !c.halted && (c.taken.map (·.kind)) == some 4

/-- The comparison of the stores of the halt bundle at word `w`, apart from the one at its checkpoint. -/
def haltMark (w : Word) : Word := w ||| (1 <<< 63)

/-- The halting members of agent `p`'s vc count are to release the stores of their halt bundles (05 R131): in tandem the
two sides compare them first, and what keeps a store from performing is met before any does (02 R50 (c); 16 R394; 18
R436). Answers the state where nothing stands in the way. -/
def State.haltCheck (s : State) (p : Nat) : State × Option State :=
  let l := (s.lock p).filter fun m => (s.core m).halting
  let w := haltMark (s.core p).inIssue.word
  if (s.pairs p).any fun x => l.contains x.1 && l.contains x.2 && (s.core x.1).gateSide != (s.core x.2).gateSide then
    (s, some (s.differ p w))
  else match s.meetRelease p l ([], []) with
    | (t, some u) => (t, some u)
    | (t, none) => ((t.agreed p w).logSorted (l.flatMap fun m => (s.gateDamages m).2), none)

/-- The end of a repetition of agent `p`'s bundle: the vc count advances; a completed wait or the last
repetition lets control go on. Before the first member's ends, the halting members of its vc count meet what their
releases meet, so that all of them end it at one PVC or none does (02 R28). -/
def State.endRepetition (s : State) (p : Nat) : State :=
  let c := s.core p
  let first := (s.lock p).all fun m => (s.core m).vc == c.vc
  let (s, f) := if first && (s.lock p).any fun m => (s.core m).halting then s.haltCheck p else (s, none)
  match f with
  | some t => t
  | none =>
    let next := fun (c : Core) => { c with vc := c.vc + 1, hold := 0, holdAt := false, again := false }
    if c.again then s.updCore p fun c => { next c with inIssue := {} }
    else if c.inIssue.rep < c.inIssue.rpt then
      s.updCore p fun c => { next c with inIssue := { c.inIssue with rep := c.inIssue.rep + 1 } }
    else
      let s := s.countUnit p
      let s := if (c.taken.map (·.kind)) = some 3 then s.fenceFetch p else s
      let s := if c.halting then s.release p else s
      s.updCore p fun c => { next c.complete.transfer with taken := none, loopPush := none, inIssue := {} }

/-- BUNDLE_REPETITION (04 R89). -/
def execBundleRepetition (s : State) : Host.Outcome State Fault Refusal := .next (s.endRepetition s.cur.core)

/-! ### Landings and faults -/

/-- Members of an agent's vc count that stand at a checkpoint bundle, by the words at their pcs. -/
def State.atCk (s : State) (l : List Nat) : List Nat :=
  l.filter fun p =>
    let c := s.core p
    c.inIssue.rep == 0 && (match ispOffset c.ispsel c.pc.toNat with
      | some o => (s.codeWord (ispAddr p o)).getLsbD 18 | none => false)

/-- RESULT_LANDING for every agent of the acting agent's vc count (04 R96). -/
def execResultLanding (s : State) : Host.Outcome State Fault Refusal :=
  let l := s.together s.cur.core
  .next (s.landAll l s.me.vc (s.atCk l))

/-- The row of 01 R19 that holds the landings of vc `m` for an agent, 0 for none. -/
def State.landRow (s : State) (p m : Nat) : Nat :=
  match (s.core p).dueLate m with
  | some x => x.row
  | none => if s.timedHold p m then 4 else 0

/-- Does the hold of agent `q` still wait for a late path to end: a full operand queue, or a fill? A fault reported
before is taken only then (17 R418 (b)). -/
def State.stillHeld (s : State) (q : Nat) : Bool :=
  let c := s.core q
  (c.hold == 3 && 16 ≤ (s.tile q).outstanding) ||
  (c.hold == 2 && (c.gate.any (s.entryWaits q) ||
    (seqFrom (clusterBase q) 4).any fun v => (s.core v).fills.any fun e => e.2 == 2))

/-- Is agent `p`, with those of its vc count, held on a late path other than a stream port, tlwait, recv or hwaitc? -/
def State.pathHeld (s : State) (p : Nat) : Bool :=
  (s.lock p).any fun q => let c := s.core q; s.stillHeld q || (!c.holdAt && s.landRow q c.vc != 0)

/-- The faults of agent `p` that are due for delivery: from the first vc after the report, or at once in a hold
on a stream port, tlwait, recv or hwaitc; none while another late path holds it (17 R418). -/
def State.dueFaults (s : State) (p : Nat) : List Late :=
  let c := s.core p
  if s.pathHeld p then [] else c.late.filter fun x => x.due < c.vc || 5 ≤ c.hold

/-- LATE_FAULT_DELIVERY: the first fault due is delivered, the others append their records beside it (16 R397; 17 R418).
Its record is appended, and stamped, here: the delivery counts as its detection (DEDUCED, log entry 133). -/
def State.deliverLate (s : State) (p : Nat) : State :=
  let due := s.dueFaults p
  match due with
  | [] => s
  | x :: r =>
    let s := s.updCore p fun c => { c with late := c.late.filter fun y => !due.contains y }
    s.deliverAmong p x.what false (r.map (·.what))

/-- LATE_FAULT_DELIVERY (17 R418). -/
def execLateFaultDelivery (p : Nat) (s : State) : Host.Outcome State Fault Refusal := .next (s.deliverLate p)

/-- NOT_AN_INSTRUCTION: KIND 0x05 with its cause and the offending word; a fetch outside the code ranges is
KIND 0x06, CAUSE 0x50 (17 R414; 18 R443). -/
def execNotAnInstruction (cause : BitVec 8) (enc : BitVec 32) (s : State) : Host.Outcome State Fault Refusal :=
  let u := s.use { kind := if cause = 0x50 then 6 else 5, cause := cause.toNat, wh := s.cur.hcw }
  .next (s.deliverUse { u with enc := enc.toNat })

end Sys2Proof.Machine
end

