-- ==== Sys2Proof/Machine/Hub.lean ====
section
/-! DEFINITION. The device hub: contexts, handles and counters, launches, graphs and phases, cancelling, and the
hub operations from their issue to their answer (02 R32 to R34; 12 R319 to R334, R339, R341). -/

namespace Sys2Proof.Machine

open Sys2Proof

/-! ### Handles (12 R326) -/

/-- Fields of a handle. -/
def hLvl (h : Word) : Nat := nbits h.toNat 60 4
def hCtx (h : Word) : Nat := nbits h.toNat 56 4
def hId (h : Word) : Nat := nbits h.toNat 0 32
/-- A handle of a level. -/
def handle (lvl c id : Nat) : Word := BitVec.ofNat 64 (lvl * 2 ^ 60 + c * 2 ^ 56 + id % 2 ^ 32)

/-- What a handle names: its counter, its state code of R328, units started. -/
structure Item where
  val     : Word := 0
  state   : Nat := 5
  started : Nat := 0
  deriving DecidableEq, Repr

/-- State of a group: being cancelled reads as running until the last child has stopped (02 R34 (c)). -/
def Group.state (g : Group) (begun : Bool) : Nat :=
  if g.status = 2 ∨ g.status = 3 then g.status else if begun || g.status == 4 then 1 else 0

/-- Key of a graph. -/
def graphKey (phase g : Nat) : Nat := 256 * phase + g
/-- The entry of a graph or phase, if it has been created. -/
def findGroup (m : SMap Group) (k : Nat) : Option Group := (m.find? fun e => e.1 == k).map (·.2)
/-- Set it. -/
def putGroup (m : SMap Group) (k : Nat) (g : Group) : SMap Group := SMap.ins (m.filter fun e => e.1 != k) k g

/-- A launch by a 32-bit identifier. -/
def Launch.state (y : Launch) : Nat := if y.status = 4 then 1 else y.status

/-- Launches created after a launch. -/
def Context.after (x : Context) (y : Launch) : Nat := (x.launches.filter fun z => y.serial < z.serial).length

/-- State of the job of a context: it runs until its phases have ended, the one after its last sealed phase apart. -/
def Context.jobState (x : Context) : Nat :=
  if x.ending && x.phases.all (fun e => e.2.status == 2 || e.2.status == 3 || (!x.cancelled && e.1 == x.phase)) then
    (if x.cancelled then 3 else 2) else 1

/-- The item that a handle names, of several whose numbers have come round the newest (12 R326, R328); of a context
without a job, its last job is gone, and none other is known (log entry 64). -/
def State.item (s : State) (h : Word) : Item :=
  match s.ctx (hCtx h) with
  | none => if hLvl h = 4 ∧ SMap.get s.ctl.made [] (hCtx h) ≠ [] then { state := 4 } else {}
  | some x =>
    match hLvl h with
    | 0 => { val := SMap.get x.sync 0 (hId h % 64), state := 6 }
    | 1 =>
      match x.launches.find? (fun y => y.lid == hId h) with
      | none => {}
      | some y => if (y.status = 2 ∨ y.status = 3) ∧ 4096 ≤ x.after y then { state := 4 }
                  else { val := y.count, state := y.state, started := y.started }
    | 2 =>
      match x.graphs.reverse.find? (fun e => e.1 % 2 ^ 32 == hId h) with
      | none => {}
      | some (k, g) =>
        if (g.status = 2 ∨ g.status = 3) ∧ 4096 ≤ x.graphs.length - 1 - g.born then { state := 4 }
        else { val := g.count, state := g.state (x.launches.any fun y => graphKey y.phase y.graph == k && y.started != 0) }
    | 3 =>
      match x.phases.reverse.find? (fun e => e.1 % 2 ^ 32 == hId h) with
      | none => {}
      | some (k, g) =>
        if (g.status = 2 ∨ g.status = 3) ∧ 4096 ≤ x.phases.length - 1 - g.born then { state := 4 }
        else { val := g.count, state := g.state (x.launches.any fun y => y.phase == k && y.started != 0) }
    | _ => { val := SMap.get s.ctl.jcnt 0 (hCtx h), state := x.jobState }

/-- The job that a context holds, or held last, and the jobs that created it, the nearest first (12 R320, R325). -/
def State.lineOf (s : State) (c : Nat) : List Nat := SMap.get s.ctl.made [] c

/-- May an operation from context `me` name context `c`: its own, or one that its job created, directly or through further
creations (12 R320)? -/
def State.mayName (s : State) (me c : Nat) : Bool :=
  c == me || (match s.lineOf me with | [] => false | j :: _ => ((s.lineOf c).drop 1).contains j)

/-! ### Completion counters upward (02 R32, R34; 12 R332) -/

/-- Change a context. -/
def State.updCtx (s : State) (c : Nat) (f : Context → Context) : State :=
  match s.ctx c with | none => s | some x => s.setCtx c (f x)

/-- Is a group at its end? -/
def Group.ended (g : Group) : Bool := g.status == 2 || g.status == 3

/-- Does a group of `n` children count for its parent at its end: not where it ends because of the parent's cancel, short
of finishing by itself (02 R34 (c), (d))? -/
def Group.counts (g : Group) (n : Nat) : Bool := g.up == 0 || (g.up == 1 && g.count.toNat == n)

/-- Does a launch count for its graph at its end (02 R34 (c), (d))? -/
def Launch.counts (y : Launch) : Bool := !y.up || y.count.toNat == y.units

/-- A phase that has finished: sealed, and every graph of it ended; the job's counter advances (12 R332). At each
level a child that ends because its parent is cancelled is not counted (02 R34 (c)). -/
def State.settlePhase (s : State) (c ph : Nat) : State :=
  match s.ctx c with
  | none => s
  | some x =>
    match findGroup x.phases ph with
    | none => s
    | some g =>
      if g.sealed && !g.ended && (x.graphs.all fun e => e.1 / 256 != ph || e.2.ended) then
        { s.setCtx c { x with phases := putGroup x.phases ph { g with status := if g.status = 4 then 3 else 2 } } with
            ctl := { s.ctl with jcnt := SMap.upd s.ctl.jcnt 0 c (· +
              (if g.counts (x.graphs.filter fun e => e.1 / 256 == ph).length then 1 else 0)) } }
      else s

/-- A graph that has finished: sealed, and every launch of it ended; its phase's counter advances. -/
def State.settleGraph (s : State) (c ph gr : Nat) : State :=
  match s.ctx c with
  | none => s
  | some x =>
    let k := graphKey ph gr
    match findGroup x.graphs k with
    | none => s
    | some g =>
      let mine := x.launches.filter fun y => y.phase == ph && y.graph == gr
      if g.sealed && !g.ended && (mine.all fun y => y.status == 2 || y.status == 3) then
        let s := s.setCtx c { x with
          graphs := putGroup x.graphs k { g with status := if g.status = 4 then 3 else 2 },
          phases := match findGroup x.phases ph with
            | none => x.phases | some p => putGroup x.phases ph { p with count := p.count + (if g.counts g.made then 1 else 0) } }
        s.settlePhase c ph
      else s

/-- A launch that has ended: every unit ended, or cancelled with no unit left (02 R34 (c)). -/
def State.settleLaunch (s : State) (c lid : Nat) : State :=
  match s.launchOf c lid with
  | none => s
  | some y =>
    let left := s.units.any fun r => r.ctx == c && r.lid == lid
    let st := if y.status = 4 ∧ left = false then 3
      else if y.status < 2 ∧ y.gone.length = y.units then 2 else y.status
    if st = y.status then s else
    let s := s.setLaunch c { y with status := st }
    let s := s.updCtx c fun x =>
      let k := graphKey y.phase y.graph
      match findGroup x.graphs k with
      | none => x
      | some g => { x with graphs := putGroup x.graphs k { g with count := g.count + (if y.counts && !g.ended then 1 else 0) } }
    s.settleGraph c y.phase y.graph

/-! ### Stop requests (02 R51; 12 R341, R342) -/

/-- The lowest free save record of a context. -/
def Context.freeRec (x : Context) : Option Nat := (seqFrom 0 x.nrec).find? fun i => !x.used.contains i

/-- Free a save record, or a reserve area (19 R450). -/
def State.freeRecord (s : State) (c i : Nat) : State :=
  if i < 4096 then (match s.ctx c with | none => s | some x => s.setCtx c { x with used := x.used.filter (· != i) })
  else if i < 4096 + 36 then { s with err := { s.err with evused := s.err.evused &&& ~~~(1#36 <<< (i - 4096)) } }
  else s



/-- Send a stop request to a unit: it takes a save record unless it is to be cancelled. -/
def State.stopUnit (s : State) (c lid u : Nat) (cancel : Bool) : State :=
  match s.findUnit c lid u, s.ctx c with
  | some r, some x =>
    match r.st with
    | .running =>
      let i := if cancel then some 5000 else x.freeRec
      match i with
      | none => s
      | some i =>
        let s := if cancel then s else s.setCtx c { x with used := x.used ++ [i] }
        let r := { r with st := .stopping i, cancel := cancel }
        let s := s.setUnit r
        let s := r.members.foldl (fun s m => s.updCore m fun k => { k with stopReq := true }) s
        s.abandonHolds r
    | _ => if cancel then s.setUnit { r with cancel := true } else s
  | _, _ => s

/-! ### Cancelling (02 R34; 12 R334) -/

/-- Cancel a launch, by name or with its graph (`up`): units not started are dropped, running ones stop, saved ones go (12
R344). -/
def State.cancelLaunch (s : State) (c lid : Nat) (up : Bool := false) : State :=
  match s.launchOf c lid with
  | none => s
  | some y =>
    if 2 ≤ y.status then s else
    let s := s.setLaunch c { y with status := 4, up := up }
    let mine := s.units.filter fun r => r.ctx == c && r.lid == lid
    let s := mine.foldl (fun s r =>
      match r.st with
      | .saved i => (s.dropUnit c lid r.u).freeRecord c i
      | .lost => s.dropUnit c lid r.u
      | _ => s.stopUnit c lid r.u true) s
    s.settleLaunch c lid

/-- How a group is cancelled: by name, or with its parent. -/
def Group.cancelled (g : Group) (up : Bool) : Group :=
  { g with sealed := true, status := 4, up := if g.status = 4 then g.up else if !up then 0 else if g.sealed then 1 else 2 }

/-- Cancel a graph, by name or with its phase; an open one is sealed. -/
def State.cancelGraph (s : State) (c ph gr : Nat) (up : Bool := false) : State :=
  match s.ctx c with
  | none => s
  | some x =>
    match findGroup x.graphs (graphKey ph gr) with
    | none => s
    | some g =>
      if g.ended then s else
      let s := s.setCtx c { x with graphs := putGroup x.graphs (graphKey ph gr) (g.cancelled up) }
      let s := (x.launches.filter fun y => y.phase == ph && y.graph == gr).foldl (fun s y => s.cancelLaunch c y.lid true) s
      s.settleGraph c ph gr

/-- Open the next phase of a context (12 R332). -/
def Context.nextPhase (x : Context) : Context :=
  { x with phase := x.phase + 1, phases := putGroup x.phases (x.phase + 1) { born := x.phases.length } }

/-- Cancel a phase, by name or with its job; the open one is sealed, and the next opens. -/
def State.cancelPhase (s : State) (c ph : Nat) (up : Bool := false) : State :=
  match s.ctx c with
  | none => s
  | some x =>
    match findGroup x.phases ph with
    | none => s
    | some g =>
      if g.ended then s else
      let x' := { x with phases := putGroup x.phases ph (g.cancelled up) }
      let s := s.setCtx c (if x.phase = ph ∧ !x.ending then x'.nextPhase else x')
      let s := (x.graphs.filter fun e => e.1 / 256 == ph).foldl (fun s e => s.cancelGraph c ph (e.1 % 256) true) s
      s.settlePhase c ph

/-- The slot of a context issues nothing more after the bundle that it has issued, whose other slots act (12 R325,
R332). -/
def State.haltSlot (s : State) (c : Nat) : State :=
  let p := slotBase + c
  let rest := (s.core p).rest
  ((s.cancelTurns [p]).updCore p fun k => { k with stopped := true, rest := [] }).pushTurns (rest.map .op)

/-- Cancel the job of a context (12 R334). -/
def State.cancelJob (s : State) (c : Nat) : State :=
  match s.ctx c with
  | none => s
  | some x =>
    let s := (s.updCtx c fun x => { x with ending := true, cancelled := true }).haltSlot c
    x.phases.foldl (fun s e => s.cancelPhase c e.1 true) s

/-- Land the answer of a hub operation at its issuer, which goes on with its bundle; an answer that nobody
waits for lands nowhere (12 R320). -/
def State.landAnswer (s : State) (r : HubReq) (v : Word) (dest : Dest) : State :=
  let c := s.core r.agent
  let s := { s with hubq := s.hubq.filter fun q => !(q.agent == r.agent && q.id == r.id) }
  if c.nid = r.id ∧ (c.hold = 1 ∨ c.hold = 8) ∧ !c.stopped then
    let rest := c.rest
    let s := s.auditIn r.agent (toBytes 8 v.toNat)
    let s := s.updCore r.agent fun c =>
      let c := { c.land 2 dest (.word v) 1 with hold := 0, rest := [] }
      if r.op = 0x31 ∨ r.op = 0x34 then c else c.recordVal (2 + (if r.sv && !isSlot r.agent then 16 else 0)) v
    s.pushTurns (rest.map .op)
  else s

/-- Has the slot of a context accesses or copies that have not performed (log entry 50)? -/
def Core.unsettled (c : Core) : Bool :=
  !c.released.isEmpty || c.pend.any (fun x => x.late && !x.arrived) ||
    (c.late.isEmpty && !(c.eng0.isEmpty && c.eng1.isEmpty && c.eng3.isEmpty))

/-- A job that is to be cancelled is; one whose last sealed phase has finished has ended, and what its units have since
put into the phase after it is dropped (12 R323, R332; 17 R422 (c)). Phases sealed before the last one have ended too by
then: 12 R332 names the sealed phase alone (DESIGN CHOICE, log entry 126). -/
def State.closeJob (s : State) (c : Nat) : State :=
  match s.ctx c with
  | none => s
  | some x =>
    if !x.ending then s
    else if x.cancelled then (if x.phases.any fun e => !e.2.sealed then s.cancelJob c else s)
    else if !x.closing && x.phases.all fun e => e.1 == x.phase || e.2.ended then
      (s.updCtx c fun x => { x with closing := true }).cancelPhase c x.phase true
    else s

/-- Are operations of an agent's last bundle still to act? -/
def State.acting (s : State) (p : Nat) : Bool := s.agenda.any fun t => match t with | .op o => o.ctx.core == p | _ => false

/-- The context's job has finished: the context is freed once every phase has ended, no unit is left, and
every operation received from it has been answered (12 R320, R323, R325). -/
def State.tryFree (s : State) (c : Nat) : State :=
  let s := s.closeJob c
  match s.ctx c with
  | none => s
  | some x =>
    let open_ := x.phases.any fun e => !e.2.ended
    let busy := s.units.any (fun r => r.ctx == c) ||
      (s.hubq.any fun q => q.ctx == c && !x.killers.contains (q.agent, q.id)) ||
      (s.core (slotBase + c)).unsettled || s.acting (slotBase + c)
    if x.ending && !open_ && !busy then
      let s := (s.dropCtx c).setCore (slotBase + c) (Core.resetOf (slotBase + c))
      let s := { s with tcache := s.tcache.filter fun e => e.ctx != c }
      let s := (s.cores.map (·.1)).foldl (fun s q => s.updCore q fun k =>
        { k with lastUnit := k.lastUnit.map fun l => if l.1 = c then (16, l.2) else l }) s
      x.killers.foldl (fun s k =>
        match s.hubq.find? (fun q => q.agent == k.1 && q.id == k.2) with
        | some q => s.landAnswer q 0 .none
        | none => s) s
    else s

/-! ### Creating a context (12 R322 to R325) -/

/-- Clear a range of a store with its protection state. -/
def State.wipe (s : State) (a n : Nat) : State :=
  { s.zeroBytes a n with
      sect := s.sect.filter fun e => !(a ≤ 64 * e.1 && 64 * e.1 < a + n),
      marks := s.marks.filter fun e => !(a ≤ e.1 && e.1 < a + n) }

/-- Is a job image header valid (12 R322)? -/
def jobHeaderOk (b : List Byte) : Bool :=
  let len := fieldOf b 8 4
  4 ≤ len && len ≤ 16384 && len % 4 == 0 && fieldOf b 0 8 % 64 == 0 && fieldOf b 16 8 % 64 == 0 &&
    fieldOf b 12 4 == 0 && fieldOf b 24 40 == 0

/-- The context that a descriptor describes (12 R324). -/
def contextOf (b : List Byte) (creator : Option Nat) : Context :=
  { root := BitVec.ofNat 64 (fieldOf b 0 8), save := BitVec.ofNat 64 (fieldOf b 8 8), pannier := BitVec.ofNat 64 (fieldOf b 16 8),
    rsize := fieldOf b 24 4, nrec := fieldOf b 28 2, drain := fieldOf b 30 2, slice := fieldOf b 32 4,
    pmax := fieldOf b 36 1, creator := creator, phases := [(0, {})] }

/-- The lowest free context. -/
def State.freeCtx (s : State) : Option Nat := (seqFrom 0 16).find? fun c => (s.ctx c).isNone

/-- The target word that JENTRY names. -/
def Ctl.entry (c : Ctl) : Word := target (c.jentry.getLsbD 12) (c.jentry.setWidth 12)

/-- Start a job in context `c` (12 R323 steps 2 to 5). -/
def State.startJob (s : State) (c : Nat) (x : Context) (code : List Byte) : State :=
  let p := slotBase + c
  let s := (s.wipe (ispAddr p 0) 0x10000).wipe (hubAddr c 0) 0x40000
  let s := s.setBytes (ispAddr p 0x4000) code
  let s := s.setCtx c x
  let k : Core := { Core.resetOf p with idle := false, pc := s.ctl.entry }
  { s.setCore p { k with shadow := some k.capture } with
      ctl := { s.ctl with jctx := BitVec.ofNat 4 c, jcnt := SMap.put s.ctl.jcnt 0 c 0,
                          njob := s.ctl.njob + 1,
                          made := SMap.put s.ctl.made [] c (s.ctl.njob :: (match x.creator with | none => [] | some k => s.lineOf k)) } }

/-! ### Launches (12 R330 to R333) -/

/-- Is a kernel image header valid (12 R331)? -/
def kernelOk (b : List Byte) : Bool :=
  fieldOf b 0 4 ≤ 2048 && fieldOf b 0 4 % 4 == 0 && fieldOf b 4 4 ≤ 16384 && fieldOf b 8 4 ≤ 16384 &&
  fieldOf b 8 4 % 32 == 0 && fieldOf b 12 4 ≤ 0x9000 && fieldOf b 16 4 % 4096 == 0 && fieldOf b 20 4 % 4096 == 0 &&
  fieldOf b 24 1 < 16 && fieldOf b 25 1 < 2 && fieldOf b 26 2 < 512 && fieldOf b 28 36 == 0

/-- Is size `n` of tandem reported as supported (02 R49)? -/
def State.tandemOk (s : State) (n : Nat) : Bool := (n == 1 && s.tandemCap.getLsbD 0) || (n == 2 && s.tandemCap.getLsbD 1)

/-- Is a launch descriptor valid (12 R330; 17 R415 cause 0x2E)? -/
def State.launchOk (s : State) (me : Nat) (x : Context) (b : List Byte) : Bool :=
  let mode := fieldOf b 12 1
  let size := fieldOf b 13 1
  let prio := fieldOf b 15 1
  let ne := fieldOf b 17 1
  let vlen := fieldOf b 40 4
  let voff := fieldOf b 44 4
  mode ≤ 2 && (size == 1 || size == 2 || size == 4) && (mode != 2 || s.tandemOk size) &&
  (s.eligible (BitVec.ofNat 8 (fieldOf b 14 1)) (slotSize mode size)).any (fun l => l.all s.coreUp) && (prio < 8 || prio == 255) && ne ≤ 4 &&
  fieldOf b 18 2 == 0 && fieldOf b 20 4 < 0x2000 && fieldOf b 48 16 == 0 && fieldOf b 216 40 == 0 &&
  vlen % 64 == 0 && voff % 64 == 0 && voff + vlen ≤ regionTable &&
  (match findGroup x.graphs (graphKey x.phase (fieldOf b 16 1)) with
   | none => true | some g => x.cancelled || (!g.sealed && g.made < 4096)) &&
  (seqFrom 0 ne).all fun k =>
    let h : Word := BitVec.ofNat 64 (fieldOf b (64 + 16 * k) 8)
    hLvl h < 5 && (hLvl h != 0 || hId h < 64) && s.mayName me (hCtx h)

/-- The launch of a descriptor and a kernel header. -/
def launchFrom (x : Context) (serial : Nat) (b k : List Byte) : Launch :=
  let word := fun (o : Nat) => (BitVec.ofNat 64 (fieldOf b o 8) : Word)
  let prio := fieldOf b 15 1
  { lid := x.nlid, serial := serial, kimg := word 0, units := fieldOf b 8 4 + 1, mode := fieldOf b 12 1, size := fieldOf b 13 1,
    dies := BitVec.ofNat 8 (fieldOf b 14 1), prio := if prio = 255 then 255 else min prio x.pmax, phase := x.phase,
    graph := fieldOf b 16 1,
    edges := (seqFrom 0 (fieldOf b 17 1)).map fun i => (word (64 + 16 * i), word (72 + 16 * i)),
    entry := BitVec.ofNat 13 (fieldOf b 20 4), vin := word 24, vstride := word 32, vlen := fieldOf b 40 4, voff := fieldOf b 44 4,
    args := (seqFrom 0 7).map fun i => word (128 + 8 * i), aregs := (seqFrom 0 4).map fun i => word (184 + 8 * i),
    reslen := fieldOf k 0 4, banklen := fieldOf k 4 4, hcwlen := fieldOf k 8 4, tilelen := fieldOf k 12 4, woff := fieldOf k 16 4,
    wlen := fieldOf k 20 4, live := BitVec.ofNat 4 (fieldOf k 24 1), ispsave := nbit (fieldOf k 25 1) 0,
    svec := BitVec.ofNat 9 (fieldOf k 26 2) }

/-- Is an edge met (12 R333 (a))? -/
def State.edgeMet (s : State) (e : Word × Word) : Bool :=
  let i := s.item e.1
  i.state == 4 || e.2.toNat ≤ i.val.toNat

/-- May a launch become ready (12 R333)? -/
def State.readyNow (s : State) (x : Context) (y : Launch) : Bool :=
  !y.ready && y.status == 0 && !x.held && y.edges.all s.edgeMet &&
    x.phases.all fun e => y.phase ≤ e.1 || e.2.ended

/-! ### Issue of the hub operations (12 R320) -/

/-- Checks of a hub operation: privilege (cause 0x27), and for an irrevocable one its bundle (0x22). -/
def chkHub (irrev : Bool) (s : State) : Option Use :=
  if irrev then firstUse [s.privileged false, s.inCk] else none

/-- The leading operations of the agenda. -/
def leadOps : List Turn → List MicroOp
  | .op o :: r => o :: leadOps r
  | _ => []

/-- Send a request to the device hub; the rest of the bundle waits for the answer. -/
def State.sendHub (s : State) (op func : Nat) (x y : Word) : State :=
  let cur := s.cur
  let rest := leadOps s.agenda
  let s := { s with agenda := s.agenda.drop rest.length }
  let s := s.upd fun c => { c with nid := c.nid + 1, hold := if op = 0x31 then 8 else 1, rest := rest }
  { s with hubq := s.hubq ++ [{ agent := cur.core, id := s.me.nid, op := op, func := func, x := x, y := y,
                                ctx := s.ctxOf cur.core, sv := cur.sv, enc := cur.enc, reis := cur.reis }] }

/-- A hub operation with destination `d`: irrevocable ones perform once (17 R419). -/
def State.hubOp (s : State) (op func : Nat) (d : Dest) (x y : Word) : Host.Outcome State Fault Refusal :=
  let irrev := op != 0x31 && op != 0x34
  guarded s (chkHub irrev s)
    (if irrev then
      (if s.donePreviously then s.land d (.recorded s.cur.core s.irrevKey) 1
       else if s.secondary s.cur.core then s.markDone.land d (.recorded (s.primary s.cur.core) s.irrevKey) 1
       else s.markDone.sendHub op func x y)
     else s.sendHub op func x y)

/-- hlaunch (12 R332). -/
def execHlaunch (d a : BitVec 5) (s : State) : Host.Outcome State Fault Refusal := s.hubOp 0x30 0 (.s d.toNat) (s.me.gs a) 0
/-- hlaunch.sealg (12 R332). -/
def execHlaunchSealg (a : BitVec 5) (s : State) : Host.Outcome State Fault Refusal := s.hubOp 0x30 1 .none (s.me.gs a) 0
/-- hlaunch.sealp (12 R332). -/
def execHlaunchSealp (s : State) : Host.Outcome State Fault Refusal := s.hubOp 0x30 2 .none 0 0
/-- hlaunch.end (12 R332). -/
def execHlaunchEnd (s : State) : Host.Outcome State Fault Refusal := s.hubOp 0x30 3 .none 0 0
/-- hwaitc (12 R329). -/
def execHwaitc (d a b : BitVec 5) (s : State) : Host.Outcome State Fault Refusal := s.hubOp 0x31 0 (.s d.toNat) (s.me.gs a) (s.me.gs b)
/-- hcancel (12 R334). -/
def execHcancel (a : BitVec 5) (s : State) : Host.Outcome State Fault Refusal := s.hubOp 0x32 0 .none (s.me.gs a) 0
/-- hsetc (12 R327). -/
def execHsetc (a b : BitVec 5) (s : State) : Host.Outcome State Fault Refusal := s.hubOp 0x33 0 .none (s.me.gs a) (s.me.gs b)
/-- hsetc.add (12 R327). -/
def execHsetcAdd (a b : BitVec 5) (s : State) : Host.Outcome State Fault Refusal := s.hubOp 0x33 1 .none (s.me.gs a) (s.me.gs b)
/-- hreadc (12 R328). -/
def execHreadc (d a : BitVec 5) (s : State) : Host.Outcome State Fault Refusal := s.hubOp 0x34 0 (.s d.toNat) (s.me.gs a) 0
/-- hreadc.st (12 R328). -/
def execHreadcSt (d a : BitVec 5) (s : State) : Host.Outcome State Fault Refusal := s.hubOp 0x34 1 (.s d.toNat) (s.me.gs a) 0
/-- hstop (12 R341). -/
def execHstop (a : BitVec 5) (s : State) : Host.Outcome State Fault Refusal := s.hubOp 0x35 0 .none (s.me.gs a) 0
/-- hstop.u (12 R341). -/
def execHstopU (a b : BitVec 5) (s : State) : Host.Outcome State Fault Refusal := s.hubOp 0x35 1 .none (s.me.gs a) (s.me.gs b)
/-- hctx (12 R325). -/
def execHctx (d a : BitVec 5) (s : State) : Host.Outcome State Fault Refusal := s.hubOp 0x36 0 (.s d.toNat) (s.me.gs a) 0
/-- hctx.kill (12 R325). -/
def execHctxKill (a : BitVec 5) (s : State) : Host.Outcome State Fault Refusal := s.hubOp 0x36 1 .none (s.me.gs a) 0
/-- hctx.hold (12 R325). -/
def execHctxHold (a : BitVec 5) (s : State) : Host.Outcome State Fault Refusal := s.hubOp 0x36 2 .none (s.me.gs a) 0
/-- hctx.run (12 R325). -/
def execHctxRun (a : BitVec 5) (s : State) : Host.Outcome State Fault Refusal := s.hubOp 0x36 3 .none (s.me.gs a) 0
/-- hdeal (12 R339). -/
def execHdeal (d a b : BitVec 5) (s : State) : Host.Outcome State Fault Refusal := s.hubOp 0x37 0 (.s d.toNat) (s.me.gs a) (s.me.gs b)
/-- hdeal.e (12 R339). -/
def execHdealE (d a : BitVec 5) (s : State) : Host.Outcome State Fault Refusal := s.hubOp 0x37 1 (.s d.toNat) (s.me.gs a) 0
/-- hdeal.ring (12 R339). -/
def execHdealRing (a b : BitVec 5) (s : State) : Host.Outcome State Fault Refusal := s.hubOp 0x37 2 .none (s.me.gs a) (s.me.gs b)

/-! ### Answers (12 R320, R325 to R341) -/

/-- What the device hub does with a request: it waits, answers, or refuses. -/
inductive Answer where
  | wait
  | val (w : Word)
  | fault (r : Rec)
  deriving DecidableEq, Repr

/-- The refusal of 17 R415 cause 0x2E. -/
def State.hubUse (s : State) (r : HubReq) : Answer :=
  .fault (s.useRec r.agent { cause := 0x2E, slot := 2, enc := r.enc.toNat, reis := r.reis })

/-- An access fault of the hub on behalf of a request. -/
def State.hubFault (s : State) (r : HubReq) (f : XFault) : Answer :=
  .fault (s.useRec r.agent (f.use { p := r.agent, ctx := r.ctx, sv := r.sv, eng := true } false))

/-- Is a handle one that the form accepts: a level of `lvls`, a context that may be named, a sync counter below
64 (12 R320, R326)? Its reserved bits [55:32], and the ID of a job handle, are ignored: the spec states no outcome for one
where they are not 0 (DESIGN CHOICE, log entry 125). -/
def State.handleOk (s : State) (r : HubReq) (h : Word) (lvls : List Nat) : Bool :=
  lvls.contains (hLvl h) && (hLvl h != 0 || hId h < 64) && s.mayName r.ctx (hCtx h) && (r.sv || hCtx h == r.ctx)

/-- A hub's state that meets a lost unit makes the module viral (18 R434): the descriptors, headers and records that a hub
acts on (log entry 127). -/
def State.hubLost (s : State) (r : Rec) (fs : List Find) : State :=
  match fs.find? (·.lost) with
  | some f => s.goViral f.kind (s.findBlock r f)
  | none => s

/-- The device hub reads `n` bytes of G-space for a request; the address takes either form (09 R240), and no read of a
hub is predicted (R255). What the read finds is logged (18 R428); host memory waits while a route is not yet in force (13
R349). -/
def State.hubRead (s : State) (r : HubReq) (a : Word) (n : Nat) : State × Except Answer (List Byte) :=
  let w : Who := { p := r.agent, ctx := r.ctx, sv := r.sv, eng := true }
  match pannierVa a with
  | none => (s, .error (s.hubFault r { cause := 5, va := a.toNat }))
  | some va =>
    if s.routeKeeps w va n then (s, .error .wait) else
    let (s, g) := s.loadG w va n false
    match g with
    | .error f => (s, .error (s.hubFault r f))
    | .ok g =>
      let e := s.recFor r.agent { va := va }
      ((s.logAll e g.finds).hubLost e g.finds, .ok g.data)

/-- Have the stores of an issuer performed before its hlaunch: the gated ones that have been released, and those to MMIO
pages (12 R332)? -/
def Core.stored (c : Core) : Bool :=
  c.released.isEmpty && !(c.pend.any fun x => !x.arrived && match x.src with | .mmio .. => true | _ => false)

/-- hlaunch (12 R330 to R332); one received while its job is being cancelled makes a launch that is cancelled at once
(R320). -/
def State.doLaunch (s : State) (r : HubReq) : State × Answer :=
  match s.ctx r.ctx with
  | none => (s, .val 0)
  | some x =>
    if !(s.core r.agent).stored || 1024 ≤ (x.launches.filter fun y => y.status < 2 || y.status == 4).length then (s, .wait)
    else if r.x.toNat % 64 ≠ 0 then (s, s.hubUse r) else
    let (s, g) := s.hubRead r r.x 256
    match g with
    | .error a => (s, a)
    | .ok g =>
      if !s.launchOk r.ctx x g then (s, s.hubUse r) else
      let (s, k) := s.hubRead r (BitVec.ofNat 64 (fieldOf g 0 8)) 64
      match k with
      | .error a => (s, a)
      | .ok k =>
        if !kernelOk k then (s, s.hubUse r) else
        let y := launchFrom x s.serial g k
        let key := graphKey x.phase y.graph
        let gr := (findGroup x.graphs key).getD { born := x.graphs.length }
        let s := { s.setCtx r.ctx { x with
          launches := x.launches.filter (·.lid != y.lid) ++ [y], nlid := if y.lid + 1 = 2 ^ 32 then 1 else y.lid + 1,
          graphs := putGroup x.graphs key { gr with made := gr.made + 1 } } with serial := s.serial + 1 }
        ((if x.cancelled || x.closing then s.cancelLaunch r.ctx y.lid else s), .val (handle 1 r.ctx y.lid))

/-- Seal one graph of the current phase. -/
def State.sealGraph (s : State) (c g : Nat) : State :=
  match s.ctx c with
  | none => s
  | some x =>
    let k := graphKey x.phase g
    let gr := (findGroup x.graphs k).getD { born := x.graphs.length }
    (s.setCtx c { x with graphs := putGroup x.graphs k { gr with sealed := true } }).settleGraph c x.phase g

/-- Seal the current phase and its open graphs, and open the next; with `last` the job ends once it has finished. -/
def State.sealPhase (s : State) (c : Nat) (last : Bool) : State :=
  match s.ctx c with
  | none => s
  | some x =>
    let ph := x.phase
    let s := (x.graphs.filter fun e => e.1 / 256 == ph && !e.2.sealed).foldl (fun s e => s.sealGraph c (e.1 % 256)) s
    let s := s.updCtx c fun x =>
      { x with phases := putGroup x.phases ph { (findGroup x.phases ph).getD {} with sealed := true },
               ending := x.ending || last }.nextPhase
    s.settlePhase c ph

/-- hcancel (12 R334). -/
def State.doCancel (s : State) (h : Word) : State :=
  let c := hCtx h
  match s.ctx c with
  | none => s
  | some x =>
    match hLvl h with
    | 1 => s.cancelLaunch c (hId h)
    | 2 => match x.graphs.reverse.find? (fun e => e.1 % 2 ^ 32 == hId h) with | none => s | some (k, _) => s.cancelGraph c (k / 256) (k % 256)
    | 3 => match x.phases.reverse.find? (fun e => e.1 % 2 ^ 32 == hId h) with | none => s | some (k, _) => s.cancelPhase c k
    | _ => s.cancelJob c

/-- hctx: a new job (12 R322 to R325). -/
def State.doCtx (s : State) (r : HubReq) : State × Answer :=
  match s.freeCtx with
  | none => (s, .val (BitVec.allOnes 64))
  | some c =>
    if r.x.toNat % 64 ≠ 0 then (s, s.hubUse r) else
    let (s, h) := s.hubRead r r.x 64
    match h with
    | .error a => (s, a)
    | .ok h =>
      if !jobHeaderOk h then (s, s.hubUse r) else
      let (s, d) := s.hubRead r (BitVec.ofNat 64 (fieldOf h 16 8)) 64
      match d with
      | .error a => (s, a)
      | .ok d =>
        let (s, k) := s.hubRead r (BitVec.ofNat 64 (fieldOf h 0 8)) (fieldOf h 8 4)
        match k with
        | .error a => (s, a)
        | .ok k => (s.startJob c (contextOf d (some r.ctx)) k, .val (BitVec.ofNat 64 c))

/-- hctx.kill, .hold and .run (12 R325). The answer of a kill waits until the context is free; a core that kills its own
context is answered at once, since its unit is being cancelled, and so is a kill from the context itself while another
one of it is pending, since every operation received from the context is answered before it is freed (log entry 65). -/
def State.doCtxFn (s : State) (r : HubReq) : State × Answer :=
  let c := r.x.toNat % 16
  if r.x.toNat / 16 ≠ 0 ∨ !s.mayName r.ctx c then (s, s.hubUse r) else
  match s.ctx c with
  | none => (s, .val 0)
  | some x =>
    match r.func with
    | 2 => (s.setCtx c { x with held := true }, .val 0)
    | 3 => (s.setCtx c { x with held := false }, .val 0)
    | _ =>
      if x.killers.contains (r.agent, r.id) then (s, .wait)
      else if r.ctx = c ∧ (!isSlot r.agent || !x.killers.isEmpty) then (if x.killers.isEmpty then s.cancelJob c else s, .val 0)
      else
        let s := s.setCtx c { x with killers := x.killers ++ [(r.agent, r.id)] }
        (if x.killers.isEmpty then s.cancelJob c else s, .wait)

/-- hdeal (12 R339). -/
def State.doDeal (s : State) (r : HubReq) : State × Answer :=
  let c := hCtx r.x
  let none' := if r.func = 2 then Answer.val 0 else .val (BitVec.allOnes 64)
  match s.launchOf c (hId r.x) with
  | none => (s, none')
  | some y =>
    if (s.item r.x).state = 4 then (s, none') else
    let l := s.slotsOf y
    let u := r.y.toNat
    match r.func with
    | 0 =>
      if u < y.units then
        let i := u % l.length
        let q := ((l[i]?).getD []).headD 0
        (s, .val (BitVec.ofNat 64 (i % 2 ^ 16 + u / l.length % 2 ^ 32 * 2 ^ 16 + q * 2 ^ 48)))
      else (s, .val (BitVec.allOnes 64))
    | 1 => (s, .val (BitVec.ofNat 64 l.length))
    | _ =>
      match s.findUnit c y.lid u with
      | none => (s, .val 0)
      | some n => (if n.st = .running then n.members.foldl (fun s m => s.updCore m (·.setEvt 2)) s else s, .val 0)

/-- Replace a request. -/
def State.setReq (s : State) (r : HubReq) : State :=
  { s with hubq := s.hubq.map fun q => if q.agent == r.agent && q.id == r.id then r else q }

/-- hstop: requests to the units that run when the hub takes it; one whose context has no free record waits for it (12
R341). -/
def State.doStop (s : State) (r : HubReq) : State × Answer :=
  let c := hCtx r.x
  let mine : List (Nat × Nat) := match r.todo with
    | some l => l
    | none => (s.units.filter fun (n : UnitRec) => n.ctx == c && n.st == .running && !n.cancel &&
        (hLvl r.x == 4 || n.lid == hId r.x) && (r.func == 0 || n.u == r.y.toNat)).map fun n => (n.lid, n.u)
  let s := mine.foldl (fun s n => s.stopUnit c n.1 n.2 false) s
  let left := mine.filter fun n => match s.findUnit c n.1 n.2 with | some m => m.st == .running | none => false
  if left.isEmpty then (s, .val 0) else (s.setReq { r with todo := some left }, .wait)

/-- Is an operation received from a context whose job is being cancelled (12 R320)? -/
def State.cancelling (s : State) (c : Nat) : Bool := match s.ctx c with | some x => x.cancelled | none => true

/-- The device hub acts on a request. -/
def State.hubDo (s : State) (r : HubReq) : State × Answer :=
  match r.op with
  | 0x30 =>
    match r.func with
    | 0 => s.doLaunch r
    | 1 => (s.sealGraph r.ctx (r.x.toNat % 256), .val 0)
    | 2 => (s.sealPhase r.ctx false, .val 0)
    | _ => ((s.sealPhase r.ctx true).haltSlot r.ctx, .val 0)
  | 0x31 =>
    if !s.handleOk r r.x [0, 1, 2, 3, 4] then (s, s.hubUse r) else
    let i := s.item r.x
    (s, if r.y.toNat ≤ i.val.toNat ∨ (3 ≤ i.state ∧ i.state ≤ 5) ∨ s.cancelling r.ctx = true then .val i.val else .wait)
  | 0x32 => if !s.handleOk r r.x [1, 2, 3, 4] then (s, s.hubUse r) else (s.doCancel r.x, .val 0)
  | 0x33 =>
    if !s.handleOk r r.x [0] then (s, s.hubUse r) else
    (s.updCtx (hCtx r.x) fun x => { x with sync := SMap.upd x.sync 0 (hId r.x) fun v => if r.func = 0 then r.y else v + r.y }, .val 0)
  | 0x34 =>
    if !s.handleOk r r.x [0, 1, 2, 3, 4] then (s, s.hubUse r) else
    let i := s.item r.x
    (s, .val (if r.func = 0 then i.val else BitVec.ofNat 64 (i.state + i.started % 2 ^ 32 * 2 ^ 32)))
  | 0x35 => if !s.handleOk r r.x (if r.func = 0 then [1, 4] else [1]) then (s, s.hubUse r) else s.doStop r
  | 0x36 => if r.func = 0 then s.doCtx r else s.doCtxFn r
  | _ => if !s.handleOk r r.x [1] then (s, s.hubUse r) else s.doDeal r

/-- The register of an answer: bits [25:21] of the operation. -/
def HubReq.dest (r : HubReq) : Dest :=
  let d := nbits r.enc.toNat 21 5
  if r.op = 0x31 ∨ r.op = 0x34 ∨ ((r.op = 0x30 ∨ r.op = 0x36) ∧ r.func = 0) ∨ (r.op = 0x37 ∧ r.func < 2) then .s d else .none

/-- LAUNCH_READY (12 R333). -/
def State.makeReady (s : State) (c lid : Nat) : State :=
  match s.ctx c with
  | none => s
  | some x =>
    match x.launch lid with
    | none => s
    | some y => if s.readyNow x y then s.setLaunch c { y with ready := true } else s

/-- The device hub evaluates every launch after a change of a counter, of a phase or of a hold (12 R333, R344). -/
def State.wake (s : State) : State :=
  s.ctxs.foldl (fun s e => e.2.launches.foldl (fun s y => if y.ready then s else s.makeReady e.1 y.lid) s) s

end Sys2Proof.Machine
end

