-- ==== Sys2Proof/Machine/Units.lean ====
section
/-! DEFINITION. Units: which one takes freed cores, start, retirement, slices, stop and save, resume, the
auditor's replay, and the start of a job (02 R27 to R38, R51 to R56; 09 R261; 12 R321 to R323, R333 to R344;
16 R407, R408; 17 R423; 18 R474; 19 R450, R452). -/

namespace Sys2Proof.Machine

open Sys2Proof

/-! ### Who waits, and who takes freed cores (02 R36 to R38; 12 R335; 19 R452) -/

/-- A unit that is ready and waits for cores: `slots` are the slots that it may take, in search order; `behind`
when it stopped at the end of its slice, `since` when that was. -/
structure Wait where
  ctx    : Nat
  lid    : Nat
  u      : Nat
  prio   : Nat
  serial : Nat
  behind : Bool
  since  : Nat := 0
  slots  : List (List Nat)
  deriving DecidableEq, Repr

/-- Is every core of a slot on a die that is online? -/
def State.online (s : State) (l : List Nat) : Bool := l.all fun q => !s.offline (q / 36)

/-- The slots of a launch from slot `k` on, wrapping, less those on offline dies. -/
def State.slotsFrom (s : State) (y : Launch) (k : Nat) : List (List Nat) :=
  let l := s.slotsOf y
  (l.drop k ++ l.take k).filter s.online

/-- The next unit of slot `k` of a launch, once its predecessor there has gone (02 R36); a unit dealt to an
offline die is placed as a pre-empted one (19 R452). -/
def State.nextUnit (s : State) (c : Nat) (y : Launch) (k : Nat) : Option Wait :=
  let l := s.slotsOf y
  let here := fun (u : Nat) => u % l.length == k
  let u := k + l.length * (y.gone.filter here).length
  if u < y.units && !(s.units.any fun r => r.ctx == c && r.lid == y.lid && here r.u) then
    let own := (l[k]?).getD []
    some { ctx := c, lid := y.lid, u := u, prio := y.prio, serial := y.serial, behind := false,
           slots := if s.online own then [own] else s.slotsFrom y k }
  else none

/-- A saved unit that waits to resume: priority 0 to 7 on any slot, freewheel on its own (02 R37 (c)). -/
def State.savedWait (s : State) (y : Launch) (r : UnitRec) : Wait :=
  let own := ((s.slotsOf y)[r.slot]?).getD []
  { ctx := r.ctx, lid := r.lid, u := r.u, prio := y.prio, serial := y.serial, behind := r.sliced, since := r.since,
    slots := if y.prio = 255 then [own].filter s.online else s.slotsFrom y r.slot }

/-- Is a unit saved? -/
def UState.isSaved : UState → Bool
  | .saved _ => true
  | _ => false

/-- Every unit that waits for cores: its launch is ready, and its context is not held. -/
def State.waiters (s : State) : List Wait :=
  s.ctxs.flatMap fun (c, x) => if x.held then [] else
    x.launches.flatMap fun y => if !(y.ready && y.status < 2) then [] else
      (seqFrom 0 (s.slotsOf y).length).filterMap (s.nextUnit c y) ++
      (s.units.filter fun r => r.ctx == c && r.lid == y.lid && r.st.isSaved).map (s.savedWait y)

/-- Are all cores of a slot free? -/
def State.free (s : State) (l : List Nat) : Bool := l.all fun q => (s.core q).idle && s.coreUp q

/-- Does a waiting unit need any of these cores? -/
def Wait.needs (w : Wait) (l : List Nat) : Bool := w.slots.any fun k => k.any l.contains

/-- Rank of a priority: freewheel ranks below 0. -/
def rankOf (prio : Nat) : Nat := if prio = 255 then 0 else prio + 1

/-- Order among units of equal priority: ends of slices last, of these the one that has waited longest, so that slices
go round (02 R48 (c)); then the launch created first. -/
def Wait.before (v w : Wait) : Bool :=
  if v.behind != w.behind then w.behind
  else if v.since != w.since then v.since < w.since
  else v.serial < w.serial || (v.serial == w.serial && v.u < w.u)

/-- Has every tile had the round of the cold reset, which sets its TLAST (07 R202 (a), R203)? -/
def State.trued (s : State) : Bool := (seqFrom 0 288).all fun q => !s.coreUp q || !(s.tile q).boot

/-- The slot that a waiting unit may take now (02 R37, R38); none before every tile has been trued. -/
def State.takes (s : State) (w : Wait) : Option (List Nat) :=
  if !s.trued then none else
  match w.slots.find? s.free with
  | none => none
  | some k =>
    let bars := fun (v : Wait) => v != w && v.needs k &&
      (rankOf w.prio < rankOf v.prio || (v.prio == w.prio && v.before w &&
        (match v.slots.find? s.free with | some j => j.any k.contains | none => false)))
    if s.waiters.any bars then none else some k

/-- Freewheel units stop at once when a unit of priority 0 to 7 becomes ready for a core of theirs (02 R38). -/
def State.freewheelStops (s : State) : State :=
  let ws := s.waiters.filter (·.prio != 255)
  (s.units.filter fun r => r.prio == 255 && r.st == .running && ws.any (·.needs r.members)).foldl
    (fun s r => s.stopUnit r.ctx r.lid r.u false) s

/-- What follows a change that a hub has made: launches become ready, and freewheel units give way (12 R333; 02 R38). -/
def State.react (s : State) : State := s.wake.freewheelStops

/-! ### The end of a unit (02 R31, R32; 12 R338) -/

/-- A core that its unit leaves: it is idle, and its registers stand. -/
def Core.leave (c : Core) : Core :=
  { c with unit := none, idle := true, halted := false, stopped := false, stopReq := false, hold := 0, holdAt := false,
           gate := [], pend := [], late := [], rest := [], inIssue := {}, taken := none, loopPush := none,
           pendFault := none, needCk := false, replay := false }

/-- Give up a unit's cores. -/
def State.leaveCores (s : State) (l : List Nat) : State := l.foldl (fun s q => s.updCore q Core.leave) s

/-- What the members' stream write ports still hold is written before the cores are offered (10 R280; 19 R448 (a)). -/
def State.drainMembers (s : State) (r : UnitRec) : State := r.members.foldl (fun s m => s.drainStreams m) s

/-- A unit ends: its cores are free, its record too, its launch counts it, or does not where a cancel of the
launch stopped it (02 R34 (c)). -/
def State.endUnit (s : State) (r : UnitRec) (counted : Bool) : State :=
  let s := (s.drainMembers r).leaveCores r.members
  let s := match r.st with
    | .saved i => s.freeRecord r.ctx i
    | .stopping i => s.freeRecord r.ctx i
    | _ => s
  let s := s.dropUnit r.ctx r.lid r.u
  let s := match s.launchOf r.ctx r.lid with
    | none => s
    | some y => s.setLaunch r.ctx { y with gone := y.gone ++ [r.u], count := if counted then y.count + 1 else y.count }
  ((s.settleLaunch r.ctx r.lid).tryFree r.ctx).react

/-- A unit that is lost while the hub copies for it: a record of SEV 6, and it counts as cancelled (18 R474). -/
def State.loseUnit (s : State) (r : UnitRec) (e : Rec) : State := (s.log { e with sev := 6 }).endUnit r true

/-! ### Copies of the die hub (12 R336; 18 R474) -/

/-- The die hub translates in the unit's context, in supervisor mode. -/
def hubWho (c q : Nat) : Who := { p := q, ctx := c, sv := true, eng := true }

/-- Where a save record lies: in G-space, or in a reserve area. -/
inductive Place where
  | g (base : Word)
  | pa (base : Nat)
  deriving DecidableEq, Repr

/-- The record of a failed copy for core `q`. -/
def State.hubRec (s : State) (q : Nat) (r : Rec) : Rec := { s.recFor q r with block := 576 + q / 36, core := q }

/-- The record of an access fault. -/
def State.hubAcc (s : State) (c q : Nat) (f : XFault) (wr : Bool) : Rec :=
  s.hubRec q { kind := f.kind, va := f.va, pa := f.pa, detail := f.detail (hubWho c q) wr 0 }

/-- Virtual address of a byte of a G-space place. -/
def gPlace (base : Word) (off n : Nat) : Except XFault Nat :=
  match pannierVa base with
  | none => .error { cause := 5, va := base.toNat }
  | some va => if va + off + n ≤ 2 ^ 56 then .ok (va + off) else .error { cause := 5, va := va + off }

/-- The die hub reads bytes. -/
def State.hubGet (s : State) (c q : Nat) (b : Place) (off n : Nat) : State × Except Rec Got :=
  if n = 0 then (s, .ok {}) else
  match b with
  | .pa a => let (s, d, k, f) := s.readStore (a + off) n; (s.logAll (s.recFor q {}) f, .ok { data := d, cls := k, finds := f })
  | .g w =>
    match gPlace w off n with
    | .error f => (s, .error (s.hubAcc c q f false))
    | .ok va =>
      let (s, g) := s.loadG (hubWho c q) va n false
      match g with
      | .error f => (s, .error (s.hubAcc c q f false))
      | .ok g => (s.logAll (s.recFor q { va := va }) g.finds, .ok g)

/-- Does a copy of a die hub name host memory while a route is not yet in force (13 R349)? -/
def State.hubKept (s : State) (c q : Nat) (b : Place) (off n : Nat) : Bool :=
  match b with
  | .pa _ => false
  | .g w => match gPlace w off n with | .error _ => false | .ok va => n != 0 && s.routeKeeps (hubWho c q) va n

/-- The die hub writes bytes with their classes. -/
def State.hubPut (s : State) (c q : Nat) (b : Place) (off : Nat) (d : List Byte) (cls : List Nat) : State × Option Rec :=
  match b with
  | .pa a => (s.writeLogged (s.recFor q {}) (a + off) d cls none, none)
  | .g w =>
    match gPlace w off d.length with
    | .error f => (s, some (s.hubAcc c q f true))
    | .ok va =>
      let (s, r) := s.putG (hubWho c q) va d cls
      match r with
      | .error f => (s, some (s.hubAcc c q f true))
      | .ok _ => (s, none)

/-- The die hub reads bytes for a store without poison marks: a damaged one fails the copy. `own`: they are of a save
record or its pannier, a hub's own state (18 R434). -/
def State.hubClean (s : State) (c q : Nat) (b : Place) (off n : Nat) (own : Bool := false) : State × Except Rec (List Byte) :=
  let (s, g) := s.hubGet c q b off n
  match g with
  | .error e => (s, .error e)
  | .ok g =>
    let s := if own then s.hubLost (s.recFor q {}) g.finds else s
    match g.finds.find? (fun f => f.worst != 0) with
    | some f => (s, .error (s.hubRec q (s.findRec {} f)))
    | none => (s, .ok g.data)

/-- Cores whose images a failed copy has left mixed: the next unit there copies everything afresh. -/
def State.spoil (s : State) (l : List Nat) : State :=
  l.foldl (fun s q => (s.updCore q fun c => { c with lastUnit := some (16, 2 ^ 64) }).updTile q fun t => { t with image := none }) s

/-- Do a list of steps until one fails. -/
def State.steps {α : Type} (s : State) (l : List α) (f : State → α → State × Option Rec) : State × Option Rec :=
  l.foldl (fun (r : State × Option Rec) x => match r.2 with | some _ => r | none => f r.1 x) (s, none)

/-- Write words on a path; nothing of an earlier copy stays usable there. -/
def State.putPath (s : State) (st : Nat) (d : List Byte) : State :=
  let s := { s with stale := s.stale.filter fun x => !(st ≤ x.key && x.key < st + d.length) }
  s.writeLogged s.baseRec st d [] none

/-- Bytes up to the next 64-byte boundary. -/
def up64 (n : Nat) : Nat := (n + 63) / 64 * 64

/-- Steps 1 and 2 of 12 R336 for core `q`; at a resume both banks receive the bank image (R343). The copy
ends at the image's length: table entries, resident and bank words past it keep what they held (DEDUCED,
log 114). -/
def State.kernelCopies (s : State) (c q : Nat) (y : Launch) (resume : Bool) : State × Option Rec :=
  let me := some (c, y.serial)
  let fresh := (s.core q).lastUnit != me
  let tile := (s.tile q).image != me
  let o1 := 64 + up64 y.reslen
  let o2 := o1 + up64 y.banklen
  let o3 := o2 + up64 y.hcwlen
  let bank := if resume then [ispAddr q 0x4000, ispAddr q 0x8000] else [ispAddr q 0x4000]
  let l : List (Bool × Nat × Nat × List Nat) := [(fresh, 64, y.reslen, [ispAddr q 0]), (fresh || resume, o1, y.banklen, bank),
    (fresh, o2, y.hcwlen, [hcwAddr q 0]), (tile, o3, y.tilelen, [microAddr q 0])]
  let (s, e) := s.steps (l.filter (·.1)) fun s x =>
    let (s, g) := s.hubClean c q (.g y.kimg) x.2.1 x.2.2.1
    match g with
    | .error e => (s, some e)
    | .ok d => (x.2.2.2.foldl (fun s a => s.putPath a d) s, none)
  (if e.isNone then s.updTile q fun t => { t with image := me } else s, e)

/-- Steps 3 and 4 of 12 R336: the vault of a core whose previous unit belonged to another context is zeroed; its
region table always is. -/
def State.cleanVault (s : State) (c q : Nat) : State :=
  let s := match (s.core q).lastUnit with
    | some (k, _) => if k = c then s else s.wipe (vaultAddr q 0) 0x800000
    | none => s
  (s.wipe (vaultAddr q regionTable) 256).updCore q fun k => { k with fills := [] }

/-- The state of a core at unit start (12 R337). -/
def startCore (q : Nat) (c : Nat) (y : Launch) (u : Nat) (old : Core) : Core :=
  { Core.resetOf q with
    s := (y.args.zip (seqFrom 1 7)).foldl (fun m x => SMap.put m 0 x.2 x.1) [],
    a := (y.aregs.zip (seqFrom 0 4)).foldl (fun m x => SMap.put m 0 x.2 x.1) [],
    pc := target (y.entry.getLsbD 12) (y.entry.setWidth 12), svec := y.svec, idle := false, unit := some (c, y.lid, u),
    lastUnit := some (c, y.serial), nid := old.nid }

/-- The tile at unit start (07 R195). -/
def Tile.start (t : Tile) (live : BitVec 4) : Tile :=
  Tile.capture { t with acc := [], shadow := none, modes := [], sat := false, live := live, queue := [], busyOp := none, fetched := [],
                        fin := false, run := none }

/-- The capture with which a unit starts or resumes (log entry 28). -/
def State.captureNow (s : State) (q : Nat) : State :=
  let s := s.updCore q fun c => { c with shadow := some c.capture, ckWord := c.pc, ckVc := c.vc }
  { s with ctl := { s.ctl with hcuts := s.ctl.hcuts.filter fun e => e.1 != q } }

/-- The slice that a unit of priority 0 to 7 is given, and the overrun that its context still owes (12 R340; 02
R54). -/
def State.slice (s : State) (c : Nat) (prio : Nat) : State × Nat :=
  match s.ctx c with
  | none => (s, 0)
  | some x =>
    if prio = 255 then (s, 0) else
    let k := min x.owed (1000 * x.slice)
    (s.setCtx c { x with owed := x.owed - k }, s.gtc.toNat + 1000 * x.slice - k)

/-- Is a unit sampled at its start (16 R407)? -/
def State.samples (s : State) (c : Nat) (y : Launch) (u : Nat) : Bool :=
  let k := s.err.audk.toNat
  s.err.auden && y.mode != 2 && y.prio != 255 &&
    (mix s.err.audkey ((BitVec.ofNat 64 c <<< 56) ||| (BitVec.ofNat 64 y.lid <<< 32) ||| BitVec.ofNat 64 u) 0).toNat % 2 ^ k == 0

/-- Members with the index of their inputs: a tandem secondary has its primary's (02 R50 (b)). -/
def memberIdx (mode size : Nat) (l : List Nat) : List (Nat × Nat) :=
  l.zip ((seqFrom 0 l.length).map fun i => if mode = 2 then i % size else i)

/-- Step 5 of 12 R336: the inputs of member `q`. -/
def State.inputs (s : State) (c : Nat) (y : Launch) (u : Nat) (q m : Nat) : State × Option Rec :=
  let base := y.vin + BitVec.ofNat 64 u * y.vstride + BitVec.ofNat 64 (m * y.vlen)
  let (s, g) := s.hubGet c q (.g base) 0 y.vlen
  match g with
  | .error e => (s, some e)
  | .ok g =>
    if y.vlen = 0 then (s, none) else
    let (s, f) := s.writeStore (vaultAddr q y.voff) g.data g.cls none
    ((s.logAll (s.recFor q {}) f).auditIn q g.data, none)

/-- A unit's invariant loads refer to memory as it is now (11 R313). -/
def State.remember (s : State) (c lid u : Nat) : State :=
  match s.findUnit c lid u with
  | none => s
  | some r =>
    let s := s.setUnit { r with mem0 := s.mem, home := r.members }
    if s.units.length = 1 then { s with past := s.mem } else s

/-- A unit takes the cores `l` to start there (12 R335); one of size 1 named LOCK is SOLO (02 R28). -/
def State.placeUnit (s : State) (c : Nat) (y : Launch) (u : Nat) (l : List Nat) : State :=
  let (s, t) := s.slice c y.prio
  let samp := s.samples c y u
  let r : UnitRec :=
    { ctx := c, lid := y.lid, u := u, mode := if y.mode = 1 ∧ y.size = 1 then 0 else y.mode, size := y.size, prio := y.prio, members := l,
      slot := u % s.eOf y, tend := t, sampled := samp }
  let s := { s with units := s.units ++ [r],
                    err := if samp then { s.err with samp := satInc s.err.samp } else s.err,
                    vwrites := s.vwrites.filter fun q => !l.contains q }
  let s := s.setLaunch c { y with status := 1, started := y.started + 1 }
  l.foldl (fun s q => s.updCore q fun k => { k with unit := some (c, y.lid, u), idle := false }) s

/-- Steps 1 to 5 of 12 R336 for every member of a placed unit. -/
def State.copyIn (s : State) (c : Nat) (y : Launch) (u : Nat) (l : List Nat) : State × Option Rec :=
  s.steps (memberIdx y.mode y.size l) fun s x =>
    let (s, e) := s.kernelCopies c x.1 y false
    match e with
    | some e => (s, some e)
    | none => (s.cleanVault c x.1).inputs c y u x.1 x.2

/-- UNIT_START on the cores `l` (12 R336, R337). -/
def State.startUnit (s : State) (c : Nat) (y : Launch) (u : Nat) (l : List Nat) : State :=
  let (s, e) := (s.placeUnit c y u l).copyIn c y u l
  match e with
  | some e => match s.findUnit c y.lid u with | some r => (s.loseUnit r e).spoil l | none => s.spoil l
  | none =>
    let s := l.foldl (fun s q =>
      ((s.updCore q (startCore q c y u)).updTile q (·.start y.live)).captureNow q) s
    (s.remember c y.lid u).freewheelStops

/-- Do copies of a unit's start name host memory while a route is not yet in force (13 R349)? -/
def State.startKept (s : State) (c u : Nat) (y : Launch) (l : List Nat) : Bool :=
  s.ctl.hnext.isSome && (memberIdx y.mode y.size l).any fun x =>
    s.hubKept c x.1 (.g y.kimg) 0 (64 + up64 y.reslen + up64 y.banklen + up64 y.hcwlen + y.tilelen) ||
    s.hubKept c x.1 (.g (y.vin + BitVec.ofNat 64 u * y.vstride + BitVec.ofNat 64 (x.2 * y.vlen))) 0 y.vlen

/-- UNIT_START: a unit that has not started takes the slot that is offered to it (12 R335 to R337). -/
def execUnitStart (c lid u : Nat) (s : State) : Host.Outcome State Fault Refusal :=
  .next (match s.launchOf c lid, s.waiters.find? (fun w => w.ctx == c && w.lid == lid && w.u == u) with
    | some y, some w =>
      (match s.findUnit c lid u, s.takes w with
       | none, some l => if s.startKept c u y l then s else s.startUnit c y u l
       | _, _ => s)
    | _, _ => s)

/-! ### Retirement (02 R31; 12 R338) -/

/-- Has core `q` nothing of its unit in flight: engines, tile, releases? -/
def State.quiet (s : State) (q : Nat) : Bool :=
  let c := s.core q
  let t := s.tile q
  c.eng0.isEmpty && c.eng1.isEmpty && c.eng3.isEmpty && c.released.isEmpty && t.busyOp.isNone && t.run.isNone &&
    t.queue.all fun o => match o.kind with | .capture => true | .restore => true | _ => false

/-- Has a unit signals in flight, from or to its members (10 R287)? -/
def State.signals (s : State) (r : UnitRec) : Bool :=
  s.sigs.any fun g => r.members.contains g.sender || r.members.contains g.target

/-- A sampled unit that has retired waits for its replay; any other gives back what the log held of it (16 R407,
R408). -/
def State.keepAudit (s : State) (r : UnitRec) : State :=
  let a : Audit := { ctx := r.ctx, lid := r.lid, u := r.u, size := slotSize r.mode r.size,
                     die := r.members.headD 0 / 36, sig := r.sig, logn := r.logn }
  if r.sampled && r.audited && !r.cancel then { s with audits := s.audits ++ [a] }
  else { s with err := { s.err with audused := s.err.audused - (if r.sampled && r.audited then r.logn else 0) } }

/-- UNIT_RETIRE: every member has halted, and every access and engine operation is done; a fault still to be
delivered stops the unit instead (17 R418 (d)). A sampled unit's audit waits for its replay. -/
def execUnitRetire (c lid u : Nat) (s : State) : Host.Outcome State Fault Refusal :=
  .next (match s.findUnit c lid u with
    | none => s
    | some r =>
      if r.members.isEmpty || !r.members.all (fun m => (s.core m).halted) then s else
      match r.members.findSome? (fun m => ((s.core m).late.head?).map fun x => (m, x)) with
      | some (m, x) => (s.updCore m fun k => { k with late := [] }).fatalStop m x.what
      | none =>
        if r.members.all (fun m => (s.core m).pend.isEmpty && s.quiet m) && !s.signals r then
          let t := s.drainMembers r
          let r := (t.findUnit c lid u).getD r
          match r.members.findSome? (fun m => ((t.core m).late.head?).map fun x => (m, x)) with
          | some (m, x) => (t.updCore m fun k => { k with late := [] }).fatalStop m x.what
          | none => (t.keepAudit r).endUnit r true
        else s)

/-! ### Slices (02 R54; 12 R340) -/

/-- SLICE_CHECK: from the drain lead before the end of its slice on, a unit yields to a waiting unit of equal or
higher priority of another launch if a save record is free; else its slice is renewed. -/
def execSliceCheck (c lid u : Nat) (s : State) : Host.Outcome State Fault Refusal :=
  .next (match s.findUnit c lid u, s.ctx c with
    | some r, some x =>
      if r.prio = 255 || r.st != .running || s.gtc.toNat + 1000 * x.drain < r.tend then s else
      let wanted := s.waiters.any fun w => rankOf r.prio ≤ rankOf w.prio && (w.ctx != c || w.lid != lid) && w.needs r.members
      if wanted && x.freeRec.isSome then
        (s.setUnit { r with sliced := true, since := s.tick }).stopUnit c lid u false
      else s.setUnit { r with tend := r.tend + 1000 * x.slice }
    | _, _ => s)

/-! ### Saving (02 R52, R55, R56; 09 R261; 12 R342) -/

/-- First byte of the evacuation reserve: the last 288 MiB of usable HBM (19 R450, R456). -/
def State.reserveBase (s : State) : Nat := 0x1000000000 * s.dataUnits - 0x12000000

/-- Where save record `i` of a context and its pannier lie (12 R324; 19 R450). -/
def State.recordAt (s : State) (x : Context) (i : Nat) : Place × Place :=
  if i < 4096 then (.g (x.save + BitVec.ofNat 64 (i * x.rsize)), .g (x.pannier + BitVec.ofNat 64 (0x204000 * i)))
  else
    let a := s.reserveBase + 0x800000 * (i - 4096)
    (.pa a, .pa (a + 0x5FC000))

/-- A word as CMDPTR holds it: W in [12], T in [11:0]. -/
def cmdptr (w : Word) : Nat := if w.toNat < 0x200 then 0x1000 + w.toNat else (w.toNat - 0x1000) % 0x1000
/-- The word of it. -/
def cmdWord (n : Nat) : Word := target (nbit n 12) (BitVec.ofNat 12 n)

/-- The accumulate modes of the banks. -/
def Tile.modeBytes (t : Tile) : List Byte := (seqFrom 0 4).map fun b => SMap.get t.modes 0 b

/-- Pad to a length with zeros. -/
def padTo (n : Nat) (l : List Byte) : List Byte := l ++ List.replicate (n - l.length) 0

/-- The irrevocable record of a member that stopped at the bundle it names (02 R55; 17 R420). -/
def Core.irrevBytes (c : Core) : List Byte :=
  if !c.atReplay then toBytes 32 0 else
  let bit := fun (code b : Nat) => if c.irrev.done.contains code then 2 ^ b else 0
  toBytes 8 (1 + bit 2 1 + bit 5 2 + bit 6 3 + bit 7 4) ++
    ([2, 6, 7] : List Nat).flatMap fun k => toBytes 8 (SMap.get c.irrev.vals 0 k).toNat

/-- The member record of core `q` (02 R55). -/
def State.memberBytes (s : State) (q : Nat) (ucnt : Word) : List Byte :=
  let c := s.core q
  let t := s.tile q
  let words := fun (n : Nat) (f : Nat → Word) => (seqFrom 0 n).flatMap fun i => toBytes 8 (f i).toNat
  toBytes 8 c.pc.toNat ++ toBytes 8 (if c.ispsel then 1 else 0) ++ toBytes 8 c.mpc.toNat ++ toBytes 8 c.fmt.toNat ++
  padTo 64 (c.loops.flatMap fun l => toBytes 4 l.start.toNat ++ toBytes 4 l.stop.toNat ++ toBytes 8 l.count.toNat) ++
  toBytes 8 ucnt.toNat ++ toBytes 24 c.loops.length ++
  words 32 (fun i => SMap.get c.s 0 i) ++ words 16 (fun i => SMap.get c.a 0 i) ++ words 8 c.gmp ++ words 8 c.gtl ++
  toBytes 8 c.p.toNat ++ c.irrevBytes ++ toBytes 24 0 ++ words 8 c.rndOf ++
  ((seqFrom 0 64).flatMap fun i => toBytes 2 (SMap.get c.k 0 i).toNat) ++
  ((seqFrom 0 8).flatMap fun i => (c.port i).bytes) ++
  padTo 64 (toBytes 4 ((if t.sat then 1 else 0) + 256 * t.live.toNat) ++ t.modeBytes) ++
  (match c.pendFault with | some b => padTo 64 b | none => toBytes 64 0) ++
  ((seqFrom 0 4096).flatMap fun i => toBytes 4 (SMap.get c.v 0 i).toNat) ++
  s.bytes (hcwAddr q 0) 0x4000 ++
  toBytes 16 c.regions.length ++
  padTo 64 (c.regions.flatMap fun r =>
    toBytes 4 ((if r.w then 0x1000 else 0) + r.t.toNat) ++ toBytes 4 r.addr ++ toBytes 1 r.tol ++ toBytes 7 r.ldepth) ++
  toBytes 176 0 ++ s.bytes (vaultAddr q regionTable) 256 ++ toBytes 2048 0

/-- The header of a save record (02 R55). -/
def State.headerBytes (s : State) (x : Context) (y : Launch) (r : UnitRec) (boundary : Bool) : List Byte :=
  let ms := r.members
  let idx := ms.zip (seqFrom 0 ms.length)
  let live := ms.filter fun m => !(s.core m).halted
  let lead := s.core (live.headD 0)
  let pvc := if r.mode = 0 then 0 else lead.stopVc
  let late := if r.prio = 255 then 0 else s.gtc.toNat - r.tend
  toBytes 8 r.ctx ++ [if boundary then 1 else 2, BitVec.ofNat 8 r.size, BitVec.ofNat 8 r.mode, BitVec.ofNat 8 r.prio] ++
  toBytes 4 (idx.foldl (fun n i => if (s.core i.1).halted then n + 2 ^ i.2 else n) 0) ++
  toBytes 8 (cmdptr lead.pc) ++ toBytes 8 r.lid ++ toBytes 8 r.u ++ toBytes 8 r.stopGtc.toNat ++ toBytes 4 x.drain ++
  toBytes 4 (min late 0xFFFFFFFF) ++ toBytes 8 pvc ++
  padTo 384 (ms.flatMap fun m =>
    ((seqFrom 1 7).flatMap fun i => toBytes 8 (SMap.get (s.core m).s 0 i).toNat) ++
    ((seqFrom 0 4).flatMap fun i => toBytes 8 (SMap.get (s.core m).a 0 i).toNat) ++ toBytes 8 r.ucnt.toNat) ++
  padTo 64 (ms.flatMap fun m => toBytes 4 y.woff ++ toBytes 4 y.wlen ++
    toBytes 8 (if r.mode = 0 then (s.core m).stopVc else pvc))

/-- First vault window of a record of `n` members (12 R324). -/
def windowAt (n : Nat) : Nat := (0x200 + 0x9000 * n + 4095) / 4096 * 4096

/-- Is the pre-emption a boundary one (12 R342 step 3; 17 R423)? -/
def State.atBoundary (s : State) (y : Launch) (r : UnitRec) : Bool :=
  let live := r.members.filter fun m => !(s.core m).halted
  !y.ispsave && !r.abandoned &&
  (live.all fun m => (s.core m).ckQp && (s.core m).pc == (s.core (live.headD 0)).pc && !(s.core m).ispsel &&
    (s.core m).loops.isEmpty) &&
  r.members.all fun m => (s.core m).pendFault.isNone && !s.offline (m / 36)

/-- Write back and unfill every mapped region of a member (09 R261). -/
def State.flushRegions (s : State) (c q : Nat) : State × Option Rec :=
  let (s, e) := s.steps (seqFrom 0 8) fun s i =>
    let d := s.rdesc q i
    if d.len = 0 || !d.wb then (s, none) else
    let (s, f) := s.writeBack q d (s.dirtyLines q d)
    (s, f.map fun f => s.hubAcc c q f.1 true)
  (s.updCore q fun k => { k with fills := [] }, e)

/-- Put what stores hold into an image, by offset, store address and length: as they read, with the classes of damaged
bytes (18 R430, R474). -/
def State.spliced (s : State) (q : Nat) (b : List Byte) (l : List (Nat × Nat × Nat)) : State × List Byte × List Nat :=
  l.foldl (fun r x =>
    let (s, d, k, fs) := r.1.readStore x.2.1 x.2.2
    let put := fun {α : Type} (o d : List α) => o.take x.1 ++ d ++ o.drop (x.1 + x.2.2)
    let cls := if k.all (· == 0) then r.2.2 else put (if r.2.2.isEmpty then List.replicate b.length 0 else r.2.2) k
    (s.logAll (s.recFor q {}) fs, put r.2.1 d, cls)) (s, b, [])

/-- The parts of a forced save that belong to member `q` with index `m` of `n`. Of the pannier it writes the
header's 64 bytes and the banks, as 02 R56's sentence on forced saves names them: the padding from byte 64
to 0xFFF keeps what it held (DEDUCED, log 115). -/
def State.saveMember (s : State) (y : Launch) (r : UnitRec) (at_ : Place × Place) (q m n : Nat) : State × Option Rec :=
  let c := r.ctx
  let w := windowAt n
  let (s, b, cls) := s.spliced q (s.memberBytes q r.ucnt) [(0x4600, hcwAddr q 0, 0x4000), (0x8700, vaultAddr q regionTable, 256)]
  let (s, e) := s.hubPut c q at_.1 (0x200 + 0x9000 * m) b cls
  match e with
  | some e => (s, some e)
  | none =>
    let (s, d, k, fs) := s.readStore (vaultAddr q y.woff) y.wlen
    let s := s.logAll (s.recFor q {}) fs
    let (s, e) := s.hubPut c q at_.1 (w + y.wlen * m) d k
    match e with
    | some e => (s, some e)
    | none =>
      let (s, i, ic) := if y.ispsave then s.spliced q (toBytes 0x8800 0) [(0, ispAddr q 0, 0x800), (0x800, ispAddr q 0x4000, 0x8000)]
        else (s, [], [])
      let (s, e) := if y.ispsave then s.hubPut c q at_.1 (w + y.wlen * n + 0x8800 * m) i ic else (s, none)
      match e with
      | some e => (s, some e)
      | none =>
        if y.live = 0 then (s, none) else
        let t := s.tile q
        let head := padTo 64 (toBytes 2 (y.live.toNat + 256 * (if t.sat then 1 else 0)))
        let banks := (seqFrom 0 4).filter y.live.getLsbD
        let parts : List (Nat × List Byte) := (0, head) :: banks.flatMap fun b => (seqFrom 0 128).map fun i =>
          (pannierRow b i, (seqFrom 0 128).flatMap fun j => entryImage (t.entry b i j))
        s.steps parts fun s x => s.hubPut c q at_.2 (0x81000 * m + x.1) x.2 []

/-- Accesses that a stop left in flight perform before the save (17 R419, R420). -/
def State.finishAccesses (s : State) (q : Nat) : State :=
  let s := (seqFrom 0 (s.core q).pend.length).foldl (fun s i =>
    match (s.core q).pend[i]? with
    | some x => if x.arrived || x.late then s else (let (s, y) := s.performVault q x []; s.updCore q (·.setPend i y))
    | none => s) s
  s.updCore q fun c => { c with pend := [] }

/-- May a stopping unit be saved: every member stands, and its engine operations are complete (02 R51)? -/
def State.maySave (s : State) (r : UnitRec) : Bool :=
  !r.members.isEmpty && r.members.all fun m =>
    let c := s.core m
    (c.halted || c.stopped) && s.quiet m && !(c.pend.any (·.waits)) && !s.signals r

/-- Does a member stop at a checkpoint bundle whose hold it abandoned after some of its irrevocable operations had
performed? The save counts it as completed, since a resume takes its record for one (17 R420). -/
def Core.partDone (c : Core) : Bool := c.atReplay && !c.irrev.whole

/-- What a save writes: for a forced one the mapped regions, then the header, then for a forced one the members' parts
(12 R342; 02 R55, R56). -/
def State.saveParts (s : State) (x : Context) (y : Launch) (r : UnitRec) (at_ : Place × Place) (b : Bool) : State × Option Rec :=
  let n := r.members.length
  let (s, e) := if b then (s, none) else s.steps r.members fun s m => s.flushRegions r.ctx m
  let (s, e) := match e with
    | some e => (s, some e)
    | none => s.hubPut r.ctx (r.members.headD 0) at_.1 0 (s.headerBytes x y r b) []
  match e with
  | some e => (s, some e)
  | none => if b then (s, none) else s.steps (r.members.zip (seqFrom 0 n)) fun s m => s.saveMember y r at_ m.1 m.2 n

/-- UNIT_SAVE (12 R342): boundary or forced; a unit to be cancelled is not saved (02 R34 (b)). -/
def State.saveUnit (s : State) (r : UnitRec) (i : Nat) : State :=
  match s.ctx r.ctx, s.launchOf r.ctx r.lid with
  | some x, some y =>
    let s := r.members.foldl (fun s m => ((s.finishAccesses m).drainStreams m).settleLate m) s
    let r := { (s.findUnit r.ctx r.lid r.u).getD r with ucnt := r.ucnt + (if (s.core (r.members.headD 0)).partDone then 1 else 0) }
    let b := s.atBoundary y r
    let (s, e) := s.saveParts x y r (s.recordAt x i) b
    match e with
    | some e => s.loseUnit r e
    | none =>
      let late := if r.prio = 255 then 0 else s.gtc.toNat - r.tend
      let s := s.leaveCores r.members
      let s := s.setUnit { (s.findUnit r.ctx r.lid r.u).getD r with ucnt := r.ucnt, st := .saved i, members := [], boundary := b }
      (s.updCtx r.ctx fun x => { x with owed := x.owed + late }).freewheelStops
  | _, _ => s

/-- Do writes of a unit's save name host memory while a route is not yet in force (13 R349)? -/
def State.saveKept (s : State) (r : UnitRec) (i : Nat) : Bool :=
  s.ctl.hnext.isSome && (match s.ctx r.ctx, s.launchOf r.ctx r.lid with
    | some x, some y =>
      let n := r.members.length
      let q := r.members.headD 0
      s.hubKept r.ctx q (s.recordAt x i).1 0 (windowAt n + (y.wlen + 0x8800) * n) ||
      s.hubKept r.ctx q (s.recordAt x i).2 0 (0x81000 * n) ||
      r.members.any fun m => (s.core m).fills.any fun e => e.2 == 3 && s.fillHost m e.1
    | _, _ => false)

/-- UNIT_SAVE. -/
def execUnitSave (c lid u : Nat) (s : State) : Host.Outcome State Fault Refusal :=
  .next (match s.findUnit c lid u with
    | none => s
    | some r =>
      match r.st with
      | .stopping i =>
        if !s.maySave r || r.members.all (fun m => (s.core m).halted) then s
        else if r.cancel then
          let s := r.members.foldl State.finishAccesses s
          let gone := match s.launchOf c lid with | some y => y.status == 4 | none => true
          let used := if r.sampled && r.audited then r.logn else 0
          { s with err := { s.err with audused := s.err.audused - used } }.endUnit r !gone
        else if s.saveKept r i then s
        else s.saveUnit r i
      | _ => s)

/-! ### Resuming (12 R343) -/

/-- A core from its member record; `old` is the core as 12 R337 starts it: EVMASK, EVGTC and STAT.SNAPEN, which the record
does not hold, keep the values of a unit's start (DESIGN CHOICE, log entry 128). -/
def restoreCore (b : List Byte) (old : Core) : Core :=
  let f := fieldOf b
  let w := fun (o : Nat) => (BitVec.ofNat 64 (f o 8) : Word)
  let map64 := fun (o n : Nat) => (seqFrom 0 n).foldl (fun m i => SMap.put m 0 i (w (o + 8 * i))) ([] : SMap Word)
  let v := f 0x288 1
  let done := (([(1, 2), (2, 5), (3, 6), (4, 7)] : List (Nat × Nat)).filter fun x => nbit v x.1).map (·.2)
  let vals := (([(2, 0x290), (6, 0x298), (7, 0x2A0)] : List (Nat × Nat)).foldl (fun m x => SMap.put m 0 x.1 (w x.2)) ([] : SMap Word))
  let port := fun (i : Nat) => let p := (b.drop (0x380 + 64 * i)).take 64; if nbit (fieldOf p 56 1) 0 then portOf p else {}
  { old with
    pc := w 0, ispsel := nbit (f 8 1) 0, mpc := w 0x10, fmt := w 0x18 &&& 0x7F,
    loops := (seqFrom 0 (min 4 (f 0x68 1))).map fun i =>
      { start := BitVec.ofNat 64 (f (0x20 + 16 * i) 4), stop := BitVec.ofNat 64 (f (0x24 + 16 * i) 4), count := w (0x28 + 16 * i) },
    s := SMap.put (map64 0x80 32) 0 0 0, a := map64 0x180 16, mp := map64 0x200 8, tl := map64 0x240 8,
    n0 := f 0x240 8, n1 := f 0x248 8, ni := f 0x250 8, n3 := f 0x258 8,
    p := BitVec.ofNat 8 (f 0x280 1),
    irrev := if nbit v 0 then { valid := true, word := w 0, done := done, vals := vals } else {},
    replay := nbit v 0,
    rnd := map64 0x2C0 8,
    k := (seqFrom 0 64).foldl (fun m i => SMap.put m 0 i (BitVec.ofNat 16 (f (0x300 + 2 * i) 2))) [],
    ports := (seqFrom 0 8).foldl (fun m i => SMap.put m {} i (port i)) [],
    pendFault := if f 0x5C0 8 = 0 then none else some ((b.drop 0x5C0).take 64),
    v := (seqFrom 0 4096).foldl (fun m i => SMap.put m 0 i (BitVec.ofNat 32 (f (0x600 + 4 * i) 4))) [],
    regions := (seqFrom 0 (min 4 (f 0x8600 1))).map fun i =>
      let o := 0x8610 + 16 * i
      { w := nbit (f o 2) 12, t := BitVec.ofNat 12 (f o 2), addr := f (o + 4) 4, tol := f (o + 8) 1, ldepth := f (o + 9) 1 } }

/-- The parts of a forced save come back to member `q` with index `m` of `n`. -/
def State.resumeMember (s : State) (y : Launch) (c : Nat) (at_ : Place × Place) (h : List Byte) (q m n : Nat) : State × Option Rec :=
  let w := windowAt n
  let woff := fieldOf h (448 + 16 * m) 4
  let wlen := fieldOf h (452 + 16 * m) 4
  let (s, b) := s.hubClean c q at_.1 (0x200 + 0x9000 * m) 0x8700 true
  let (s, t) := s.hubGet c q at_.1 (0x8900 + 0x9000 * m) 256
  match b, t with
  | .error e, _ => (s, some e)
  | _, .error e => (s, some e)
  | .ok b, .ok t =>
    let s := s.updCore q (restoreCore b)
    let s := s.putPath (hcwAddr q 0) ((b.drop 0x4600).take 0x4000)
    let s := s.updTile q fun t => { t with sat := nbit (fieldOf b 0x580 1) 0, modes := (seqFrom 0 4).foldl (fun k i =>
      SMap.put k 0 i (BitVec.ofNat 8 (fieldOf b (0x584 + i) 1) &&& 0xF3)) [] }
    let (s, g) := s.hubGet c q at_.1 (w + wlen * m) wlen
    match g with
    | .error e => (s, some e)
    | .ok g =>
      let (s, fs) := s.writeStore (vaultAddr q woff) g.data g.cls none
      let s := (s.logAll (s.recFor q {}) fs).writeLogged (s.recFor q {}) (vaultAddr q regionTable) t.data t.cls none
      let (s, e) := if !y.ispsave then (s, none) else
        let (s, i) := s.hubClean c q at_.1 (w + wlen * n + 0x8800 * m) 0x8800 true
        match i with
        | .error e => (s, some e)
        | .ok i => ((s.putPath (ispAddr q 0) (i.take 0x800)).putPath (ispAddr q 0x4000) (i.drop 0x800), none)
      match e with
      | some e => (s, some e)
      | none =>
        s.steps ((seqFrom 0 4).filter y.live.getLsbD) fun s k =>
          let (s, d) := s.hubClean c q at_.2 (0x81000 * m + pannierRow k 0) 0x20000 true
          match d with
          | .error e => (s, some e)
          | .ok d => (s.updTile q fun t => (seqFrom 0 16384).foldl (fun t j =>
              t.setEntry k (j / 128) (j % 128) (imageEntry ((d.drop (8 * j)).take 8))) t, none)

/-- A boundary save's scalars come back to member `m` (12 R343). -/
def restoreScalars (h : List Byte) (m : Nat) (c : Core) : Core :=
  let w := fun (o : Nat) => (BitVec.ofNat 64 (fieldOf h (64 + 96 * m + o) 8) : Word)
  { c with s := (seqFrom 0 7).foldl (fun k i => SMap.put k 0 (i + 1) (w (8 * i))) [],
           a := (seqFrom 0 4).foldl (fun k i => SMap.put k 0 i (w (56 + 8 * i))) [], pc := cmdWord (fieldOf h 16 8) }

/-- A pending fault is delivered at the resume, before the stop point issues; of several the first is (17 R423). -/
def State.resumeFaults (s : State) (l : List Nat) : State :=
  l.foldl (fun s m =>
    match (s.core m).pendFault with
    | none => s
    | some bs =>
      let js := s.together m
      let s := js.foldl (fun s j => s.updCore j fun c => { c with pendFault := none }) s
      js.foldl (fun s j => s.updCore j (·.errorTrap bs)) s) s

/-- A saved unit takes the cores `l` to resume there. -/
def State.placeBack (s : State) (y : Launch) (r : UnitRec) (i : Nat) (l : List Nat) : State :=
  let s := (s.slice r.ctx r.prio).1
  let s := l.foldl (fun s q => s.updCore q fun k => { k with unit := some (r.ctx, y.lid, r.u), idle := false }) s
  { s.setUnit { r with members := l, st := .saved i } with vwrites := s.vwrites.filter fun q => !l.contains q }

/-- What comes back to the members of a unit placed again, from header `h` of its record at `at_` (12 R343). -/
def State.copyBack (s : State) (y : Launch) (r : UnitRec) (at_ : Place × Place) (h : List Byte) (l : List Nat) : State × Option Rec :=
  let c := r.ctx
  let n := l.length
  s.steps (l.zip (seqFrom 0 n)) fun s x =>
    let (s, e) := s.kernelCopies c x.1 y true
    match e with
    | some e => (s, some e)
    | none =>
      let s := ((s.cleanVault c x.1).updCore x.1 (startCore x.1 c y r.u)).updTile x.1 (·.start y.live)
      if r.boundary then (s.updCore x.1 (restoreScalars h x.2), none)
      else s.resumeMember y c at_ h x.1 x.2 n

/-- RESUME on the cores `l`. -/
def State.resumeUnit (s : State) (y : Launch) (r : UnitRec) (i : Nat) (l : List Nat) : State :=
  match s.ctx r.ctx with
  | none => s
  | some x =>
    let c := r.ctx
    let at_ := s.recordAt x i
    let t := (s.slice c r.prio).2
    let r' := { r with members := l, st := .saved i }
    let (s, h) := (s.placeBack y r i l).hubClean c (l.headD 0) at_.1 0 512 true
    match h with
    | .error e => (s.loseUnit r' e).spoil l
    | .ok h =>
      let (s, e) := s.copyBack y r at_ h l
      match e with
      | some e => (s.loseUnit r' e).spoil l
      | none =>
        let s := (l.zip (seqFrom 0 l.length)).foldl (fun s x =>
          (s.updCore x.1 fun k => { k with
            svec := y.svec, halted := nbit (fieldOf h 12 1) x.2,
            vc := if r.mode = 0 then fieldOf h (456 + 16 * x.2) 8 else fieldOf h 56 8 }).captureNow x.1) s
        let s := l.foldl (fun s q => s.updTile q Tile.capture) s
        let s := s.freeRecord c i
        let s := s.setUnit { (s.findUnit c r.lid r.u).getD r' with
          members := l, st := .running, tend := t, ucnt := BitVec.ofNat 64 (fieldOf h (64 + 88) 8),
          sliced := false, since := 0, boundary := false, abandoned := false }
        (s.resumeFaults l).freewheelStops

/-- RESUME: a saved unit takes the slot that is offered to it (12 R335 (e), R343). -/
def execResume (c lid u : Nat) (s : State) : Host.Outcome State Fault Refusal :=
  .next (match s.launchOf c lid, s.findUnit c lid u, s.waiters.find? (fun w => w.ctx == c && w.lid == lid && w.u == u) with
    | some y, some r, some w =>
      (match r.st, s.takes w with
       | .saved i, some l =>
         if s.startKept c u { y with vlen := 0 } l || s.saveKept { r with members := l } i then s else s.resumeUnit y r i l
       | _, _ => s)
    | _, _, _ => s)

/-! ### Launches, answers, replays and jobs -/

/-- LAUNCH_READY (12 R333). -/
def execLaunchReady (c lid : Nat) (s : State) : Host.Outcome State Fault Refusal := .next (s.makeReady c lid).freewheelStops

/-- HUB_ANSWER: the device hub takes the i-th request in its queue; later ones of one issuer cannot overtake
it, since an issuer waits (12 R320). A wait abandoned by its issuer is forgotten. With
no request at i it frees contexts whose jobs have finished. -/
def execHubAnswer (i : Nat) (s : State) : Host.Outcome State Fault Refusal :=
  .next (match s.hubq[i]? with
    | none => ((seqFrom 0 16).foldl State.tryFree s).react
    | some r =>
      let c := s.core r.agent
      if r.op = 0x31 ∧ !(c.nid == r.id && c.hold == 8) then { s with hubq := s.hubq.take i ++ s.hubq.drop (i + 1) } else
      let (s, a) := s.hubDo r
      let s := match a with
        | .wait => s
        | .val v => s.landAnswer r v r.dest
        | .fault e =>
          let s := { s with hubq := s.hubq.filter fun q => !(q.agent == r.agent && q.id == r.id) }
          if c.nid = r.id ∧ c.hold ≠ 0 then s.deliver r.agent e false else s.log e
      ((seqFrom 0 16).foldl State.tryFree s).react)

/-- AUDIT_REPLAY: the replay of the i-th retired sampled unit ends with signature `sig`, an input, since the
replay runs on another die and is exact there unless that die errs (16 R408; log entry 18). -/
def execAuditReplay (i : Nat) (sig : Word) (s : State) : Host.Outcome State Fault Refusal :=
  .next (match s.audits[i]? with
    | none => s
    | some a =>
      let s := { s with audits := s.audits.take i ++ s.audits.drop (i + 1), err := { s.err with audused := s.err.audused - a.logn } }
      let dies := (seqFrom 1 8).map fun k => (a.die + k) % 8
      let die := (dies.find? fun d => (s.eligible (BitVec.ofNat 8 (2 ^ d)) a.size).any s.online).getD a.die
      if sig = a.sig then { s with err := { s.err with mtch := satInc s.err.mtch } }
      else
        let s := { s with err := { s.err with mism := satInc s.err.mism } }
        s.log { va := a.sig.toNat, pa := sig.toNat, launch := a.lid % 2 ^ 32, unit := a.u % 2 ^ 32, block := 576 + die, sev := 5, kind := 0x0B,
                ctxd := a.ctx, detail := die })

/-- The device hub reads physical HBM for a start; nothing where the range is not HBM (12 R322). -/
def State.readHbmRange (s : State) (a n : Nat) : State × Option (List Byte) :=
  if s.inHbm a && s.inHbm (a + n - 1) then
    (let (s, b, _, fs) := s.readStore a n
     ((s.logAll {} fs).hubLost {} fs, some b))
  else (s, none)

/-- A write to JSTART with GO = 1 by a party naming semaphore `sem` (12 R323; 19 R455). BUSY is 0 again when the
step ends. A header whose CODE or CTXD range does not lie in HBM abandons the start as an invalid one does: 12 R322 does
not list it (DESIGN CHOICE, log entry 129). -/
def State.jstart (s : State) (party sem : Nat) : State :=
  let rej := fun (s : State) => { s with ctl := { s.ctl with jrej := true } }
  if party = 0 || s.ctl.owner sem ≠ party || s.ctl.jbusy || !s.xmask.getLsbD 0 then rej s else
  match s.freeCtx with
  | none => rej s
  | some c =>
    let s := { s with ctl := { s.ctl with jrej := false } }
    let (s, h) := s.readHbmRange s.ctl.jimg.toNat 64
    match h with
    | none => rej s
    | some h =>
      if !jobHeaderOk h then rej s else
      let (s, d) := s.readHbmRange (fieldOf h 16 8) 64
      let (s, k) := s.readHbmRange (fieldOf h 0 8) (fieldOf h 8 4)
      match d, k with
      | some d, some k => s.startJob c (contextOf d none) k
      | _, _ => rej s

/-- JSTART (12 R321, R323). -/
def execJstart (party : BitVec 2) (v : Word) (s : State) : Host.Outcome State Fault Refusal :=
  .next (if v.getLsbD 7 then s.jstart party.toNat (nbits v.toNat 0 3) else s)

end Sys2Proof.Machine
end

