-- ==== Sys2Proof/Machine/Dies.lean ====
section
/-! DEFINITION. Machine steps of the memories, the dies and the links: HBM accesses of other parties, parity, lost
stacks, dies going offline, ports and links (09 R263 to R266; 13 R351 to R353; 16 R410; 18 R428, R432, R433, R472;
19 R449 to R452, R457, R458). -/

namespace Sys2Proof.Machine

open Sys2Proof

/-! ### HBM (09 R263 to R266; 18 R428, R472) -/

/-- Does a range lie in usable HBM? -/
def State.hbmRange (s : State) (pa n : Nat) : Bool := n == 0 || (s.inHbm pa && s.inHbm (pa + n - 1))

/-- HBM_WRITE: a data-stack controller merges a write and sends its deltas to the parity agents. -/
def execHbmWrite (pa : Nat) (data : List Byte) (lc : Option (BitVec 4)) (s : State) : Host.Outcome State Fault Refusal :=
  .next (if s.hbmRange pa data.length then s.writeLogged {} pa data [] (lc.map (·.toNat)) else s)

/-- HBM_READ: a sector is read by a party that does not consume it. -/
def execHbmRead (pa : Nat) (s : State) : Host.Outcome State Fault Refusal :=
  .next (if s.inHbm pa then (s.readLogged {} (pa / 64 * 64) 64).1 else s)

/-- PARITY_UPDATE: the agent of stack `k` applies its oldest journal entry (09 R263, R265). -/
def execParityUpdate (k : Nat) (s : State) : Host.Outcome State Fault Refusal :=
  .next (match SMap.get s.journal [] k with
    | [] => s
    | e :: r => { s.applyEntry e with journal := SMap.put s.journal [] k r })

/-- Host accesses over CXL.mem: HBM is read or written, each line an event of CXL; a host's own memory changes as the
host likes (13 R347, R362; 18 R428). The answer to a read is its bytes with their classes, while viral poison (16 R409). -/
def execHostMemAccess (wr : Bool) (pa : Nat) (data : List Byte) (s : State) : Host.Outcome State Fault Refusal :=
  .next (if inHost pa && inHost (pa + data.length) then (if wr then s.setBytes pa data else s)
    else if !s.hbmRange pa data.length then s
    else
    let s := s.tally 6 (linesOf (data.length / 64 + 2) pa data.length).length
    if wr then s.writeLogged { flags := flagHost } pa data [] none
    else
      let (s, b, c) := s.readLogged { flags := flagHost } pa data.length
      { s with ctl := { s.ctl with answer := b.zip (if s.err.viral then c.map fun _ => 4 else c) } })

/-- The released store that a loss of stack `k` tears, if its controller had accepted it (18 R433): Quiran may
have accepted it or not. -/
def State.tornAt (s : State) (k p i : Nat) (e : Gated) : Option Nat :=
  match e.form, e.cells with
  | .g, (a, _) :: _ =>
    let st := s.stripeOf a
    if s.inHbm a && s.dataStack a == k && !s.stackLost (s.parityStack st) && s.mayPerform p i && Config.choice (s.tick + 64 * p + i)
    then some (a / 64) else none
  | _, _ => none

/-- Tear the accepted stores of agent `p`: each performs at the marking, and its sector is torn (18 R433). -/
def State.tear (s : State) (k p : Nat) : State :=
  let l := (s.core p).released
  let hit := (seqFrom 0 l.length).filterMap fun i =>
    match l[i]? with
    | some e => (s.tornAt k p i e).map fun t => (i, t)
    | none => none
  let left : List Gated := (l.zip (seqFrom 0 l.length)).filterMap fun (e, i) =>
    if hit.any (fun h => h.1 == i) then none else some e
  let s := s.updCore p fun c => { c with released := left }
  hit.foldl (fun s h => { s with torn := if s.torn.contains h.2 then s.torn else s.torn ++ [h.2] }) s

/-- What a sector that is torn now shows: all of it is damaged, and its tag is that of its rebuilt image, which two lost
units of a stripe leave unknown (18 R431 to R433). -/
def State.tornFind (s : State) (t : Nat) : Find :=
  { data := [], cls := List.replicate 64 4, hit := List.replicate 64 4, torn := true, pa := 64 * t,
    tag := if 2 ≤ s.lostCount then 15 else (s.rebuild (64 * t)).2.2.1 }

/-- STACK_LOST: LOST bit k is set, sectors with a write whose delta was not logged are torn, and what the stack
held of parity is gone (18 R432 to R434). -/
def execStackLost (k : Nat) (s : State) : Host.Outcome State Fault Refusal :=
  .next (if 12 ≤ k || s.stackLost k || (s.err.act && s.err.exk.toNat == k) then s else
    let before := s.torn
    let s := (s.cores.map (·.1)).foldl (fun s p => s.tear k p) s
    let s := { s with err := { s.err with lost := s.err.lost ||| (1#12 <<< k) }, journal := SMap.put s.journal [] k [] }
    let new := (s.torn.filter fun t => !before.contains t).map s.tornFind
    (s.logAll {} new).log { kind := 8, sev := 5, block := 600 + k, detail := k * 2 ^ 36 })

/-! ### Dies going offline (19 R449 to R452) -/

/-- The record of a die's going offline. -/
def dieRec (d cause : Nat) (abrupt : Bool) (sev : Nat) : Rec :=
  { kind := 0x0C, sev := sev, block := 576 + d, detail := d + (if abrupt then 8 else 0) + 16 * cause }

/-- Set DIESTAT, and keep the cause for the accesses that meet the die (19 R458). -/
def State.markOff (s : State) (d cause : Nat) (abrupt : Bool) : State :=
  { s with err := { s.err with doff := s.err.doff ||| (1#8 <<< d), dcause := BitVec.ofNat 4 cause,
                               dcauses := SMap.put s.err.dcauses 0 d cause,
                               dabr := if abrupt then s.err.dabr ||| (1#8 <<< d) else s.err.dabr } }

/-- Units that hold cores of a die. -/
def State.unitsOn (s : State) (d : Nat) : List UnitRec := s.units.filter fun r => r.members.any (· / 36 == d)

/-- The record of a unit with its names. -/
def State.unitRec (_s : State) (r : UnitRec) (e : Rec) : Rec :=
  { e with launch := r.lid % 2 ^ 32, unit := r.u % 2 ^ 32, ctxd := r.ctx, core := r.members.headD 0x1FF }

/-- The phase that holds a unit's launch is cancelled. -/
def State.cancelPhaseOf (s : State) (r : UnitRec) : State :=
  match s.launchOf r.ctx r.lid with | none => s | some y => (s.cancelPhase r.ctx y.phase).react

/-- Reserve area of a unit, if it may take it (19 R450 step 4). -/
def State.areaFor (s : State) (d : Nat) (r : UnitRec) : Option Nat :=
  let p := r.members.headD 0 % 36
  match s.ctx r.ctx with
  | none => none
  | some x =>
    if !s.err.evused.getLsbD p && (s.err.evused == 0 || s.err.evdie.toNat == d) && x.rsize ≤ 0x5FC000 then some p else none

/-- Send the stop request of an orderly offline: into a free record, else into a reserve area, else the unit is
lost and its phase cancelled (19 R450). -/
def State.evacuate (s : State) (d cause : Nat) (r : UnitRec) : State :=
  match r.st with
  | .running =>
    if ((s.ctx r.ctx).bind (·.freeRec)).isSome then s.stopUnit r.ctx r.lid r.u false
    else
      match s.areaFor d r with
      | some p =>
        let s := { s with err := { s.err with evused := s.err.evused ||| (1#36 <<< p), evdie := BitVec.ofNat 3 d } }
        let s := s.setUnit { r with st := .stopping (4096 + p) }
        let s := r.members.foldl (fun s m => s.updCore m fun k => { k with stopReq := true }) s
        s.abandonHolds { r with st := .stopping (4096 + p) }
      | none =>
        let s := s.log (s.unitRec r (dieRec d cause false 6))
        (s.stopUnit r.ctx r.lid r.u true).cancelPhaseOf r
  | _ => s

/-- A core and its tile lose what they had in flight. -/
def State.dropFlight (s : State) (q : Nat) : State :=
  ((s.cancelTurns [q]).updCore q fun c => { c with eng0 := [], eng1 := [], eng3 := [], released := [], ports := [] }).updTile q fun t =>
    { t with queue := [], busyOp := none, run := none, fin := false, round := none, ballast := none }

/-- A unit on a die that is gone at once stops fatally, with no save, and its phase is cancelled (19 R451). -/
def State.killUnit (s : State) (d cause : Nat) (r : UnitRec) : State :=
  let s := s.log (s.unitRec r (dieRec d cause true 6))
  let s := r.members.foldl State.dropFlight s
  (s.endUnit r true).cancelPhaseOf r

/-- V-die `d` goes offline; one that is offline orderly still goes offline abruptly (19 R449 to R451, R459). -/
def State.dieOff (s : State) (d cause : Nat) (abrupt : Bool) : State :=
  if 8 ≤ d || (s.offline d && !(abrupt && !s.err.dabr.getLsbD d)) then s else
  let s := (s.markOff d cause abrupt).log (dieRec d cause abrupt 5)
  if abrupt then
    let s := (s.unitsOn d).foldl (fun s r => s.killUnit d cause r) s
    if s.vwrites.any (· / 36 == d) then s.goViral 0x0C (576 + d) else s
  else (s.unitsOn d).foldl (fun s r => s.evacuate d cause r) s

/-- DIE_OFFLINE_TIMEOUT: mesh links unanswered for 100 µs, or no temperature for 1 ms (19 R449). -/
def execDieOfflineTimeout (d : Nat) (mesh : Bool) (s : State) : Host.Outcome State Fault Refusal :=
  .next (if mesh then s.dieOff d 5 true else s.dieOff d 4 false)

/-- RAIL_FAULT (19 R449). -/
def execRailFault (d : Nat) (s : State) : Host.Outcome State Fault Refusal := .next (s.dieOff d 6 true)

/-! ### Ports, links and flits (13 R351, R352; 19 R457) -/

/-- PORT_STATE_CHANGE: training brings a port up or takes it down; STATE 3 is a trained port of a formed link. The ports
of a failed X1 are absent (19 R455). -/
def execPortStateChange (k : Nat) (st : BitVec 2) (s : State) : Host.Outcome State Fault Refusal :=
  .next (if 72 ≤ k || s.portAbsent k || (s.fab.port k).state == st || st == 3 then s else
    { s with fab := { s.fab with ports := SMap.upd s.fab.ports {} k fun w => { w with state := st } } }.eventTrigger 2)

/-- The receiver at the other end has acknowledged the oldest `n` flits (19 R457 (a)). -/
def Link.acked (l : Link) (n : Nat) : Link := { l with kept := l.kept.drop n }

/-- FLIT_RECEIVED: the next sequence number is delivered, an older one discarded; a gap or a bad flit makes the
receiver ask for a replay from the first missing number (19 R457 (b)). How many of the flits kept a good flit
acknowledges is free (log entry 74). -/
def execFlitReceived (link : Nat) (seq : BitVec 12) (bad : Bool) (s : State) : Host.Outcome State Fault Refusal :=
  .next (if 72 ≤ link || !(s.fab.link link).val then s else
    { s with fab := { s.fab with links := SMap.upd s.fab.links {} link fun l =>
        let l := if bad then l else l.acked (Config.pick s.tick % (l.kept.length + 1))
        if bad then { l with ask := some l.rx }
        else if seq = l.rx then { l with rx := l.rx + 1, got := l.got + 1, ask := none }
        else if (seq - l.rx).toNat < 2048 then { l with ask := some l.rx }
        else l } }.tally 5 1)

/-- DETAIL of KIND 0x0D (19 R458). -/
def linkDetail (port link peer cause : Nat) : Nat := port % 128 + link % 128 * 2 ^ 8 + peer % 512 * 2 ^ 15 + cause * 2 ^ 28

/-! ### Accesses in flight to a peer (16 R410; 19 R457) -/

/-- Do addresses lie in a peer of the wanted kind? -/
def reaches (f : Nat → Bool) (l : List Nat) : Bool := l.any fun a => inPeer a && f (peerOf a).1

/-- What an access in flight of agent `p` names: its virtual address, its addresses, and whether it writes. -/
def State.flightOf (s : State) (p : Nat) (x : Pending) : Nat × List Nat × Bool :=
  match x.src with
  | .load .g (y :: _) _ _ => (y.addr, s.rangeOf p x, false)
  | .atomic .g a _ _ => (a, s.rangeOf p x, true)
  | .mmio va _ => (va, match s.peek (s.slotWho p (s.core p).sv) va true true with | .ok t => [t.pa] | .error _ => [], true)
  | _ => (0, [], false)

/-- The slot accesses of agent `p` in flight to such peers fault: reads and atomics, and over a lost link a store to MMIO,
which has performed or not; one that is dropped leaves no trace (16 R410; 19 R457 (d); log entry 107). -/
def State.failFlights (s : State) (p : Nat) (f : Nat → Bool) (lost : Bool) : State :=
  (seqFrom 0 (s.core p).pend.length).foldl (fun s i =>
    match (s.core p).pend[i]? with
    | none => s
    | some x =>
      let (va, l, wr) := s.flightOf p x
      if !x.late || x.arrived || !reaches f l || s.secondary p then s else
      let s := match x.src with
        | .mmio _ d => if lost && Config.choice (s.tick + 20 + i) then s.writePa (l.headD 0) d [] none else s
        | _ => s
      let quiet := match x.src with | .mmio _ _ => !lost | _ => false
      let y := x.done (.word 0)
        (if quiet then {} else ((s.lostLink va (l.headD 0) 2).use (s.slotWho p (s.core p).sv) wr).damage)
      ((s.forget p x).updCore p (·.setPend i y)).twinPend p y) s

/-- The released stores of agent `p` in flight to such peers are gone; over a lost link each has performed once or has
not, and its issuer is faulted (19 R457 (d)). -/
def State.dropStores (s : State) (p : Nat) (f : Nat → Bool) (lost : Bool) : State :=
  let l := (s.core p).released
  let mine := fun (e : Gated) => reaches f (e.locs p)
  let s := s.updCore p fun c => { c with released := l.filter fun e => !mine e }
  if !lost then s else
  ((l.filter mine).zip (seqFrom 0 l.length)).foldl (fun s e =>
    let a := (e.1.locs p).headD 0
    let s := if Config.choice (s.tick + 40 + e.2) then s.performStore p e.1 else s
    let u := (s.lostLink a a 2).use (s.slotWho p e.1.sv) true
    s.report p (s.useRec p { u with slot := e.1.ord, enc := e.1.enc.toNat })) s

/-- The requests of agent `p`'s copies in flight to such peers: over a lost link each has performed or has not, and its
copy faults (19 R457 (d)); dropped, a request that reads faults, and one that writes leaves no trace (log entry 107). -/
def State.dropRequests (s : State) (p e : Nat) (f : Nat → Bool) (lost : Bool) : State :=
  ((s.core p).engOps e).foldl (fun s o => o.flights.foldl (fun s x =>
    let now := ((s.core p).engOps e).find? (·.num == o.num)
    match now, (s.copyPlace p o x.1).2 with
    | some o, .ok (a, d, _) =>
      let to_ := s.destOf p o.sv d
      let src := s.destOf p o.sv a
      let hit := fun (z : Nat × Nat) => z.1 == 4 && f z.2
      let fault := s.lostLink 0 (peerBase (if hit to_ then to_.2 else src.2)) 2
      if o.sub != 5 && hit src then s.copyFail p e o x.1 fault false
      else if hit to_ then
        (if lost then
          let s := if Config.choice (s.tick + 60 + x.1) then s.copyRequest p e o x else s
          (match ((s.core p).engOps e).find? (·.num == o.num) with
           | some o => s.copyFail p e o x.1 fault true
           | none => s)
         else s.updCore p (·.putOp e { o with flights := o.flights.filter (· != x) }))
      else s
    | _, _ => s) s) s

/-- Everything in flight to such peers. -/
def State.dropPeers (s : State) (f : Nat → Bool) (lost : Bool) : State :=
  (s.cores.map (·.1)).foldl (fun s p =>
    let s := (s.failFlights p f lost).dropStores p f lost
    (s.dropRequests p 0 f lost).dropRequests p 1 f lost) s

/-- The collectives with a member beyond a lost link fault; where all contributions are there, elements of a destination
are written or not (19 R457 (e)). -/
def State.dropColls (s : State) (f : Nat → Bool) : State :=
  (s.colls.filter fun c => c.peer.isNone && c.peers.any f).foldl (fun s c =>
    let l := s.byRank c (s.colls.filter (s.sameColl c))
    let n := elemBytes c.ofmt
    let d := if l.length < c.nm then [] else (c.result l).1
    let s := (seqFrom 0 (d.length / n)).foldl (fun s k =>
      if Config.choice (s.tick + 80 + k) then
        match gField (fieldOf c.desc 32 8 + n * k) with
        | .ok a => (s.engWrite c.agent c.sv 3 c.num a a ((d.drop (n * k)).take n) []).1
        | .error _ => s
      else s) s
    let far := (c.peers.find? f).getD 0
    s.failColl c (s.engRec c.agent c.sv (s.lostLink 0 (peerBase far) 2) true 0)) s

/-- PORT_SHED: the port goes down and leaves its link until LINKj.VAL is written again, and its flits are replayed on the
ports that remain; with its last port the link is lost (19 R457 (c) to (f)). -/
def execPortShed (k : Nat) (s : State) : Host.Outcome State Fault Refusal :=
  let w := s.fab.port k
  let j := w.link.toNat
  let over_ := fun (n : Nat) => (s.fab.peer n).val && (s.fab.peer n).link.toNat == j
  .next (if 72 ≤ k || !w.member then s else
    let down := fun (s : State) =>
      { s with fab := { s.fab with ports := SMap.upd s.fab.ports {} k fun w => { w with state := 0, member := false } } }
    let rest := (down s).fab.portsOf j
    let none_ := !((seqFrom 0 72).any fun i => i != k && (s.fab.port i).member && (s.fab.port i).link.toNat == j)
    let s := if none_ then (s.dropPeers over_ true).dropColls over_ else s
    let s := down s
    let s := { s with fab := { s.fab with links := SMap.upd s.fab.links {} j fun l =>
      { l with turn := 0, kept := l.kept.map fun (x : BitVec 12 × Nat) => if x.2 = k then (x.1, rest.headD 0) else x } } }
    let s := (s.log { kind := 0x0D, sev := 0, detail := linkDetail k j 0 1 }).eventTrigger 2
    if none_ then s.log { kind := 0x0D, sev := 5, detail := linkDetail k j 0 2 } else s)

/-- VIRAL_FLIT_RECEIVED (16 R410): the peer and its key are refused, and what is in flight to it is dropped. -/
def execViralFlitReceived (peer : Nat) (key : BitVec 24) (s : State) : Host.Outcome State Fault Refusal :=
  .next (if 511 ≤ peer then s else
    let s := s.dropPeers (· == peer) false
    let f := s.fab
    let f := { f with peers := SMap.upd f.peers {} peer fun x => { x with val := false } }
    let f := (seqFrom 0 64).foldl (fun (f : Fabric) i =>
      if (f.key i).key = key then { f with keys := SMap.upd f.keys {} i fun k => { k with val := false } } else f) f
    { s with fab := f }.log { kind := 0x10, sev := 5, detail := peer })

end Sys2Proof.Machine
end

