-- ==== Sys2Proof/Machine/Device.lean ====
section
/-! DEFINITION. What register writes start, time triggers, snapshots, power, heat, telemetry and the resets
(09 R257; 13 R345 to R365; 16 R409; 19 R454 to R456, R459 to R461). -/

namespace Sys2Proof.Machine

open Sys2Proof

/-! ### Resets (13 R357; 19 R454 to R456, R461) -/

/-- Store addresses that a warm reset keeps: HBM, vaults, host and peer memory, parity units. -/
def keptWarm (a : Nat) : Bool := a < 0x10000000000000 || (0x10010000000000 ≤ a && a < guardBase)
/-- Store addresses outside the module, which no reset changes. -/
def outside (a : Nat) : Bool := 0x8000000000000 ≤ a && a < 0x10000000000000

/-- A tile through a warm reset: its trim words, temperatures and withdrawal stay; a withdrawn tile has a round
due (13 R357; 19 R446, R461). -/
def Tile.warm (t : Tile) : Tile :=
  { trims := t.trims, moved := t.moved, tlast := t.tlast, tnow := t.tnow, wdrn := t.wdrn, off := t.off,
    due := t.wdrn, boot := t.boot }

/-- A die's heat block through a warm reset: the reading and what fuses gave stay. -/
def Heat.warm (h : Heat) : Heat := { temp := h.temp, lbt := h.lbt, lbv := h.lbv, lt := h.lt }

/-- Every parity journal is applied (19 R461). -/
def State.settleAll (s : State) : State :=
  (seqFrom 0 12).foldl (fun s k =>
    let s := (SMap.get s.journal [] k).foldl State.applyEntry s
    { s with journal := SMap.put s.journal [] k [] }) s

/-- Orderly offline dies return from a warm reset if their self-test passes; abrupt ones stay (19 R461). -/
def State.returned (s : State) : BitVec 8 :=
  (seqFrom 0 8).foldl (fun (m : BitVec 8) d =>
    if s.offline d && !s.err.dabr.getLsbD d && Config.selfTest s.tick d then m &&& ~~~(1#8 <<< d) else m) s.err.doff

/-- Warm reset (13 R357; 19 R461). -/
def State.warmReset (s : State) : State :=
  let s := s.settleAll
  let r : State :=
    { tick := s.tick, gtc := s.gtc, mem := s.mem.filter (fun c => keptWarm c.1), sect := s.sect.filter (fun c => keptWarm (64 * c.1)),
      marks := s.marks.filter (fun c => keptWarm c.1), torn := s.torn,
      fuse := s.fuse, vmask := s.vmask, mmask := s.mmask, bmask := s.bmask, xmask := s.xmask,
      stepping := s.stepping, tandemCap := s.tandemCap, serial := s.serial, fab := s.fab, ptp := s.ptp, rstLast := 1 }
  let r : State := (s.tiles.map fun e => (e.1, e.2.warm)).foldl (fun r e => r.setTile e.1 e.2) r
  let r : State := (s.pow.heat.map fun e => (e.1, e.2.warm)).foldl (fun r e => r.setHeat e.1 e.2) r
  { r with err := { s.err with viral := false, vsignal := false, doff := s.returned, audused := 0 } }

/-- Which parts fail authentication or self-test at the boot of this tick: V-, S- and M-dies 0 to 23, B-dies 24 to
35, X-dies 36 and 37 (log entry 19). -/
def State.fails (s : State) (i : Nat) : Bool := !Config.selfTest s.tick i

/-- A failing V-die column goes offline, abrupt, with cause 7 (19 R455). -/
def State.bootDie (s : State) (d : Nat) : State :=
  let n := (seqFrom 0 3).foldl (fun n i => if s.fails (8 * i + d) then n + 1 else n) 0
  if n = 0 then s else
  let s := { s.markOff d 7 true with vmask := s.vmask &&& ~~~(1#8 <<< d), mmask := s.mmask &&& ~~~(1#8 <<< d) }
  (seqFrom 0 n).foldl (fun s _ => s.log { kind := 0x0F, sev := 5, block := 576 + d }) s

/-- Failing stacks: with plan 11 requested and exactly one of them the placement excludes it, else each is lost
from boot (19 R454, R456). -/
def State.bootStacks (s : State) : State :=
  let l := (seqFrom 0 12).filter fun k => s.fails (24 + k)
  let act := s.err.p11 && l.length == 1
  let m := l.foldl (fun (m : BitVec 12) k => m ||| (1#12 <<< k)) 0
  let s := { s with bmask := ~~~m,
                    err := { s.err with act := act, exk := if act then BitVec.ofNat 4 (l.headD 0) else 0,
                                        lost := if act then 0 else m, boot := m } }
  l.foldl (fun s k => s.log { kind := 0x0F, sev := 5, block := 600 + k }) s

/-- Failing X-dies (19 R455). -/
def State.bootHosts (s : State) : State :=
  (seqFrom 0 2).foldl (fun s x =>
    if s.fails (36 + x) then { s with xmask := s.xmask &&& ~~~(1#2 <<< x) }.log { kind := 0x0F, sev := 5 } else s) s

/-- Cold reset (13 R357; 19 R454 to R456, R461): everything at its reset value but the fuses, what lies outside the
module and HPLAN.P11, then the authentication of every part. -/
def State.coldReset (s : State) : State :=
  let r : State :=
    { tick := s.tick, serial := s.serial, mem := s.mem.filter (fun c => outside c.1),
      sect := s.sect.filter (fun c => outside (64 * c.1)), marks := s.marks.filter (fun c => outside c.1), fuse := s.fuse,
      stepping := s.stepping, tandemCap := s.tandemCap, err := { p11 := s.err.p11 } }
  ((seqFrom 0 8).foldl State.bootDie r).bootStacks.bootHosts

/-! ### Writes to BAR0 -/

/-- VFORCE: the module goes viral; the record's KIND is not stated (16 R409). -/
def State.forceViral (s : State) : State := s.goViral (1 + Config.pick s.tick % 16) 0

/-- What a register write starts. -/
def State.perform (s : State) (party : Nat) : Act → State
  | .none => s
  | .jstart sem => s.jstart party sem
  | .reset k => if k = 1 then s.warmReset else if k = 2 then s.coldReset else s
  | .doffreq d => s.dieOff d 1 false
  | .vforce => s.forceViral

/-- There is no party 0, and the host port of an X-die that failed at boot is absent (13 R348; 19 R455). -/
def State.noParty (s : State) (party : Nat) : Bool := party == 0 || (party ≤ 2 && !s.xmask.getLsbD (party - 1))

/-- A party writes the bytes of mask `m` of the 64-bit register at an aligned BAR0 offset: 1 and 2 the host
ports, 3 the device side (13 R346, R348). -/
def State.write (s : State) (party off : Nat) (v m : Word) : State :=
  if s.noParty party then s else
  let (s, a) := s.regPut party off v m
  s.perform party a

/-- A party writes bytes. -/
def State.writeReg (s : State) (party off : Nat) (d : List Byte) : State :=
  if s.noParty party then s else
  let (s, a) := s.mmioWrite party off d
  s.perform party a

/-- REGISTER_WRITE: a naturally aligned write of 1, 2, 4 or 8 bytes (00 R473). -/
def execRegisterWrite (party : BitVec 2) (off : Nat) (data : List (BitVec 8)) (s : State) :
    Host.Outcome State Fault Refusal :=
  let n := data.length
  .next (if [1, 2, 4, 8].contains n && aligned off n then s.writeReg party.toNat off data else s)

/-- SEMCAS (13 R348). -/
def execSemcas (party : BitVec 2) (v : BitVec 64) (s : State) : Host.Outcome State Fault Refusal :=
  .next (s.write party.toNat 0x100000 v (BitVec.allOnes 64))

/-- HROUTE_WRITE (13 R349). -/
def execHrouteWrite (party mode : BitVec 2) (s : State) : Host.Outcome State Fault Refusal :=
  .next (s.write party.toNat 0x100018 (mode.setWidth 64) (BitVec.allOnes 64))

/-- LINK_FORM (13 R352). -/
def execLinkForm (party : BitVec 2) (j : Nat) (val : Bool) (s : State) : Host.Outcome State Fault Refusal :=
  .next (if 72 ≤ j then s else
    s.write party.toNat (0x300400 + 8 * j) (if val then 0x8000000000000000 else 0) (BitVec.allOnes 64))

/-- TICTL_GO (09 R257). -/
def execTictlGo (party : BitVec 2) (v : BitVec 64) (s : State) : Host.Outcome State Fault Refusal :=
  .next (s.write party.toNat 0x500008 v (BitVec.allOnes 64))

/-- FREQ_SET (13 R361). -/
def execFreqSet (party : BitVec 2) (d : Nat) (mhz : BitVec 12) (s : State) : Host.Outcome State Fault Refusal :=
  .next (if 8 ≤ d then s else s.write party.toNat (0x700018 + 0x1000 * d) (mhz.setWidth 64) 0xFFFF)

/-- PTP_COMMIT (13 R356). -/
def execPtpCommit (party : BitVec 2) (s : State) : Host.Outcome State Fault Refusal :=
  .next (s.write party.toNat 0x800020 1 (BitVec.allOnes 64))

/-- SNAPHW_TRIG (13 R358). -/
def execSnaphwTrig (party : BitVec 2) (s : State) : Host.Outcome State Fault Refusal :=
  .next (s.write party.toNat 0x900010 1 (BitVec.allOnes 64))

/-- DOFFREQ (19 R450). -/
def execDoffreq (party : BitVec 2) (d : BitVec 3) (s : State) : Host.Outcome State Fault Refusal :=
  .next (s.write party.toNat 0x980090 (8 + d.setWidth 64) 0xFF)

/-- VFORCE (16 R402, R409). -/
def execVforce (party : BitVec 2) (s : State) : Host.Outcome State Fault Refusal :=
  .next (s.write party.toNat 0x980008 (s.reg party.toNat 0x980008 ||| 0x40000000) (BitVec.allOnes 64))

/-- WARM_RESET and COLD_RESET (13 R357). -/
def execWarmReset (party : BitVec 2) (s : State) : Host.Outcome State Fault Refusal :=
  .next (s.write party.toNat 0xA00000 1 (BitVec.allOnes 64))
def execColdReset (party : BitVec 2) (s : State) : Host.Outcome State Fault Refusal :=
  .next (s.write party.toNat 0xA00000 2 (BitVec.allOnes 64))

/-- RESET_PIN: a cold reset (13 R357). -/
def execResetPin (s : State) : Host.Outcome State Fault Refusal := .next s.coldReset

/-- POWER_ON: HPLAN.P11 is 0 and a cold reset follows (13 R357; 19 R456). -/
def execPowerOn (s : State) : Host.Outcome State Fault Refusal :=
  .next { s with err := { s.err with p11 := false } }.coldReset

/-! ### Translation invalidation (09 R257) -/

/-- The range of an invalidation: base and size. -/
def Ctl.tiRange (c : Ctl) : Nat × Nat :=
  let n := 2 ^ c.tilsz.toNat
  (c.tiva.toNat * 4096 / n * n, n)

/-- Does an invalidation name a context? -/
def Ctl.tiNames (c : Ctl) (x : Nat) : Bool := c.tiall || c.tictx.toNat == x

/-- Has every access of the named contexts that is accepted and translated performed? -/
def State.tiQuiet (s : State) : Bool :=
  s.cores.all fun e => !s.ctl.tiNames (s.ctxOf e.1) || e.2.released.all fun g => g.form != .g

/-- INVALIDATION_COMPLETE: no cache holds an entry of the named contexts that overlaps the range, and GO reads 0;
it completes once the accesses that such entries translated have performed. -/
def execInvalidationComplete (s : State) : Host.Outcome State Fault Refusal :=
  let (a, n) := s.ctl.tiRange
  .next (if !s.ctl.tigo || !s.tiQuiet then s else
    { s with tcache := s.tcache.filter fun e =>
               let b := e.base / 2 ^ e.pageLsz * 2 ^ e.pageLsz
               !(s.ctl.tiNames e.ctx && decide (b < a + n ∧ a < b + 2 ^ e.pageLsz)),
             ctl := { s.ctl with tigo := false } })

/-! ### Time: event comparison, PTP, snapshots (05 R147; 13 R356 to R359) -/

/-- The comparison of an agent at a reference edge of GTC `g`: armed by a write of EVGTC, it sets GTCM once (05 R147). -/
def Core.gtcEdge (c : Core) (g : Nat) : Core :=
  if c.armed && decide (c.evgtc.toNat ≤ g) then { c.setEvt 1 with armed := false } else c

/-- GTC_MATCH: the GTC has reached EVGTC, armed by its write (05 R147). -/
def execGtcMatch (p : Nat) (s : State) : Host.Outcome State Fault Refusal := .next (s.updCore p (·.gtcEdge s.gtc.toNat))

/-- The staged relation takes effect once the GTC is at AT. -/
def Ptp.due (x : Ptp) (g : Nat) : Ptp := if x.pend && decide (x.sat.toNat ≤ g) then x.apply else x

/-- PTP_COMMIT_APPLY: at GTC AT the staged relation takes effect. -/
def execPtpCommitApply (s : State) : Host.Outcome State Fault Refusal := .next { s with ptp := s.ptp.due s.gtc.toNat }

/-- The GTC, `g` now, reaches SNAPGTC: a trigger stamped with the GTC of that tick (13 R358). -/
def State.snapReach (s : State) (g : Nat) : State :=
  let met := !s.snap.hit && decide (s.snap.cmp.toNat ≤ g)
  let t : State := { s with snap := { s.snap with hit := s.snap.hit || met } }
  if s.snap.en.getLsbD 3 && met then
    { ({ t with gtc := if s.gtc.toNat ≤ s.snap.cmp.toNat then s.snap.cmp else s.gtc }).trigger 3 0 0 with gtc := s.gtc }
  else t

/-- SNAPSHOT_PIN and SNAPSHOT_GTC_MATCH (13 R358). -/
def execSnapshotPin (s : State) : Host.Outcome State Fault Refusal := .next (s.trigger 2 0 0)
def execSnapshotGtcMatch (s : State) : Host.Outcome State Fault Refusal := .next (s.snapReach s.gtc.toNat)

/-- The unit that an agent runs, by its names. -/
def Core.unitName (c : Core) : Nat × Nat := match c.unit with | none => (0, 0) | some (_, l, u) => (l, u)

/-- The hold code of a core record: 8 stopped, 9 halted, 10 idle, else the row of 01 R19; a hold on hwaitc is one of the
first row (12 R320). -/
def State.holdCode (s : State) (p : Nat) : Nat :=
  let c := s.core p
  if (s.unitOf p).isNone then 10 else if c.stopped then 8 else if c.halted then 9 else if c.hold < 8 then c.hold else 1

/-- V-die of a unit: that of its first member, or of its home peloton while it is saved. -/
def State.dieOfUnit (s : State) (r : UnitRec) : Nat :=
  match r.members with
  | p :: _ => p / 36
  | [] => match s.launchOf r.ctx r.lid with
    | some y => ((s.slotsOf y)[r.slot]?.bind (·.head?)).getD 0 / 36
    | none => 0

/-- Units of a V-die: on cores, and saved. -/
def State.unitsAt (s : State) (d : Nat) (saved : Bool) : Nat :=
  (s.units.filter fun r => s.dieOfUnit r == d && r.members.isEmpty == saved && r.st != .lost).length

/-- Journal entries that an agent holds, torn marks included (09 R263; 18 R433). -/
def State.journalHeld (s : State) (k : Nat) : Nat :=
  (SMap.get s.journal [] k).length + (s.torn.filter fun t => s.parityStack (s.stripeOf (64 * t)) == k).length

/-- Bytes [63:16] of snapshot record k, as parts of a width in bytes (13 R359). -/
def State.snapParts (s : State) (k : Nat) : List (Nat × Nat) :=
  if k < 288 then
    let c := s.core k
    let r := s.unitOf k
    [(8, c.pc.toNat), (8, c.vc), (8, match r with | some r => r.ucnt.toNat | none => 0), (4, c.unitName.1),
     (4, c.unitName.2), (1, s.holdCode k)]
  else if k < 576 then
    let c := s.core (k - 288); let t := s.tile (k - 288)
    [(8, c.ni), (8, (c.gtl 2).toNat), (8, t.tstate.toNat), (2, match t.run with | some r => r.idx | none => 0xFFFF),
     (2, match t.run with | some r => r.pc | none => 0)]
  else if k < 584 then [(8, s.unitsAt (k - 576) false), (8, s.unitsAt (k - 576) true)]
  else if k < 600 then
    let c := s.core (slotBase + (k - 584))
    [(8, c.pc.toNat), (8, c.vc), (8, (SMap.get s.ctl.jcnt 0 (k - 584)).toNat)]
  else if k < 612 then
    [(4, s.journalHeld (k - 600)), (12, 0), (8, SMap.get s.swr 0 (k - 600)), (8, SMap.get s.srd 0 (k - 600))]
  else
    let h := s.heat (k - 612)
    [(2, h.temp.toNat), (1, h.gearReg), (1, 0), (2, h.cur.toNat), (2, 0), (4, Config.diePower s.tick (k - 612))]

/-- Lay parts out, lowest first. -/
def layParts (l : List (Nat × Nat)) : List Byte := l.flatMap fun e => toBytes e.1 e.2

/-- Snapshot record k. -/
def State.snapRecord (s : State) (k : Nat) : List Byte :=
  let b := toBytes 8 s.gtc.toNat ++ toBytes 2 k ++ List.replicate 6 0 ++ layParts (s.snapParts k)
  b ++ List.replicate (64 - b.length) 0

/-- Every block's state goes into its record at one GTC value (13 R358, R359). -/
def State.latch (s : State) : State :=
  if !s.snap.trig then s else
  let t := (seqFrom 0 620).foldl (fun (t : State) k => t.setBytes (snapAddr (64 * k)) (s.snapRecord k)) s
  { t with snap := { t.snap with trig := false, fresh := true, latch := s.gtc } }

/-- SNAPSHOT_LATCH (13 R358). -/
def execSnapshotLatch (s : State) : Host.Outcome State Fault Refusal := .next s.latch

/-- The trigger that the GTC itself fires, and, once the tick that SNAPGTC names is past, its latch at that tick: until
then a trigger of a lower source may still arrive at it. -/
def State.snapTick (s : State) (g : Nat) : State :=
  let t := s.snapReach g
  if t.snap.trig && !s.snap.trig && decide (t.snap.stamp.toNat < g) then { { t with gtc := t.snap.stamp }.latch with gtc := s.gtc } else t

/-- The GTC runs on by `n` ticks: a trigger of the tick that ends is latched at it; SNAPGTC, AT and every EVGTC are met at
their own ticks (01 R14; 05 R147; 13 R356, R358). -/
def State.ticks (s : State) (n : Nat) : State :=
  let g := s.gtc.toNat + n
  let s := (if s.snap.trig && n != 0 then s.latch else s).snapTick g
  let armed := (s.cores.filter fun e => e.2.armed && n != 0).map (·.1)
  let s := armed.foldl (fun s p => s.updCore p (·.gtcEdge g)) s
  { s with gtc := s.gtc + BitVec.ofNat 64 n, ptp := s.ptp.due g }

/-- Wall time passes before a step: histories take note of what the step before it did, a host route takes force that no
access stands against, and the GTC runs on (00 R5; 01 R14 to R16; 11 R313; 13 R349). -/
def State.timePasses (s : State) (n : Nat) : State := (s.noteWrites.noteIssues.settleRoute).ticks n

/-! ### Power and heat (13 R362 to R364; 19 R459, R460) -/

/-- The segment of a rising list of breakpoints that holds x, clamped: index, numerator, denominator. -/
def segmentOf (l : List Nat) (x : Nat) : Nat × Nat × Nat :=
  let n := l.length
  let x := max (l.headD 0) (min x (l.getLastD 0))
  let i := min (((l.drop 1).takeWhile (· ≤ x)).length) (n - 2)
  let a := l.getD i 0; let b := l.getD (i + 1) 0
  if b ≤ a then (i, 0, 1) else (i, x - a, b - a)

/-- A quotient rounded down, or up where the free choice says so: the manual states no rounding. -/
def roundFree (up : Bool) (n d : Nat) : Nat := n / d + (if up && n % d != 0 then 1 else 0)

/-- Leakage of cluster c of V-die d in mW (13 R362). -/
def State.leakage (s : State) (d c : Nat) : Nat :=
  let h := s.heat d
  let ts := (seqFrom 0 8).map fun i => 8 * wfld h.lbt (8 * i) 8
  let vs := (seqFrom 0 4).map fun j => wfld h.lbv (16 * j) 16
  let (i, tn, td) := segmentOf ts (Config.clusterTemp s.tick (9 * d + c))
  let (j, vn, vd) := segmentOf vs (Config.clusterVolt s.tick (9 * d + c))
  let e := fun (i j : Nat) => (h.leak c (4 * i + j)).toNat
  roundFree (Config.choice (s.tick + 9 * d + c))
    (e i j * (td - tn) * (vd - vn) + e (i + 1) j * tn * (vd - vn) + e i (j + 1) * (td - tn) * vn + e (i + 1) (j + 1) * tn * vn)
    (td * vd)

/-- Events of a list of counts, weighted, in mW. -/
def State.dynamic (s : State) (l : SMap Nat) : Nat :=
  roundFree (Config.choice s.tick)
    ((seqFrom 0 8).foldl (fun n k => n + SMap.get l 0 k * (s.pow.weight k).toNat) 0) 10000000

/-- Vectors that ballast runs in progress are counted as: the manual does not state how many. -/
def State.ballastCount (s : State) : Nat :=
  if s.tiles.any fun e => e.2.ballast.any fun b => b.arrs != 0 then Config.pick s.tick else 0

/-- Tiles that take ballast: those with BALOK = 1, on an enabled core of a die that is online (07 R204; 13 R364). -/
def State.ballastTiles (s : State) : List Nat :=
  (seqFrom 0 288).filter fun q =>
    let t := s.tile q
    s.enabled q && !s.offline (q / 36) && t.balok

/-- Arrays of a tile that are idle: held by no run, and not used by a routine that is running. -/
def Tile.idleArrays (t : Tile) : BitVec 4 :=
  (seqFrom 0 4).foldl (fun (m : BitVec 4) a => if t.idleFor a && !t.barred (1#4 <<< a) then m ||| (1#4 <<< a) else m) 0

/-- Ballast runs begin on the idle arrays that the tile's ballast round has not done (07 R204). An array that committed
before the run on another was abandoned stays done, and the round stays open while FILL is 1 (DESIGN CHOICE, log entry
130). -/
def Tile.giveBallast (t : Tile) : Tile :=
  let b := t.ballast.getD { temp := t.tnow }
  let m := t.idleArrays &&& ~~~b.done
  if m = 0 then t else { t with ballast := some { b with arrs := b.arrs ||| m } }

/-- Ballast that the limiter no longer calls for ends with its last run (13 R364). -/
def Tile.stopBallast (t : Tile) : Tile :=
  match t.ballast with | some b => if b.arrs = 0 then { t with ballast := none } else t | none => t

/-- Change every V-die's heat block. -/
def State.eachHeat (s : State) (f : Heat → Heat) : State :=
  (seqFrom 0 8).foldl (fun s d => s.setHeat d (f (s.heat d))) s

/-- RampStep (13 R364), in mW. -/
def State.rampStep (s : State) (pw : Nat) (dn : Int) : State :=
  let b := s.pow.ramp.toNat * 10
  let g := (s.heat 0).rmpg
  let g' : BitVec 2 :=
    if s.pow.pprev + b < pw then (if g.toNat < 3 then g + 1 else g)
    else if g ≠ 0 ∧ 2 * pw ≤ 2 * s.pow.pprev + b then g - 1 else g
  let fill := decide (dn < (s.pow.pprev : Int) - b)
  let s := s.eachHeat fun h => { h with rmpg := g' }
  let s := { s with pow := { s.pow with fill := fill, pprev := pw } }
  let s := if g' = g then s else s.eventTrigger 1
  if fill then s.ballastTiles.foldl (fun s q => s.updTile q Tile.giveBallast) s
  else (s.tiles.map (·.1)).foldl (fun s q => s.updTile q Tile.stopBallast) s

/-- POWER_ESTIMATE: every 10 µs P and Dn are formed, the ramp limiter runs, the telemetry sums grow and the
emergency of 19 R460 may begin. -/
def execPowerEstimate (s : State) : Host.Outcome State Fault Refusal :=
  let n := s.ballastCount
  let counts := SMap.upd s.pow.counts 0 2 (· + n)
  let fillc := SMap.upd s.pow.fillc 0 2 (· + n)
  let leak := (seqFrom 0 8).foldl (fun m d => (seqFrom 0 9).foldl (fun m c => m + s.leakage d c) m) 0
  let pw := leak + s.dynamic counts + 80000
  let fl := s.dynamic fillc
  let k := s.pow
  let s := s.rampStep pw ((pw : Int) - fl)
  let high := decide (2400000 < pw) && k.heat.any (fun e => e.2.rmpg == 3)
  .next { s with pow := { s.pow with
    pest := pw, dn := (pw : Int) - fl, counts := [], fillc := [],
    emerg := (k.emerg && decide (2200000 < pw)) || high,
    emergNew := k.emergNew || (high && !k.emerg),
    nest := k.nest + 1, psum := k.psum + pw, pmax := max k.pmax pw,
    pmin := if k.nest = 0 then pw else min k.pmin pw, fsum := k.fsum + fl } }

/-- Is `now` within the dwell of 2 ms after a time? -/
def dwells (now : Nat) (l : Option Nat) : Bool := (l.map fun l => decide (now - l < 2000000)).getD false

/-- THERMAL_STEP (13 R363; 19 R459): a reading `t` of die d's hottest sensor. At THG 3 each dwell moves CUR once; a step
of CUR is no thermal change (log entry 87). -/
def Heat.thermal (h : Heat) (gtc : Word) : Heat :=
  let t := h.temp.toInt
  let now := gtc.toNat
  let still := dwells now h.lastf
  if dwells now h.last then h
  else if h.thi.toInt ≤ t then
    if h.thg.toNat < 3 then { h with thg := h.thg + 1, last := some now }
    else if still then { h with thot := true }
    else { h with thot := true, lastf := some now, cur := if 900 ≤ h.cur.toNat then h.cur - 100 else 800 }
  else if t ≤ h.tlo.toInt then
    if h.thg = 3 ∧ h.cur.toNat < h.setf.toNat then
      (if still then h else { h with cur := BitVec.ofNat 12 (min h.setf.toNat (h.cur.toNat + 100)), lastf := some now })
    else if h.thg ≠ 0 then { h with thg := h.thg - 1, last := some now }
    else h
  else h

/-- THERMAL_STEP: the thermal gear (13 R363), and the fixed limits (19 R459). -/
def execThermalStep (d : Nat) (t : BitVec 16) (s : State) : Host.Outcome State Fault Refusal :=
  .next (if 8 ≤ d then s else
    let h : Heat := { s.heat d with temp := t }
    let h' := h.thermal s.gtc
    let s := s.setHeat d h'
    let s := if h'.thg = h.thg then s else s.eventTrigger 0
    if 920 ≤ t.toInt then s.dieOff d 6 true
    else if 880 ≤ t.toInt then s.dieOff d 3 false else s)

/-- POWER_EMERGENCY_STEP: every 1 ms in an episode every V-die's CUR falls by 100 MHz, down to 800; after it CUR
rises to SET, whatever the thermal gear; the first step of an episode is logged, one that begins in the rise included (19
R460). -/
def execPowerEmergencyStep (s : State) : Host.Outcome State Fault Refusal :=
  .next (if s.pow.emerg then
      let first := s.pow.emergNew
      let s := s.eachHeat fun h => { h with cur := if 900 ≤ h.cur.toNat then h.cur - 100 else if h.cur.toNat < 800 then h.cur else 800 }
      let s := { s with pow := { s.pow with emergAt := s.gtc.toNat + 1, emergNew := false } }
      if first then s.log { kind := 0x0E, sev := 0, detail := 8 } else s
    else if s.pow.emergAt == 0 then s
    else
      let s := s.eachHeat fun h => { h with cur := BitVec.ofNat 12 (min h.setf.toNat (h.cur.toNat + 100)) }
      if (seqFrom 0 8).all fun d => (s.heat d).cur == (s.heat d).setf then
        { s with pow := { s.pow with emergAt := 0 } } else s)

/-! ### Damage from outside (18 R427, R429; 19 R444) -/

/-- A bit of the state of a hub or of a parity journal flips, `k` being below 8 the die hub of V-die k, 8 the device hub,
from 16 on the journal of agent k - 16. A second flip that comes before the first has been corrected is an N3 error: the
module goes viral, and the die of a die hub goes offline, orderly (16 R409 (b); 19 R449 cause 2; log entry 109). -/
def State.upsetGuard (s : State) (k bit : Nat) : State :=
  let a := guardBase + 64 * k
  let x := s.sector a
  let fixed : Rec := { kind := 2, block := if k < 8 then 576 + k else if k < 16 then 584 else 584 + k }
  if x.flips.isEmpty then s.setSector a { x with flips := [bit] }
  else if Config.choice (s.tick + 30) then (s.setSector a { x with flips := [bit] }).log fixed
  else
    let s := (s.setSector a { x with flips := [] }).goViral 1 fixed.block
    if k < 8 then s.dieOff k 2 false else s

/-- How many stored bits stand beside one another in a sector or line: data and check bits, and in HBM the three copies of
the tag (18 R426, R429). -/
def lineBits (a : Nat) : Nat :=
  if a < 0x10000000000 ∨ 0x10010000000000 ≤ a then 588 else 512 + 64 / codeWordSize a * codeChecks a

/-- A stored bit of an on-device store flips (log entry 24). -/
def State.upset (s : State) (a bit : Nat) : State :=
  if guardBase ≤ a then (if a < guardBase + 64 * 28 then s.upsetGuard ((a - guardBase) / 64) bit else s) else
  if outside a then s else
  let x := s.sector a
  if lineBits a ≤ bit then s else
  let y := a / 64 * 64 + bit / 8
  (if bit < 512 then s.setByte y (s.byte y ^^^ (1#8 <<< (bit % 8))) else s).setSector a
    { x with flips := if x.flips.contains bit then x.flips.filter (· != bit) else x.flips ++ [bit] }

/-- A reading of tile q that will be off the grid (19 R444; log entry 14). -/
def State.offGrid (s : State) (q : Nat) (g : OffGrid) : State := s.updTile q fun t => { t with off := t.off ++ [g] }

/-! ### Telemetry (13 R365) -/

/-- PtpOf (13 R356): the difference is exact. -/
def Ptp.of (p : Ptp) (g : Word) : Word :=
  let d : Int := (g.toNat : Int) - (p.gtcb.toNat : Int)
  p.ptpb + BitVec.ofInt 64 (d + (d * p.rate.toInt) / 2 ^ 40)

/-- A telemetry record of the interval that ends now. -/
def State.telemetry (s : State) : List Byte :=
  let p := s.pow
  let h := s.heat 0
  let mean := fun (x i : Nat) => if p.nest = 0 then Config.pick (s.tick + i) else roundFree (Config.choice (s.tick + i)) x p.nest
  let word := fun (x i : Nat) => if p.nest = 0 then Config.pick (s.tick + i) else x
  let b := layParts (
    [(8, if s.ptp.valid then (s.ptp.of s.gtc).toNat else 0), (8, s.gtc.toNat), (4, mean p.psum 0), (4, word p.pmax 1),
     (4, word p.pmin 2), (4, mean p.fsum 3),
     (1, h.rmpg.toNat + (if h.rmpg ≠ 0 then 4 else 0) + (if p.fill then 8 else 0)), (1, 0),
     (2, (seqFrom 0 8).foldl (fun n d => n + (s.heat d).gear * 4 ^ d) 0)] ++
    (seqFrom 0 8).map (fun d => (2, (s.heat d).temp.toNat)) ++ [(4, p.telhead.toNat + s.waiting Own.isTelemetry)])
  b ++ List.replicate (64 - b.length) 0

/-- TELEMETRY_RECORD: every 1 ms with EN = 1 a record goes to the ring, then TELHEAD counts. -/
def execTelemetryRecord (s : State) : Host.Outcome State Fault Refusal :=
  let clear := fun (s : State) => { s with pow := { s.pow with nest := 0, psum := 0, pmax := 0, pmin := 0, fsum := 0 } }
  .next (if !s.pow.telen then clear s else
    let n := s.pow.telhead.toNat + s.waiting Own.isTelemetry
    let a := s.pow.telbase.toNat + 64 * (n % 2 ^ s.pow.teln.toNat)
    let w := s.telemetry
    clear (if s.ownWaits a Own.isTelemetry then s.keepOwn a w .telemetry else
      (if s.inHbm a || (inHost a && !s.err.viral) then s.writePa a w [] none else s).ownDone .telemetry))

end Sys2Proof.Machine
end

