-- ==== Sys2Proof/Machine/Mmio.lean ====
section
/-! DEFINITION. gst: a gated store to G-space, or an irrevocable store to the registers of an MMIO page
(05 R134, R136; 02 R41, R45), the end of a hold (01 R16, R18), and accesses of peers (13 R353; 19 R458). -/

namespace Sys2Proof.Machine

open Sys2Proof

/-- Does a gst of the acting agent, in a checkpoint bundle, write an MMIO page, be it permitted there or not? -/
def State.gstMmio (s : State) (va : Nat) : Bool :=
  s.me.inIssue.ck && (match (s.entryFor (s.ctxOf s.cur.core) va).2 with
    | .ok e => peMT e.leaf == 1
    | .error _ => false)

/-- Checks of gst: its address, and room in the gate buffer. Outside a checkpoint bundle an MMIO page is found at the
release (17 R415 cause 0x22); what else stands against an MMIO store is found in its hold (18 R436). -/
def chkGst (a : BitVec 4) (off : BitVec 11) (wid : BitVec 2) (s : State) : Option Use :=
  let ea := s.eaG a off
  firstUse [s.globalUse ea (gWidth wid) true, if s.gstMmio ea.toNat then none else s.gateUse 1]

/-- gst: a page that is not MMIO takes a gated store, with ORD a release store; an MMIO page is written once, when the
bundle completes, which holds the core: the acknowledgement is due at vc n + 8 (05 R136). -/
def execGst (r : BitVec 5) (a : BitVec 4) (off : BitVec 11) (wid : BitVec 2) (rel : Bool) (s : State) : Host.Outcome State Fault Refusal :=
  let ea := s.eaG a off
  let d := toBytes (gWidth wid) (s.me.gs r).toNat
  let k := s.irrevKey
  guarded s (chkGst a off wid s)
    (if s.gstMmio ea.toNat then
      s.irrevocable .none 8 fun s => s.fly .none (.mmio ea.toNat d) 1 8 fun x => { x with late := true, row := 1, irrev := some k, rel := rel }
     else s.gate .g (cellsAt ea.toNat d) rel)

/-- Write the bytes of an MMIO store at its physical address: a register of this module, or a place of a peer
(dropped while the module is viral, 16 R409). -/
def State.mmioStore (s : State) (pa : Nat) (d : List Byte) : State :=
  if inMmio pa then s.writeReg 3 (mmioOff pa) d
  else if s.err.viral then s
  else s.writePa pa d [] none

/-- An MMIO store of agent `p` performs, or faults in its hold (05 R136; 18 R436). -/
def State.mmioPerform (s : State) (p : Nat) (x : Pending) (va : Nat) (d : List Byte) : State × Pending :=
  let w := s.slotWho p (s.core p).sv
  let fails := fun (s : State) (f : XFault) => (s.forget p x, x.done (.word 0) (f.use w true).damage)
  let (s, r) := s.translate w va true true
  match r with
  | .error f => fails s f
  | .ok t =>
    match s.peerFault w.ctx va t.pa with
    | some f => fails s f
    | none =>
      let s := (d.zip (seqFrom 0 d.length)).foldl (fun s e => s.sign p (BitVec.ofNat 64 (va + e.2)) [e.1]) s
      (s.mmioStore t.pa d, x.done (.word 0) {})

/-- The access number `i` of agent `p` that a hold waits for performs, an MMIO store among them. -/
def State.completeAccess (s : State) (p i : Nat) : State :=
  match (s.core p).pend[i]? with
  | some { src := .mmio va d, .. } =>
    (match (s.core p).pend[i]? with
     | some x =>
       let (s, go) := (s.flush (.core p) false).completes p x
       if !go then s.spare p i x else
       let z := s.later p x
       let (s, y) := (s.overtake p ((s.core p).releasedBefore z.pos) z).mmioPerform p x va d
       s.updCore p (·.setPend i y)
     | none => s)
  | _ => s.arrive p i

/-- HOLD_END: a fill, or an access in flight, completes, and the agent goes on (01 R16, R18); a hub program slot goes on in
the next turn of the slots' sequencer (12 R319). Which of the accesses that nothing orders performs is free (11 R317). -/
def execHoldEnd (p : Nat) (s : State) : Host.Outcome State Fault Refusal :=
  let s := if (s.core p).hold = 2 then s.endFills p else s
  let l := (seqFrom 0 (s.core p).pend.length).filter fun i => s.mayArrive p i
  let s := match l[Config.pick (s.tick + 2) % l.length]? with | some i => s.completeAccess p i | none => s
  .next (if isSlot p then s else s.pushTurns [.begin p])

/-! ### Accesses of peers (13 R353; 19 R458) -/

/-- Is an access of a key with a right to `n` bytes at `off` admitted (13 R353)? A contribution to a collective touches
no byte. -/
def Fabric.admits (f : Fabric) (key : BitVec 24) (right : Nat) (off n : Nat) : Bool :=
  (seqFrom 0 64).any fun i =>
    let k := f.key i
    k.val && k.key == key && k.rwa.getLsbD (2 - right) &&
      (n == 0 || (k.base.toNat * 2 ^ 30 ≤ off && off + n ≤ (k.base.toNat + k.len.toNat) * 2 ^ 30))

/-- The atomic that an incoming access asks for: its first byte holds the code of 10 R282 and bit 4 the unsigned
flag; the operand follows, 4 or 8 bytes, twice that for a compare and swap (log entry 48). -/
def incomingAtom (data : List Byte) : AtomOp :=
  let c := (data.headD 0).toNat
  let n := data.length - 1
  let w := if c % 8 = 7 then n / 2 else n
  { sub := c % 8, w := if w = 4 then 32 else 64, u := nbit c 4, x := BitVec.ofNat 64 (fieldOf data 1 (min w 8)),
    c := BitVec.ofNat 64 (fieldOf data (1 + w) (min w 8)) }

/-- The contribution of a peer to a collective: its descriptor, its member list and its elements follow one another (log
entry 48). -/
def incomingColl (peer : Nat) (key : BitVec 24) (data : List Byte) : Coll :=
  let x : Coll := { agent := slotBase + 16, num := 0, addr := 0, ctx := 16, desc := data.take 64, list := [], data := [],
                    cls := [], sv := false, peer := some (peer, key) }
  { x with list := (data.drop 64).take (2 * x.nm), data := data.drop (64 + 2 * x.nm) }

/-- An admitted access of a peer to the device MMIO: it writes registers as the device side does; its reads and
atomics change none (00 R473; log entry 108). -/
def State.incomingMmio (s : State) (right off : Nat) (data : List Byte) : State :=
  if right = 1 && [1, 2, 4, 8].contains data.length && aligned off data.length then s.writeReg 3 off data
  else if right = 0 then s.mmioTouch off else s

/-- INCOMING_ACCESS (13 R353; 19 R458): `right` is 0 for a read of as many bytes as `data` holds, 1 a write, 2 an
atomic, 3 a contribution to a collective. An access to the device MMIO reads or writes its registers. -/
def execIncomingAccess (peer : Nat) (key : BitVec 24) (right : BitVec 2) (off : BitVec 41) (data : List Byte)
    (s : State) : Host.Outcome State Fault Refusal :=
  let o := off.toNat
  let op := incomingAtom data
  let n := if right = 3 then 0 else if right = 2 then op.size else data.length
  let j := (s.fab.peer peer).link.toNat
  .next (if !(s.fab.admits key right.toNat o n) then
      s.log { kind := 0x0D, sev := 5, flags := flagHost, detail := linkDetail 0 j peer 3 }
    else if right = 3 then { (s.tally 5 1) with colls := s.colls ++ [incomingColl peer key data] }
    else if peerMmio o && peerMmio (o + n - 1) then (s.tally 5 1).incomingMmio right.toNat (o - 0x18000000000) data
    else if !(peerMem o && s.isMem o) then s
    else
      let s := s.tally 5 1
      let (s, _) := if inVault o then s.fillRange (vaultCore o) (vaultOff o) n else (s, none)
      match right.toNat with
      | 0 => (s.readLogged { flags := flagHost } o n).1
      | 1 => s.writePa o data [] none
      | _ =>
        if inVault o then
          let (s, _, fs) := (s.noteVault o).atomLocal (vaultCore o) (vaultOff o) op
          s.logAll { flags := flagHost } fs
        else
          let (s, _, fs) := s.atomStore o op none
          s.logAll { flags := flagHost } fs)

end Sys2Proof.Machine
end

