-- ==== Sys2Proof/Machine/Scalar.lean ====
section
/-! DEFINITION. S-slot integer operations, address registers and predicates (05 R116 to R124). -/

namespace Sys2Proof.Machine

open Sys2Proof

/-- A binary integer operation (05 R119). -/
def State.alu2 (s : State) (d a b : BitVec 5) (lat : Nat) (f : Word → Word → Word) : Host.Outcome State Fault Refusal :=
  .next (s.landS d (f (s.me.gs a) (s.me.gs b)) lat)

/-- A unary or immediate integer operation (05 R119, R121). -/
def State.alu1 (s : State) (d a : BitVec 5) (f : Word → Word) : Host.Outcome State Fault Refusal :=
  .next (s.landS d (f (s.me.gs a)) 1)

/-- A comparison into a predicate (05 R124). -/
def State.cmpP (s : State) (p : BitVec 3) (a b : BitVec 5) (r : Rel) (signed : Bool) : Host.Outcome State Fault Refusal :=
  .next (s.landP p (r.word signed (s.me.gs a) (s.me.gs b)))

/-- Bits [127:64] of a product. -/
def highWord (x : Int) : Word := BitVec.ofInt 64 (x / 2 ^ 64)

/-- Signed division with the fixed results of 05 R120. -/
def divS (x y : Word) : Word := if y = 0 then BitVec.allOnes 64 else BitVec.ofInt 64 (Int.tdiv x.toInt y.toInt)
/-- Unsigned division (05 R120). -/
def divU (x y : Word) : Word := if y = 0 then BitVec.allOnes 64 else BitVec.ofNat 64 (x.toNat / y.toNat)
/-- Signed remainder, with the sign of the dividend (05 R120). -/
def remS (x y : Word) : Word := if y = 0 then x else BitVec.ofInt 64 (Int.tmod x.toInt y.toInt)
/-- Unsigned remainder (05 R120). -/
def remU (x y : Word) : Word := if y = 0 then x else BitVec.ofNat 64 (x.toNat % y.toNat)

/-- Number of leading zero bits; 64 for 0. -/
def leadingZeros (x : Word) : Word := if x = 0 then 64 else BitVec.ofNat 64 (63 - Nat.log2 x.toNat)
/-- Number of trailing zero bits; 64 for 0. -/
def trailingZeros (x : Word) : Word := BitVec.ofNat 64 (((seqFrom 0 64).takeWhile fun i => !x.getLsbD i).length)
/-- Number of 1 bits. -/
def onesOf (x : Word) : Word := BitVec.ofNat 64 (((seqFrom 0 64).filter fun i => x.getLsbD i).length)

/-- The low `n` bits, sign-extended. -/
def signLow (n : Nat) (x : Word) : Word := (x.setWidth n).signExtend 64
/-- The low `n` bits, zero-extended. -/
def zeroLow (n : Nat) (x : Word) : Word := (x.setWidth n).setWidth 64

/-- y[5:0], a shift count. -/
def shamt (y : Word) : Nat := y.toNat % 64

/-- s[rd] := (x + y) mod 2^64 (05 R119). -/
def execAdd (d a b : BitVec 5) (s : State) : Host.Outcome State Fault Refusal :=
  s.alu2 d a b 1 (fun x y => x + y)

/-- s[rd] := (x - y) mod 2^64 (05 R119). -/
def execSub (d a b : BitVec 5) (s : State) : Host.Outcome State Fault Refusal :=
  s.alu2 d a b 1 (fun x y => x - y)

/-- Bitwise and (05 R119). -/
def execAnd (d a b : BitVec 5) (s : State) : Host.Outcome State Fault Refusal :=
  s.alu2 d a b 1 (fun x y => x &&& y)

/-- Bitwise or (05 R119). -/
def execOr (d a b : BitVec 5) (s : State) : Host.Outcome State Fault Refusal :=
  s.alu2 d a b 1 (fun x y => x ||| y)

/-- Bitwise xor (05 R119). -/
def execXor (d a b : BitVec 5) (s : State) : Host.Outcome State Fault Refusal :=
  s.alu2 d a b 1 (fun x y => x ^^^ y)

/-- Shift left by y[5:0] (05 R119). -/
def execSll (d a b : BitVec 5) (s : State) : Host.Outcome State Fault Refusal :=
  s.alu2 d a b 1 (fun x y => x <<< shamt y)

/-- Shift right with zero fill (05 R119). -/
def execSrl (d a b : BitVec 5) (s : State) : Host.Outcome State Fault Refusal :=
  s.alu2 d a b 1 (fun x y => x >>> shamt y)

/-- Shift right with copies of the sign (05 R119). -/
def execSra (d a b : BitVec 5) (s : State) : Host.Outcome State Fault Refusal :=
  s.alu2 d a b 1 (fun x y => x.sshiftRight (shamt y))

/-- Low half of the product, latency 3 (05 R119). -/
def execMul (d a b : BitVec 5) (s : State) : Host.Outcome State Fault Refusal :=
  s.alu2 d a b 3 (fun x y => x * y)

/-- High half of the signed product (05 R119). -/
def execMulh (d a b : BitVec 5) (s : State) : Host.Outcome State Fault Refusal :=
  s.alu2 d a b 3 (fun x y => highWord (x.toInt * y.toInt))

/-- High half of the unsigned product (05 R119). -/
def execMulhu (d a b : BitVec 5) (s : State) : Host.Outcome State Fault Refusal :=
  s.alu2 d a b 3 (fun x y => highWord ((x.toNat * y.toNat : Nat) : Int))

/-- Signed quotient (05 R120). -/
def execDiv (d a b : BitVec 5) (s : State) : Host.Outcome State Fault Refusal :=
  s.alu2 d a b 12 (divS)

/-- Unsigned quotient (05 R120). -/
def execDivu (d a b : BitVec 5) (s : State) : Host.Outcome State Fault Refusal :=
  s.alu2 d a b 12 (divU)

/-- Signed remainder (05 R120). -/
def execRem (d a b : BitVec 5) (s : State) : Host.Outcome State Fault Refusal :=
  s.alu2 d a b 12 (remS)

/-- Unsigned remainder (05 R120). -/
def execRemu (d a b : BitVec 5) (s : State) : Host.Outcome State Fault Refusal :=
  s.alu2 d a b 12 (remU)

/-- Signed minimum (05 R119). -/
def execMin (d a b : BitVec 5) (s : State) : Host.Outcome State Fault Refusal :=
  s.alu2 d a b 1 (fun x y => if x.toInt ≤ y.toInt then x else y)

/-- Signed maximum (05 R119). -/
def execMax (d a b : BitVec 5) (s : State) : Host.Outcome State Fault Refusal :=
  s.alu2 d a b 1 (fun x y => if x.toInt ≤ y.toInt then y else x)

/-- Unsigned minimum (05 R119). -/
def execMinu (d a b : BitVec 5) (s : State) : Host.Outcome State Fault Refusal :=
  s.alu2 d a b 1 (fun x y => if x.toNat ≤ y.toNat then x else y)

/-- Unsigned maximum (05 R119). -/
def execMaxu (d a b : BitVec 5) (s : State) : Host.Outcome State Fault Refusal :=
  s.alu2 d a b 1 (fun x y => if x.toNat ≤ y.toNat then y else x)

/-- 1 if signed x < y (05 R119). -/
def execSlt (d a b : BitVec 5) (s : State) : Host.Outcome State Fault Refusal :=
  s.alu2 d a b 1 (fun x y => boolWord (Rel.lt.word true x y))

/-- 1 if unsigned x < y (05 R119). -/
def execSltu (d a b : BitVec 5) (s : State) : Host.Outcome State Fault Refusal :=
  s.alu2 d a b 1 (fun x y => boolWord (Rel.lt.word false x y))

/-- Leading zero bits (05 R119). -/
def execClz (d a : BitVec 5) (s : State) : Host.Outcome State Fault Refusal :=
  s.alu1 d a (leadingZeros)

/-- Trailing zero bits (05 R119). -/
def execCtz (d a : BitVec 5) (s : State) : Host.Outcome State Fault Refusal :=
  s.alu1 d a (trailingZeros)

/-- 1 bits (05 R119). -/
def execPopc (d a : BitVec 5) (s : State) : Host.Outcome State Fault Refusal :=
  s.alu1 d a (onesOf)

/-- Sign-extend the low byte (05 R119). -/
def execSextB (d a : BitVec 5) (s : State) : Host.Outcome State Fault Refusal :=
  s.alu1 d a (signLow 8)

/-- Sign-extend the low half (05 R119). -/
def execSextH (d a : BitVec 5) (s : State) : Host.Outcome State Fault Refusal :=
  s.alu1 d a (signLow 16)

/-- Sign-extend the low word (05 R119). -/
def execSextW (d a : BitVec 5) (s : State) : Host.Outcome State Fault Refusal :=
  s.alu1 d a (signLow 32)

/-- Zero-extend the low byte (05 R119). -/
def execZextB (d a : BitVec 5) (s : State) : Host.Outcome State Fault Refusal :=
  s.alu1 d a (zeroLow 8)

/-- Zero-extend the low half (05 R119). -/
def execZextH (d a : BitVec 5) (s : State) : Host.Outcome State Fault Refusal :=
  s.alu1 d a (zeroLow 16)

/-- Zero-extend the low word (05 R119). -/
def execZextW (d a : BitVec 5) (s : State) : Host.Outcome State Fault Refusal :=
  s.alu1 d a (zeroLow 32)

/-- addi (05 R121). -/
def execAddi (d a : BitVec 5) (imm : BitVec 16) (s : State) : Host.Outcome State Fault Refusal :=
  s.alu1 d a (fun x => x + imm.signExtend 64)

/-- andi (05 R121). -/
def execAndi (d a : BitVec 5) (imm : BitVec 16) (s : State) : Host.Outcome State Fault Refusal :=
  s.alu1 d a (fun x => x &&& imm.setWidth 64)

/-- ori (05 R121). -/
def execOri (d a : BitVec 5) (imm : BitVec 16) (s : State) : Host.Outcome State Fault Refusal :=
  s.alu1 d a (fun x => x ||| imm.setWidth 64)

/-- xori (05 R121). -/
def execXori (d a : BitVec 5) (imm : BitVec 16) (s : State) : Host.Outcome State Fault Refusal :=
  s.alu1 d a (fun x => x ^^^ imm.setWidth 64)

/-- slti (05 R121). -/
def execSlti (d a : BitVec 5) (imm : BitVec 16) (s : State) : Host.Outcome State Fault Refusal :=
  s.alu1 d a (fun x => boolWord (Rel.lt.word true x (imm.signExtend 64)))

/-- lih (05 R121). -/
def execLih (d a : BitVec 5) (imm : BitVec 16) (s : State) : Host.Outcome State Fault Refusal :=
  s.alu1 d a (fun x => (x <<< 16) ||| imm.setWidth 64)

/-- slli (05 R121). -/
def execSlli (d a : BitVec 5) (sh : BitVec 6) (s : State) : Host.Outcome State Fault Refusal :=
  s.alu1 d a (fun x => x <<< sh.toNat)

/-- srli (05 R121). -/
def execSrli (d a : BitVec 5) (sh : BitVec 6) (s : State) : Host.Outcome State Fault Refusal :=
  s.alu1 d a (fun x => x >>> sh.toNat)

/-- srai (05 R121). -/
def execSrai (d a : BitVec 5) (sh : BitVec 6) (s : State) : Host.Outcome State Fault Refusal :=
  s.alu1 d a (fun x => x.sshiftRight sh.toNat)

/-- a[ad] := a[as] + s[sa] (05 R123). -/
def execAadd (d a : BitVec 4) (b : BitVec 5) (s : State) : Host.Outcome State Fault Refusal :=
  .next (s.landA d (s.me.ga a + s.me.gs b))

/-- a[ad] := a[as] (05 R123). -/
def execAmov (d a : BitVec 4) (s : State) : Host.Outcome State Fault Refusal :=
  .next (s.landA d (s.me.ga a))

/-- s[sd] := a[as] (05 R123). -/
def execMovsa (d : BitVec 5) (a : BitVec 4) (s : State) : Host.Outcome State Fault Refusal :=
  .next (s.landS d (s.me.ga a) 1)

/-- a[ad] := s[sa] (05 R123). -/
def execMovas (d : BitVec 4) (a : BitVec 5) (s : State) : Host.Outcome State Fault Refusal :=
  .next (s.landA d (s.me.gs a))

/-- a[ad] := a[as] + SignExtend(imm16, 16) (05 R123). -/
def execAaddi (d a : BitVec 4) (imm : BitVec 16) (s : State) : Host.Outcome State Fault Refusal :=
  .next (s.landA d (s.me.ga a + imm.signExtend 64))

/-- cmpEq (05 R124). -/
def execCmpEq (p : BitVec 3) (a b : BitVec 5) (s : State) : Host.Outcome State Fault Refusal :=
  s.cmpP p a b .eq true

/-- cmpNe (05 R124). -/
def execCmpNe (p : BitVec 3) (a b : BitVec 5) (s : State) : Host.Outcome State Fault Refusal :=
  s.cmpP p a b .ne true

/-- cmpLt (05 R124). -/
def execCmpLt (p : BitVec 3) (a b : BitVec 5) (s : State) : Host.Outcome State Fault Refusal :=
  s.cmpP p a b .lt true

/-- cmpGe (05 R124). -/
def execCmpGe (p : BitVec 3) (a b : BitVec 5) (s : State) : Host.Outcome State Fault Refusal :=
  s.cmpP p a b .ge true

/-- cmpLtu (05 R124). -/
def execCmpLtu (p : BitVec 3) (a b : BitVec 5) (s : State) : Host.Outcome State Fault Refusal :=
  s.cmpP p a b .lt false

/-- cmpGeu (05 R124). -/
def execCmpGeu (p : BitVec 3) (a b : BitVec 5) (s : State) : Host.Outcome State Fault Refusal :=
  s.cmpP p a b .ge false

/-- p[pd] := p[pa] and p[pb] (05 R124). -/
def execPand (d a b : BitVec 3) (s : State) : Host.Outcome State Fault Refusal :=
  .next (s.landP d (s.me.gp a && s.me.gp b))

/-- p[pd] := p[pa] or p[pb] (05 R124). -/
def execPor (d a b : BitVec 3) (s : State) : Host.Outcome State Fault Refusal :=
  .next (s.landP d (s.me.gp a || s.me.gp b))

/-- p[pd] := not p[pa] (05 R124). -/
def execPnot (d a : BitVec 3) (s : State) : Host.Outcome State Fault Refusal :=
  .next (s.landP d (!s.me.gp a))

end Sys2Proof.Machine
end

