-- ==== Sys2Proof/Machine/Special.lean ====
section
/-! DEFINITION. The special functions of 06 R164, correctly rounded: each value is bracketed by two
integers at a binary scale that is refined until its leading 45 bits are settled (log entry 13). -/

namespace Sys2Proof.Machine

open Sys2Proof

/-- Integer square root, bit by bit from bit `k - 1`. -/
def isqrt (n : Nat) : Nat → Nat → Nat
  | 0, r => r
  | k + 1, r => if (r + 2 ^ k) * (r + 2 ^ k) ≤ n then isqrt n k (r + 2 ^ k) else isqrt n k r

/-- Sum of z^(2i+1) / (2i+1) at scale 2^K: the series of atanh z, by `p` = z^(2i+1) and `q` = z². -/
def atanhSum (K q : Nat) : Nat → Nat → Nat → Nat
  | 0, _, _ => 0
  | f + 1, i, p => if p = 0 then 0 else p / (2 * i + 1) + atanhSum K q f (i + 1) (p * q / 2 ^ K)

/-- Brackets of ln((1 + z)/(1 - z)) = 2 atanh z for z = n / d at most 1/3, at scale 2^K. -/
def lnRatio (K n d : Nat) : Nat × Nat :=
  let z := n * 2 ^ K / d
  let v := 2 * atanhSum K (z * z / 2 ^ K) (K + 2) 0 z
  (v, v + 8 * K + 16)

/-- Brackets of ln 2 at scale 2^K. -/
def ln2At (K : Nat) : Nat × Nat := lnRatio K 1 3

/-- Taylor sum of e^z at scale 2^K from term `t` on. -/
def expSum (K z : Nat) : Nat → Nat → Nat → Nat
  | 0, _, _ => 0
  | f + 1, i, t => if t = 0 then 0 else t + expSum K z f (i + 1) (t * z / 2 ^ K / (i + 1))

/-- Brackets of e^z for z in [zl, zh], both below 2^K, at scale 2^K. -/
def expAt (K zl zh : Nat) : Nat × Nat :=
  (expSum K zl (K + 8) 0 (2 ^ K), expSum K zh (K + 8) 0 (2 ^ K) + 4 * K + 64)

/-- Brackets of e^-y at scale 2^K for y = n / d: e^-y = 2^-k × e^(k ln 2 - y) with k - 1 below
y / ln 2. Brackets of a value too small for the scale are 0 and 1. -/
def expNeg (K n d : Nat) : Nat × Nat :=
  if K * d < n then (0, 1) else
  let G := K + 32
  let (l, h) := ln2At G
  let y := n * 2 ^ G / d
  let k := y / l + 1
  let zl := k * l - (y + 1)
  let zh := k * h - y
  let (a, b) := expAt G zl zh
  (a / 2 ^ (32 + k), b / 2 ^ (32 + k) + 1)

/-- A value in (lo, hi) at scale 2^K stands for itself once its leading 45 bits are settled: twice
those bits plus one, over their scale doubled. -/
def settled (K lo hi : Nat) : Option (Nat × Nat) :=
  if lo = 0 then none else
  let s := Nat.log2 lo - 44
  if lo / 2 ^ s = (hi - 1) / 2 ^ s then some (2 * (lo / 2 ^ s) + 1, 2 ^ (K + 1 - s)) else none

/-- Refine a bracket, doubling the scale while fuel lasts. -/
def refine (f : Nat → Nat × Nat) : Nat → Nat → Nat × Nat
  | 0, K => ((f K).1 + 1, 2 ^ K)
  | n + 1, K =>
    let (lo, hi) := f K
    match settled K lo hi with
    | some r => r
    | none => refine f n (2 * K)

/-- A nonzero value below every format's grid. -/
def tiny : Nat × Nat := (1, 2 ^ 400)
/-- A finite value above every format's range. -/
def huge : Nat × Nat := (2 ^ 301 + 1, 2)

/-- 2^x for x = ±m × 2^e not an integer, as n / d. -/
def exp2Q (neg : Bool) (m : Nat) (e : Int) : Nat × Nat :=
  let d := 2 ^ (-e).toNat
  if 400 * d < m then (if neg then tiny else huge) else
  let k := m / d
  let r := m % d
  -- x = k + r/d, or -(k + 1) + (d - r)/d
  let fr := if neg then d - r else r
  let (n, q) := refine (fun K =>
      let (l, h) := ln2At (K + 16)
      let (a, b) := expAt (K + 16) (fr * l / d) (fr * h / d + 1)
      (max (a / 2 ^ 16) (2 ^ K), min (b / 2 ^ 16 + 1) (2 ^ (K + 1)))) 5 128
  if neg then (n, q * 2 ^ (k + 1)) else (n * 2 ^ k, q)

/-- |log2 x| for x = m × 2^e no power of two, and its sign. -/
def log2Sp (m : Nat) (e : Int) : Bool × Nat × Nat :=
  let k := Nat.log2 m
  let whole : Int := k + e
  let p := 2 ^ k
  let (n, q) := refine (fun K =>
      let G := K + 32
      let (a, b) := lnRatio G (m - p) (m + p)
      let (l, h) := ln2At G
      let lo := a * 2 ^ G / h
      let hi := b * 2 ^ G / l + 1
      let w : Int := whole * (2 ^ G : Nat)
      let x := w + lo
      let y := w + hi
      if whole < 0 then ((-y).toNat / 2 ^ 32, (-x).toNat / 2 ^ 32 + 1)
      else (x.toNat / 2 ^ 32, y.toNat / 2 ^ 32 + 1)) 5 160
  (decide (whole < 0), n, q)

/-- tanh of |x| for x = n / d. -/
def tanhQ (n d : Nat) : Nat × Nat :=
  refine (fun K =>
    let (a, b) := expNeg K (2 * n) d
    let lo := (2 ^ K - b) * 2 ^ K / (2 ^ K + b)
    let hi := (2 ^ K - a) * 2 ^ K / (2 ^ K + a) + 1
    (lo, min (min hi (2 ^ K)) (n * 2 ^ K / d + 1))) 5 192

/-- 1 / (1 + e^-x) for x = ±n / d. -/
def sigmQ (neg : Bool) (n d : Nat) : Nat × Nat :=
  if neg ∧ 300 * d < n then tiny else
  refine (fun K =>
    let (a, b) := expNeg K n d
    if neg then (a * 2 ^ K / (2 ^ K + a), min (b * 2 ^ K / (2 ^ K + b) + 1) (2 ^ (K - 1)))
    else (max (2 ^ K * 2 ^ K / (2 ^ K + b)) (2 ^ (K - 1)), min (2 ^ K * 2 ^ K / (2 ^ K + a) + 1) (2 ^ K))) 5 512

/-- Write ±n / d. -/
def writeQ (f : Fp) (m : Mode) (neg : Bool) (q : Nat × Nat) (g : Word) : Nat × Word :=
  if q.1 = 0 then (f.signed neg 0, g) else f.roundTo m neg q.1 q.2 g

/-- vfrcp: 1/x (06 R164). -/
def spRcp (f : Fp) (m : Mode) (x : Exact) (g : Word) : Nat × Word :=
  match x with
  | .nan => f.write m .nan g
  | .inf s => f.write m (.fin s 0 0) g
  | .fin s 0 _ => f.write m (.inf s) g
  | .fin s n e => writeQ f m s (if 0 ≤ e then (1, n * 2 ^ e.toNat) else (2 ^ (-e).toNat, n)) g

/-- vfrsq: 1/√x (06 R164). -/
def spRsq (f : Fp) (m : Mode) (x : Exact) (g : Word) : Nat × Word :=
  match x with
  | .nan => f.write m .nan g
  | .inf s => if s then f.write m .nan g else f.write m (.fin false 0 0) g
  | .fin s 0 _ => f.write m (.inf s) g
  | .fin true _ _ => f.write m .nan g
  | .fin false n e =>
    let (n, e) := if e % 2 = 0 then (n, e) else (2 * n, e - 1)
    let K := 128
    let r := isqrt (2 ^ (2 * K) / n) (K + 2) 0
    let q := if r * r * n = 2 ^ (2 * K) then (r, 2 ^ K) else (2 * r + 1, 2 ^ (K + 1))
    let h := e / 2
    writeQ f m false (if 0 ≤ h then (q.1, q.2 * 2 ^ h.toNat) else (q.1 * 2 ^ (-h).toNat, q.2)) g

/-- vfexp2: 2^x (06 R164). -/
def spExp2 (f : Fp) (m : Mode) (x : Exact) (g : Word) : Nat × Word :=
  match x with
  | .nan => f.write m .nan g
  | .inf s => if s then f.write m (.fin false 0 0) g else f.write m (.inf false) g
  | .fin _ 0 _ => f.write m (.fin false 1 0) g
  | .fin s n e =>
    let (a, d) := ratio n e
    if a % d = 0 then
      let k := min (a / d) 400
      writeQ f m false (if s then (1, 2 ^ k) else (2 ^ k, 1)) g
    else writeQ f m false (exp2Q s n e) g

/-- vflog2: log2 x (06 R164). -/
def spLog2 (f : Fp) (m : Mode) (x : Exact) (g : Word) : Nat × Word :=
  match x with
  | .nan => f.write m .nan g
  | .inf s => if s then f.write m .nan g else f.write m (.inf false) g
  | .fin _ 0 _ => f.write m (.inf true) g
  | .fin true _ _ => f.write m .nan g
  | .fin false n e =>
    if n = 2 ^ Nat.log2 n then f.write m (Exact.ofInt ((Nat.log2 n : Int) + e)) g
    else let (s, q) := log2Sp n e; writeQ f m s q g

/-- vftanh (06 R164). -/
def spTanh (f : Fp) (m : Mode) (x : Exact) (g : Word) : Nat × Word :=
  match x with
  | .nan => f.write m .nan g
  | .inf s => f.write m (.fin s 1 0) g
  | .fin s 0 _ => f.write m (.fin s 0 0) g
  | .fin s n e =>
    let (a, d) := ratio n e
    writeQ f m s (if 64 * d < a then (2 ^ 101 - 1, 2 ^ 101) else tanhQ a d) g

/-- vfsigm: 1/(1 + e^-x) (06 R164). -/
def spSigm (f : Fp) (m : Mode) (x : Exact) (g : Word) : Nat × Word :=
  match x with
  | .nan => f.write m .nan g
  | .inf s => f.write m (if s then .fin false 0 0 else .fin false 1 0) g
  | .fin _ 0 _ => f.write m (.fin false 1 (-1)) g
  | .fin s n e =>
    let (a, d) := ratio n e
    writeQ f m false (if !s && decide (128 * d < a) then (2 ^ 101 - 1, 2 ^ 101) else sigmQ s a d) g

end Sys2Proof.Machine
end

