-- ==== Sys2Proof/Machine/Vector.lean ====
section
/-! DEFINITION. LGOPs: what each vector operation does in its lane group (06 R153 to R180). -/

namespace Sys2Proof.Machine

open Sys2Proof

/-! ### Operands (04 R93; 06 R154 to R157) -/

/-- A v register field with RBASE added (04 R93). -/
def State.vreg (s : State) (r : BitVec 5) : Nat := (r.toNat + s.cur.rbase.toNat) % 32

/-- Lane `i` of a list of lanes. -/
def laneAt (l : List Lane) (i : Nat) : Lane := (l[i]?).getD 0

/-- The 16 lanes of register `r` of group `g`. -/
def Core.lanesOf (c : Core) (g r : Nat) : List Lane := (seqFrom 0 16).map (c.gv g r)

/-- The lanes of a v register field in the acting group. -/
def State.vsrc (s : State) (r : BitVec 5) : List Lane := s.me.lanesOf s.cur.group (s.vreg r)

/-- The first source: a v register, or 16 elements popped from a port (06 R157 (a)). -/
def State.srcA (s : State) (a : BitVec 5) (qa : Bool) : State × List Lane :=
  if qa then s.popLanes s.cur.core (a.toNat % 8) else (s, s.vsrc a)

/-- Active lanes of the acting group, ascending (06 R155). -/
def State.act (s : State) : List Nat := (seqFrom 0 16).filter (s.me.active s.cur.group s.cur.msel)

/-- Bytes of a stream element in the format a code names (06 R157). -/
def codeBytes (code : Nat) : Nat :=
  if code = 0 ∨ code = 3 then 4 else if code = 1 ∨ code = 2 ∨ code = 4 ∨ code = 18 then 2 else 1

/-- Stream operand checks (cause 0x2C). -/
def chkPorts (d a : BitVec 5) (qd qa : Bool) (db sb : Nat) (s : State) : Option Use :=
  firstUse [if qa then s.portUse (a.toNat % 8) false sb else none,
            if qd then s.portUse (d.toNat % 8) true db else none]

/-- Land lane results `lat` vc later: in the active lanes of a v register, or pushed, inactive lanes as 0
(06 R155, R157 (b)). -/
def State.vput (s : State) (d : BitVec 5) (qd : Bool) (lat : Nat) (l : List (Nat × Lane)) : State :=
  if qd then s.land (.push (d.toNat % 8) 16) (.lanes ((seqFrom 0 16).map fun i => (i, SMap.get l 0 i))) lat
  else s.land .lanes (.lanes (l.map fun x => (vkey s.cur.group (s.vreg d) x.1, x.2))) lat

/-- Results of the listed lanes in ascending order, with the draws they make (06 R158). -/
def drawLanes (f : Nat → Word → Lane × Word) : List Nat → Word → List (Nat × Lane) × Word
  | [], g => ([], g)
  | i :: r, g =>
    let (v, g) := f i g
    let (l, g) := drawLanes f r g
    ((i, v) :: l, g)

/-- The random source of the acting group. -/
def State.rng (s : State) : Word := s.me.rndOf s.cur.group
/-- Set it. -/
def State.setRng (s : State) (g : Word) : State := s.upd fun c => c.setRnd s.cur.group g

/-- An element-wise operation: the lane function gets lane number, first source and random state. -/
def State.vmap (s : State) (d a : BitVec 5) (qd qa : Bool) (db sb lat : Nat) (f : Nat → Lane → Word → Lane × Word) :
    Host.Outcome State Fault Refusal :=
  guarded s (chkPorts d a qd qa db sb s)
    (let (t, xs) := s.srcA a qa
     let (l, g) := drawLanes (fun i w => f i (laneAt xs i) w) s.act s.rng
     (t.setRng g).vput d qd lat l)

/-- Element bytes of ET. -/
def etBytes (et : BitVec 3) : Nat := widthOf et / 8

/-- An element-wise operation of one element type that draws nothing, latency 2. -/
def State.vbit (s : State) (d a : BitVec 5) (et : BitVec 3) (qd qa : Bool) (f : Nat → Lane → Lane) :
    Host.Outcome State Fault Refusal :=
  s.vmap d a qd qa (etBytes et) (etBytes et) 2 fun i x w => (f i x, w)

/-- A binary integer operation. -/
def State.vint2 (s : State) (d a b : BitVec 5) (et : BitVec 3) (qd qa : Bool) (f : Int → Int → Lane) :
    Host.Outcome State Fault Refusal :=
  let ys := s.vsrc b
  s.vbit d a et qd qa fun i x => f (elemInt et x) (elemInt et (laneAt ys i))

/-- A binary operation on element bits. -/
def State.vbit2 (s : State) (d a b : BitVec 5) (et : BitVec 3) (qd qa : Bool) (f : Nat → Nat → Nat) :
    Host.Outcome State Fault Refusal :=
  let ys := s.vsrc b
  s.vbit d a et qd qa fun i x => laneOf et (f (elemBits et x) (elemBits et (laneAt ys i)) % 2 ^ widthOf et)

/-- An integer as an element, modulo 2^w. -/
def wrapInt (et : BitVec 3) (x : Int) : Lane := laneOf et ((x % (2 ^ widthOf et : Nat)).toNat)

/-- Arithmetic shift right of element bits: copies of the top element bit (06 R160). -/
def sraBits (w x c : Nat) : Nat :=
  let v := signedOf w x
  (((if w ≤ c then (if v < 0 then -1 else 0) else v / (2 ^ c : Nat)) : Int) % (2 ^ w : Nat)).toNat

/-- A compare into a mask (06 R161, R163): bits of active lanes. -/
def State.vcmp (s : State) (kd : BitVec 3) (a : BitVec 5) (et : BitVec 3) (qa : Bool) (f : Nat → Lane → Bool) :
    Host.Outcome State Fault Refusal :=
  guarded s (chkPorts 0 a false qa 0 (etBytes et) s)
    (let (t, xs) := s.srcA a qa
     t.land (.k (8 * s.cur.group + kd.toNat))
       (.mask (selOf s.act) (maskOf (s.act.map fun i => (i, f i (laneAt xs i))))) 2)

/-- An integer compare. -/
def State.vcmpI (s : State) (kd : BitVec 3) (a b : BitVec 5) (et : BitVec 3) (qa : Bool) (r : Rel) :
    Host.Outcome State Fault Refusal :=
  let ys := s.vsrc b
  s.vcmp kd a et qa fun i x => r.int (elemInt et x) (elemInt et (laneAt ys i))

/-- A floating-point compare. -/
def State.vcmpF (s : State) (kd : BitVec 3) (a b : BitVec 5) (et : BitVec 3) (qa : Bool) (r : Rel) :
    Host.Outcome State Fault Refusal :=
  let ys := s.vsrc b
  s.vcmp kd a et qa fun i x => r.num (elemNum et s.cur.ftz x) (elemNum et s.cur.ftz (laneAt ys i))

/-- A floating-point operation on exact values, written once by the prefix mode (06 R162). -/
def State.vfp (s : State) (d a : BitVec 5) (et : BitVec 3) (qd qa : Bool) (lat : Nat) (f : Nat → Exact → Exact) :
    Host.Outcome State Fault Refusal :=
  s.vmap d a qd qa (etBytes et) (etBytes et) lat fun i x w =>
    let (b, w) := (fpOf et).write s.cur.mode (f i (elemNum et s.cur.ftz x)) w
    (laneOf et b, w)

/-- The value of lane `i` of a register in the acting group. -/
def State.vnum (s : State) (r : BitVec 5) (et : BitVec 3) (i : Nat) : Exact :=
  elemNum et s.cur.ftz (laneAt (s.vsrc r) i)

/-- x < y, with −0 below +0 (06 R163). -/
def Exact.below (x y : Exact) : Bool := decide (x.cmp y < 0) || (x.isZero && y.isZero && x.sign && !y.sign)

/-- The smaller or the larger value; a NaN gives way to a number (06 R163). -/
def Exact.pick (larger : Bool) (x y : Exact) : Exact :=
  if x = .nan then y else if y = .nan then x else if (if larger then y.below x else x.below y) then x else y

/-- A special function (06 R164). -/
def State.vspecial (s : State) (d a : BitVec 5) (et : BitVec 3) (qd qa : Bool)
    (f : Fp → Mode → Exact → Word → Nat × Word) : Host.Outcome State Fault Refusal :=
  s.vmap d a qd qa (etBytes et) (etBytes et) 8 fun _ x w =>
    let (b, w) := f (fpOf et) s.cur.mode (elemNum et s.cur.ftz x) w
    (laneOf et b, w)

/-- TwqLane (06 R168). -/
def twqLane (m : Mode) (code : Nat) (x : Nat) (shift : Int) (g : Word) : Lane × Word :=
  match (readMatrix (if code = 5 then 8 else code) m.ftz x).num' with
  | .nan => (0x177, g)
  | .inf _ => (0x177, g)
  | .fin s n e =>
    let k := e + shift
    let big : Bool := n ≠ 0 ∧ 128 < k + (Nat.log2 n : Int)
    if big then (if s then 0xEE else 0x66, g)
    else if n = 0 ∨ k + (Nat.log2 n : Int) < -64 then
      let (v, g) := if n = 0 then (0, g) else roundSet tw8Set m.rnd s 1 (2 ^ 64) g
      (BitVec.ofNat 32 (tw8Byte v), g)
    else
      let (a, b) := ratio n k
      if 128 * b < a then (if s then 0xEE else 0x66, g)
      else let (v, g) := roundSet tw8Set m.rnd s a b g
           (BitVec.ofNat 32 (tw8Byte v), g)

/-- x × 2^(E − 127) (06 R169). -/
def Exact.scale (x : Exact) (e8 : Nat) : Exact :=
  if e8 = 255 then .nan else match x with | .fin s m e => .fin s m (e + e8 - 127) | y => y

/-! ### Blocks (06 R170 to R172) -/

/-- Byte b of a block held in lanes (06 R170). -/
def blockByte (l : List Lane) (b : Nat) : Nat := nbits (laneAt l (b / 4)).toNat (8 * (b % 4)) 8

/-- Lane i of the block held in a register. -/
def blockLane (l : List Lane) (i : Nat) : Exact :=
  bfpLane (blockByte l 0) (nbit (blockByte l 2 + 256 * blockByte l 3) i)
    (blockByte l (4 + 2 * i) + 256 * blockByte l (5 + 2 * i))

/-- Greatest ⌊log2 |x|⌋ + 128 over finite nonzero values, or 0 (06 R171). -/
def blockTop (vs : List Exact) : Int :=
  let es := vs.filterMap fun v => match v with | .fin _ m e => if m = 0 then none else some ((Nat.log2 m : Int) + e + 128) | _ => none
  match es with | [] => 0 | e :: r => r.foldl max e

/-! ### Reductions (06 R174, R175) -/

/-- One level of the tree: adjacent nodes combine; an absent node gives way. -/
def pairUp {α : Type} (op : α → α → Word → α × Word) : List (Option α) → Word → List (Option α) × Word
  | some a :: some b :: r, g =>
    let (v, g) := op a b g
    let (l, g) := pairUp op r g
    (some v :: l, g)
  | none :: x :: r, g => let (l, g) := pairUp op r g; (x :: l, g)
  | x :: none :: r, g => let (l, g) := pairUp op r g; (x :: l, g)
  | l, g => (l, g)

/-- Reduce(x[0..15], op). -/
def reduceTree {α : Type} (op : α → α → Word → α × Word) (l : List (Option α)) (g : Word) : Option α × Word :=
  let (l, g) := pairUp op l g
  let (l, g) := pairUp op l g
  let (l, g) := pairUp op l g
  let (l, g) := pairUp op l g
  ((l.head?).getD none, g)

/-- Running results over the active lanes. The first active lane's value is no result of a rounding and is
written as it is, under FTZ 1 also (DEDUCED, log 35). -/
def scanLanes {α : Type} (op : α → α → Word → α × Word) : Option α → List (Nat × α) → Word → List (Nat × α) × Word
  | _, [], g => ([], g)
  | none, (i, x) :: r, g => let (l, g) := scanLanes op (some x) r g; ((i, x) :: l, g)
  | some y, (i, x) :: r, g =>
    let (v, g) := op y x g
    let (l, g) := scanLanes op (some v) r g
    ((i, v) :: l, g)

/-- Combining two floating-point elements, as bits: 0 add, 1 larger, 2 smaller. -/
def fpNode (f : Fp) (m : Mode) (kind : Nat) (x y : Nat) (g : Word) : Nat × Word :=
  let a := f.read m.ftz x
  let b := f.read m.ftz y
  f.write m (match kind with | 0 => Exact.add m.rnd a b | 1 => Exact.pick true a b | _ => Exact.pick false a b) g

/-- A NaN is written in its canonical form (03 R61). -/
def canonNan (f : Fp) (x : Nat) : Nat := if f.read false x = .nan then f.nanBits else x

/-- Combining two integers: 0 add, 1 larger, 2 smaller. -/
def intNode (kind : Nat) (x y : Int) (g : Word) : Int × Word :=
  (match kind with | 0 => x + y | 1 => max x y | _ => min x y, g)

/-- The active lanes of a list, others absent. -/
def State.present {α : Type} (s : State) (f : Nat → α) : List (Option α) :=
  (seqFrom 0 16).map fun i => if s.me.active s.cur.group s.cur.msel i then some (f i) else none

/-- vredadd, vredmax, vredmin (06 R174). -/
def State.vreduce (s : State) (d a : BitVec 5) (et : BitVec 3) (kind : Nat) : Host.Outcome State Fault Refusal :=
  let xs := s.vsrc a
  let (v, g) : Option Lane × Word :=
    if et.toNat ≤ 2 then
      let (r, g) := reduceTree (fpNode (fpOf et) s.cur.mode kind) (s.present fun i => elemBits et (laneAt xs i)) s.rng
      (r.map fun b => laneOf et (canonNan (fpOf et) b), g)
    else
      let (r, g) := reduceTree (intNode kind) (s.present fun i => elemInt et (laneAt xs i)) s.rng
      (r.map (fitInt et s.cur.sat), g)
  .next (match v with
    | none => s
    | some v => (s.setRng g).vput d false 4 (s.act.map fun i => (i, v)))

/-- Whole-lane moves within or between groups. -/
def State.vmove (s : State) (d : BitVec 5) (lat : Nat) (f : Nat → Lane) : Host.Outcome State Fault Refusal :=
  .next (s.vput d false lat (s.act.map fun i => (i, f i)))

/-- A mask result: bits of active lanes change (06 R178). -/
def State.kput (s : State) (kd : BitVec 3) (v : BitVec 16) : Host.Outcome State Fault Refusal :=
  .next (s.land (.k (8 * s.cur.group + kd.toNat)) (.mask (selOf s.act) v) 2)

/-- A mask of the acting group. -/
def State.kreg (s : State) (k : BitVec 3) : BitVec 16 := s.me.gk s.cur.group k.toNat

/-- The lane that vmovi writes (06 R179). -/
def movImm (et : BitVec 3) (imm : BitVec 15) : Lane :=
  match et.toNat with
  | 0 => imm.setWidth 32 <<< 17
  | 1 | 2 => imm.setWidth 32 <<< 1
  | 6 => (imm.setWidth 8).setWidth 32
  | _ => wrapInt et imm.toInt

/-- Draw(): one lane's random value (06 R180). -/
def drawRand (et : BitVec 3) (g : Word) : Lane × Word :=
  let g := randStep g
  let b : BitVec 32 := (g * 0x9E3779B97F4A7C15).extractLsb' 32 32
  (if et = 3 then b else BitVec.ofNat 32 (fp32.write {} (.fin false (b.toNat / 256) (-24)) 0).1, g)

/-- vnop: the group does nothing (04 R94). -/
def execVnop  (s : State) : Host.Outcome State Fault Refusal :=
  .next s

/-- Sum, fitted to the element (06 R160). -/
def execVadd (d a b : BitVec 5) (et : BitVec 3) (qd qa : Bool) (s : State) : Host.Outcome State Fault Refusal :=
  s.vint2 d a b et qd qa fun x y => fitInt et s.cur.sat (x + y)

/-- Difference, fitted to the element (06 R160). -/
def execVsub (d a b : BitVec 5) (et : BitVec 3) (qd qa : Bool) (s : State) : Host.Outcome State Fault Refusal :=
  s.vint2 d a b et qd qa fun x y => fitInt et s.cur.sat (x - y)

/-- Product, fitted to the element (06 R160). -/
def execVmul (d a b : BitVec 5) (et : BitVec 3) (qd qa : Bool) (s : State) : Host.Outcome State Fault Refusal :=
  s.vint2 d a b et qd qa fun x y => fitInt et s.cur.sat (x * y)

/-- Upper w bits of the product (06 R160). -/
def execVmulh (d a b : BitVec 5) (et : BitVec 3) (qd qa : Bool) (s : State) : Host.Outcome State Fault Refusal :=
  s.vint2 d a b et qd qa fun x y => wrapInt et (x * y / (2 ^ widthOf et : Nat))

/-- The smaller (06 R160). -/
def execVmin (d a b : BitVec 5) (et : BitVec 3) (qd qa : Bool) (s : State) : Host.Outcome State Fault Refusal :=
  s.vint2 d a b et qd qa fun x y => wrapInt et (min x y)

/-- The larger (06 R160). -/
def execVmax (d a b : BitVec 5) (et : BitVec 3) (qd qa : Bool) (s : State) : Host.Outcome State Fault Refusal :=
  s.vint2 d a b et qd qa fun x y => wrapInt et (max x y)

/-- Bitwise and of the element bits (06 R160). -/
def execVand (d a b : BitVec 5) (et : BitVec 3) (qd qa : Bool) (s : State) : Host.Outcome State Fault Refusal :=
  s.vbit2 d a b et qd qa fun x y => x &&& y

/-- Bitwise or of the element bits (06 R160). -/
def execVor (d a b : BitVec 5) (et : BitVec 3) (qd qa : Bool) (s : State) : Host.Outcome State Fault Refusal :=
  s.vbit2 d a b et qd qa fun x y => x ||| y

/-- Bitwise exclusive or of the element bits (06 R160). -/
def execVxor (d a b : BitVec 5) (et : BitVec 3) (qd qa : Bool) (s : State) : Host.Outcome State Fault Refusal :=
  s.vbit2 d a b et qd qa fun x y => x ^^^ y

/-- Complement of the element bits (06 R160). -/
def execVnot (d a : BitVec 5) (et : BitVec 3) (qd qa : Bool) (s : State) : Host.Outcome State Fault Refusal :=
  s.vbit d a et qd qa fun _ x => laneOf et (2 ^ widthOf et - 1 - elemBits et x)

/-- Shift left, zero fill; 0 when the count reaches w (06 R160). -/
def execVshl (d a b : BitVec 5) (et : BitVec 3) (qd qa : Bool) (s : State) : Host.Outcome State Fault Refusal :=
  s.vbit2 d a b et qd qa fun x c => if widthOf et ≤ c then 0 else x * 2 ^ c

/-- Shift right, zero fill; 0 when the count reaches w (06 R160). -/
def execVshr (d a b : BitVec 5) (et : BitVec 3) (qd qa : Bool) (s : State) : Host.Outcome State Fault Refusal :=
  s.vbit2 d a b et qd qa fun x c => if widthOf et ≤ c then 0 else x / 2 ^ c

/-- Shift right with copies of the top element bit (06 R160). -/
def execVsra (d a b : BitVec 5) (et : BitVec 3) (qd qa : Bool) (s : State) : Host.Outcome State Fault Refusal :=
  s.vbit2 d a b et qd qa fun x c => sraBits (widthOf et) x c

/-- Absolute value, fitted (06 R160). -/
def execVabs (d a : BitVec 5) (et : BitVec 3) (qd qa : Bool) (s : State) : Host.Outcome State Fault Refusal :=
  s.vbit d a et qd qa fun _ x => fitInt et s.cur.sat (elemInt et x).natAbs

/-- Negation, fitted (06 R160). -/
def execVneg (d a : BitVec 5) (et : BitVec 3) (qd qa : Bool) (s : State) : Host.Outcome State Fault Refusal :=
  s.vbit d a et qd qa fun _ x => fitInt et s.cur.sat (-(elemInt et x))

/-- The element of va where kc is 1, of vb where it is 0 (06 R161). -/
def execVsel (d a b : BitVec 5) (kc : BitVec 3) (et : BitVec 3) (qd qa : Bool) (s : State) : Host.Outcome State Fault Refusal :=
  let ys := s.vsrc b
  let k := s.kreg kc
  s.vbit d a et qd qa fun i x => laneOf et (elemBits et (if k.getLsbD i then x else laneAt ys i))

/-- Bits of kd := x eq y for active lanes (06 R161). -/
def execVcmpEq (kd : BitVec 3) (a b : BitVec 5) (et : BitVec 3) (qa : Bool) (s : State) : Host.Outcome State Fault Refusal :=
  s.vcmpI kd a b et qa .eq

/-- Bits of kd := x ne y for active lanes (06 R161). -/
def execVcmpNe (kd : BitVec 3) (a b : BitVec 5) (et : BitVec 3) (qa : Bool) (s : State) : Host.Outcome State Fault Refusal :=
  s.vcmpI kd a b et qa .ne

/-- Bits of kd := x lt y for active lanes (06 R161). -/
def execVcmpLt (kd : BitVec 3) (a b : BitVec 5) (et : BitVec 3) (qa : Bool) (s : State) : Host.Outcome State Fault Refusal :=
  s.vcmpI kd a b et qa .lt

/-- Bits of kd := x le y for active lanes (06 R161). -/
def execVcmpLe (kd : BitVec 3) (a b : BitVec 5) (et : BitVec 3) (qa : Bool) (s : State) : Host.Outcome State Fault Refusal :=
  s.vcmpI kd a b et qa .le

/-- Bits of kd := x gt y for active lanes (06 R161). -/
def execVcmpGt (kd : BitVec 3) (a b : BitVec 5) (et : BitVec 3) (qa : Bool) (s : State) : Host.Outcome State Fault Refusal :=
  s.vcmpI kd a b et qa .gt

/-- Bits of kd := x ge y for active lanes (06 R161). -/
def execVcmpGe (kd : BitVec 3) (a b : BitVec 5) (et : BitVec 3) (qa : Bool) (s : State) : Host.Outcome State Fault Refusal :=
  s.vcmpI kd a b et qa .ge

/-- x + y (06 R162). -/
def execVfadd (d a b : BitVec 5) (et : BitVec 3) (qd qa : Bool) (s : State) : Host.Outcome State Fault Refusal :=
  s.vfp d a et qd qa 4 fun i x => Exact.add s.cur.rnd x (s.vnum b et i)

/-- x − y (06 R162). -/
def execVfsub (d a b : BitVec 5) (et : BitVec 3) (qd qa : Bool) (s : State) : Host.Outcome State Fault Refusal :=
  s.vfp d a et qd qa 4 fun i x => Exact.add s.cur.rnd x (s.vnum b et i).neg

/-- x × y (06 R162). -/
def execVfmul (d a b : BitVec 5) (et : BitVec 3) (qd qa : Bool) (s : State) : Host.Outcome State Fault Refusal :=
  s.vfp d a et qd qa 4 fun i x => Exact.mul x (s.vnum b et i)

/-- x × y + z, rounded once (06 R162). -/
def execVfma (d a b c : BitVec 5) (et : BitVec 3) (qd qa : Bool) (s : State) : Host.Outcome State Fault Refusal :=
  s.vfp d a et qd qa 4 fun i x => Exact.add s.cur.rnd (Exact.mul x (s.vnum b et i)) (s.vnum c et i)

/-- x × y − z, rounded once (06 R162). -/
def execVfms (d a b c : BitVec 5) (et : BitVec 3) (qd qa : Bool) (s : State) : Host.Outcome State Fault Refusal :=
  s.vfp d a et qd qa 4 fun i x => Exact.add s.cur.rnd (Exact.mul x (s.vnum b et i)) (s.vnum c et i).neg

/-- z − x × y, rounded once (06 R162). -/
def execVfnma (d a b c : BitVec 5) (et : BitVec 3) (qd qa : Bool) (s : State) : Host.Outcome State Fault Refusal :=
  s.vfp d a et qd qa 4 fun i x => Exact.add s.cur.rnd (s.vnum c et i) (Exact.mul x (s.vnum b et i)).neg

/-- The smaller, by the NaN rules (06 R163). -/
def execVfmin (d a b : BitVec 5) (et : BitVec 3) (qd qa : Bool) (s : State) : Host.Outcome State Fault Refusal :=
  s.vfp d a et qd qa 2 fun i x => Exact.pick false x (s.vnum b et i)

/-- The larger, by the NaN rules (06 R163). -/
def execVfmax (d a b : BitVec 5) (et : BitVec 3) (qd qa : Bool) (s : State) : Host.Outcome State Fault Refusal :=
  s.vfp d a et qd qa 2 fun i x => Exact.pick true x (s.vnum b et i)

/-- x with sign 0 (06 R162). -/
def execVfabs (d a : BitVec 5) (et : BitVec 3) (qd qa : Bool) (s : State) : Host.Outcome State Fault Refusal :=
  s.vfp d a et qd qa 2 fun _ x => if x.sign then x.neg else x

/-- x with the sign inverted (06 R162). -/
def execVfneg (d a : BitVec 5) (et : BitVec 3) (qd qa : Bool) (s : State) : Host.Outcome State Fault Refusal :=
  s.vfp d a et qd qa 2 fun _ x => x.neg

/-- Bits of kd := x eq y for active lanes; with a NaN only ne holds (06 R163). -/
def execVfcmpEq (kd : BitVec 3) (a b : BitVec 5) (et : BitVec 3) (qa : Bool) (s : State) : Host.Outcome State Fault Refusal :=
  s.vcmpF kd a b et qa .eq

/-- Bits of kd := x ne y for active lanes; with a NaN only ne holds (06 R163). -/
def execVfcmpNe (kd : BitVec 3) (a b : BitVec 5) (et : BitVec 3) (qa : Bool) (s : State) : Host.Outcome State Fault Refusal :=
  s.vcmpF kd a b et qa .ne

/-- Bits of kd := x lt y for active lanes; with a NaN only ne holds (06 R163). -/
def execVfcmpLt (kd : BitVec 3) (a b : BitVec 5) (et : BitVec 3) (qa : Bool) (s : State) : Host.Outcome State Fault Refusal :=
  s.vcmpF kd a b et qa .lt

/-- Bits of kd := x le y for active lanes; with a NaN only ne holds (06 R163). -/
def execVfcmpLe (kd : BitVec 3) (a b : BitVec 5) (et : BitVec 3) (qa : Bool) (s : State) : Host.Outcome State Fault Refusal :=
  s.vcmpF kd a b et qa .le

/-- Bits of kd := x gt y for active lanes; with a NaN only ne holds (06 R163). -/
def execVfcmpGt (kd : BitVec 3) (a b : BitVec 5) (et : BitVec 3) (qa : Bool) (s : State) : Host.Outcome State Fault Refusal :=
  s.vcmpF kd a b et qa .gt

/-- Bits of kd := x ge y for active lanes; with a NaN only ne holds (06 R163). -/
def execVfcmpGe (kd : BitVec 3) (a b : BitVec 5) (et : BitVec 3) (qa : Bool) (s : State) : Host.Outcome State Fault Refusal :=
  s.vcmpF kd a b et qa .ge

/-- 1/x, correctly rounded (06 R164). -/
def execVfrcp (d a : BitVec 5) (et : BitVec 3) (qd qa : Bool) (s : State) : Host.Outcome State Fault Refusal :=
  s.vspecial d a et qd qa spRcp

/-- 1/√x, correctly rounded (06 R164). -/
def execVfrsq (d a : BitVec 5) (et : BitVec 3) (qd qa : Bool) (s : State) : Host.Outcome State Fault Refusal :=
  s.vspecial d a et qd qa spRsq

/-- 2^x, correctly rounded (06 R164). -/
def execVfexp2 (d a : BitVec 5) (et : BitVec 3) (qd qa : Bool) (s : State) : Host.Outcome State Fault Refusal :=
  s.vspecial d a et qd qa spExp2

/-- log2 x, correctly rounded (06 R164). -/
def execVflog2 (d a : BitVec 5) (et : BitVec 3) (qd qa : Bool) (s : State) : Host.Outcome State Fault Refusal :=
  s.vspecial d a et qd qa spLog2

/-- tanh x, correctly rounded (06 R164). -/
def execVftanh (d a : BitVec 5) (et : BitVec 3) (qd qa : Bool) (s : State) : Host.Outcome State Fault Refusal :=
  s.vspecial d a et qd qa spTanh

/-- 1/(1 + e^−x), correctly rounded (06 R164). -/
def execVfsigm (d a : BitVec 5) (et : BitVec 3) (qd qa : Bool) (s : State) : Host.Outcome State Fault Refusal :=
  s.vspecial d a et qd qa spSigm

/-- Convert to the format of the code (06 R165, R166). -/
def execVcvt (d a code : BitVec 5) (et : BitVec 3) (qd qa : Bool) (s : State) : Host.Outcome State Fault Refusal :=
  s.vmap d a qd qa (codeBytes code.toNat) (etBytes et) 3 fun _ x w =>
    convertTo code.toNat s.cur.mode (readEt et s.cur.ftz x) w

/-- Convert one weight per lane for TWQ (06 R168). -/
def execVcvtTwq (d a b code : BitVec 5) (qd qa : Bool) (s : State) : Host.Outcome State Fault Refusal :=
  let ys := s.vsrc b
  s.vmap d a qd qa 2 1 3 fun i x w => twqLane s.cur.mode code.toNat x.toNat (laneAt ys i).toInt w

/-- Convert from a matrix format (06 R167). -/
def execVcvtm (d a code : BitVec 5) (et : BitVec 3) (qd qa : Bool) (s : State) : Host.Outcome State Fault Refusal :=
  s.vmap d a qd qa (etBytes et) (codeBytes code.toNat) 3 fun _ x w =>
    writeEt et s.cur.mode (readMatrix code.toNat s.cur.ftz x.toNat) w

/-- Expand a block into lanes (06 R172). An infinite lane is written like any result, so that SAT 2 gives the largest
finite value there too (DESIGN CHOICE, log entry 132). -/
def execVbfpi (d a : BitVec 5) (et : BitVec 3) (s : State) : Host.Outcome State Fault Refusal :=
  let xs := s.vsrc a
  let (l, g) := drawLanes (fun i w =>
    let (b, w) := (fpOf et).write s.cur.mode (blockLane xs i) w
    (laneOf et b, w)) s.act s.rng
  .next ((s.setRng g).vput d false 3 l)

/-- Form a block from the 16 lanes (06 R171). -/
def execVbfpo (d a : BitVec 5) (et : BitVec 3) (s : State) : Host.Outcome State Fault Refusal :=
  let vs := (s.vsrc a).map (elemNum et s.cur.ftz)
  let (blk, g) := bfpForm true s.cur.rnd vs (blockTop vs) s.rng
  let lane := fun (i : Nat) => BitVec.ofNat 32 (leNat ((blk.bytes.drop (4 * i)).take 4))
  .next ((s.setRng g).vput d false 3 (s.act.map fun i => (i, if i < 9 then lane i else 0)))

/-- x × 2^(E − 127) (06 R169). -/
def execVscale (d a b : BitVec 5) (et : BitVec 3) (qd qa : Bool) (s : State) : Host.Outcome State Fault Refusal :=
  let ys := s.vsrc b
  s.vfp d a et qd qa 3 fun i x => x.scale ((laneAt ys i).toNat % 256)

/-- Lane i takes the lane of va that vb names (06 R173). -/
def execVshuf (d a b : BitVec 5) (_et : BitVec 3) (s : State) : Host.Outcome State Fault Refusal :=
  let xs := s.vsrc a
  let ys := s.vsrc b
  s.vmove d 4 fun i => laneAt xs ((laneAt ys i).toNat % 16)

/-- Lane i takes lane (i + n) mod 16 of va (06 R173). -/
def execVrot (d a : BitVec 5) (n : BitVec 4) (_et : BitVec 3) (s : State) : Host.Outcome State Fault Refusal :=
  let xs := s.vsrc a
  s.vmove d 4 fun i => laneAt xs ((i + n.toNat) % 16)

/-- Every lane takes lane n of va (06 R173). -/
def execVbcast (d a : BitVec 5) (n : BitVec 4) (_et : BitVec 3) (s : State) : Host.Outcome State Fault Refusal :=
  let xs := s.vsrc a
  s.vmove d 4 fun _ => laneAt xs n.toNat

/-- Tree sum of the active lanes (06 R174). -/
def execVredadd (d a : BitVec 5) (et : BitVec 3) (s : State) : Host.Outcome State Fault Refusal :=
  s.vreduce d a et 0

/-- Tree maximum of the active lanes (06 R174). -/
def execVredmax (d a : BitVec 5) (et : BitVec 3) (s : State) : Host.Outcome State Fault Refusal :=
  s.vreduce d a et 1

/-- Tree minimum of the active lanes (06 R174). -/
def execVredmin (d a : BitVec 5) (et : BitVec 3) (s : State) : Host.Outcome State Fault Refusal :=
  s.vreduce d a et 2

/-- Running result over the active lanes (06 R175). -/
def execVscan (d a op : BitVec 5) (et : BitVec 3) (s : State) : Host.Outcome State Fault Refusal :=
  let xs := s.vsrc a
  let (l, g) : List (Nat × Lane) × Word :=
    if et.toNat ≤ 2 then
      let (l, g) := scanLanes (fpNode (fpOf et) s.cur.mode op.toNat) none
        (s.act.map fun i => (i, elemBits et (laneAt xs i))) s.rng
      (l.map fun x => (x.1, laneOf et (canonNan (fpOf et) x.2)), g)
    else
      let (l, g) := scanLanes (intNode op.toNat) none (s.act.map fun i => (i, elemInt et (laneAt xs i))) s.rng
      (l.map fun x => (x.1, fitInt et s.cur.sat x.2), g)
  .next ((s.setRng g).vput d false 4 l)

/-- Active lanes packed to the bottom, the rest 0; all lanes written (06 R176). -/
def execVcompress (d a : BitVec 5) (_et : BitVec 3) (s : State) : Host.Outcome State Fault Refusal :=
  let xs := s.vsrc a
  let got := s.act.map (laneAt xs)
  .next (s.vput d false 4 ((seqFrom 0 16).map fun i => (i, laneAt got i)))

/-- A register of another group (06 R177). -/
def execVxg (d a : BitVec 5) (gs : BitVec 3) (_et : BitVec 3) (s : State) : Host.Outcome State Fault Refusal :=
  s.vmove d 3 fun i => s.me.gv gs.toNat (s.vreg a) i

/-- One lane of a register of another group (06 R177). -/
def execVxgb (d a : BitVec 5) (gs : BitVec 3) (n : BitVec 4) (_et : BitVec 3) (s : State) : Host.Outcome State Fault Refusal :=
  s.vmove d 3 fun _ => s.me.gv gs.toNat (s.vreg a) n.toNat

/-- kd := ka and kb (06 R178). -/
def execKand (kd ka kb : BitVec 3) (_et : BitVec 3) (s : State) : Host.Outcome State Fault Refusal :=
  s.kput kd (s.kreg ka &&& s.kreg kb)

/-- kd := ka or kb (06 R178). -/
def execKor (kd ka kb : BitVec 3) (_et : BitVec 3) (s : State) : Host.Outcome State Fault Refusal :=
  s.kput kd (s.kreg ka ||| s.kreg kb)

/-- kd := ka xor kb (06 R178). -/
def execKxor (kd ka kb : BitVec 3) (_et : BitVec 3) (s : State) : Host.Outcome State Fault Refusal :=
  s.kput kd (s.kreg ka ^^^ s.kreg kb)

/-- kd := complement of ka (06 R178). -/
def execKnot (kd ka : BitVec 3) (_et : BitVec 3) (s : State) : Host.Outcome State Fault Refusal :=
  s.kput kd (~~~(s.kreg ka))

/-- Active lanes := number of 1 bits of ka (06 R178). -/
def execKpopc (d : BitVec 5) (ka : BitVec 3) (s : State) : Host.Outcome State Fault Refusal :=
  let k := s.kreg ka
  s.vmove d 2 fun _ => BitVec.ofNat 32 ((seqFrom 0 16).filter k.getLsbD).length

/-- Bits of kd := is the element nonzero (06 R178). A subnormal element is nonzero under FTZ 1 also: the
test rounds nothing (DEDUCED, log 110). -/
def execKset (kd : BitVec 3) (a : BitVec 5) (et : BitVec 3) (s : State) : Host.Outcome State Fault Refusal :=
  let xs := s.vsrc a
  let f := fun (i : Nat) =>
    if et.toNat ≤ 2 then !(elemNum et false (laneAt xs i)).isZero else elemBits et (laneAt xs i) != 0
  s.kput kd (maskOf ((seqFrom 0 16).map fun i => (i, f i)))

/-- kd := 2^n − 1 (06 R178). -/
def execKsetN (kd : BitVec 3) (n : BitVec 5) (_et : BitVec 3) (s : State) : Host.Outcome State Fault Refusal :=
  s.kput kd (BitVec.ofNat 16 (2 ^ n.toNat - 1))

/-- Copy of the element (06 R179). -/
def execVmov (d a : BitVec 5) (et : BitVec 3) (qd qa : Bool) (s : State) : Host.Outcome State Fault Refusal :=
  s.vbit d a et qd qa fun _ x => laneOf et (elemBits et x)

/-- An immediate in every active lane (06 R179). -/
def execVmovi (d : BitVec 5) (imm : BitVec 15) (et : BitVec 3) (qd : Bool) (s : State) : Host.Outcome State Fault Refusal :=
  s.vbit d 0 et qd false fun _ _ => movImm et imm

/-- The low bits of an s register in every active lane (06 R179). -/
def execVmovs (d a : BitVec 5) (et : BitVec 3) (qd : Bool) (s : State) : Host.Outcome State Fault Refusal :=
  let w := s.me.gs a
  s.vbit d 0 et qd false fun _ _ => laneOf et (w.toNat % 2 ^ widthOf et)

/-- A draw for each active lane (06 R180). -/
def execVrand (d : BitVec 5) (et : BitVec 3) (s : State) : Host.Outcome State Fault Refusal :=
  let (l, g) := drawLanes (fun _ w => drawRand et w) s.act s.rng
  .next ((s.setRng g).vput d false 2 l)

/-- The source takes lanes 1 and 0 of va at once (06 R180). -/
def execVrandSeed (a : BitVec 5) (s : State) : Host.Outcome State Fault Refusal :=
  let xs := s.vsrc a
  .next (s.setRng (laneAt xs 1 ++ laneAt xs 0))

/-- Lanes 0 and 1 take the source (06 R180). -/
def execVrandGet (d : BitVec 5) (s : State) : Host.Outcome State Fault Refusal :=
  let g := s.rng
  s.vmove d 2 fun i => match i with | 0 => g.setWidth 32 | 1 => g.extractLsb' 32 32 | _ => 0

end Sys2Proof.Machine
end

