-- ==== Sys2Proof/Machine/Dispatch.lean ====
section
/-! DEFINITION. The one dispatch from instructions to their meanings. -/

namespace Sys2Proof.Machine

def exec (i : Instr) (s : State) : Host.Outcome State Fault Refusal :=
  match i with
  | .add d a b => Sys2Proof.Machine.execAdd d a b s
  | .sub d a b => Sys2Proof.Machine.execSub d a b s
  | .and d a b => Sys2Proof.Machine.execAnd d a b s
  | .or d a b => Sys2Proof.Machine.execOr d a b s
  | .xor d a b => Sys2Proof.Machine.execXor d a b s
  | .sll d a b => Sys2Proof.Machine.execSll d a b s
  | .srl d a b => Sys2Proof.Machine.execSrl d a b s
  | .sra d a b => Sys2Proof.Machine.execSra d a b s
  | .mul d a b => Sys2Proof.Machine.execMul d a b s
  | .mulh d a b => Sys2Proof.Machine.execMulh d a b s
  | .mulhu d a b => Sys2Proof.Machine.execMulhu d a b s
  | .div d a b => Sys2Proof.Machine.execDiv d a b s
  | .divu d a b => Sys2Proof.Machine.execDivu d a b s
  | .rem d a b => Sys2Proof.Machine.execRem d a b s
  | .remu d a b => Sys2Proof.Machine.execRemu d a b s
  | .min d a b => Sys2Proof.Machine.execMin d a b s
  | .max d a b => Sys2Proof.Machine.execMax d a b s
  | .minu d a b => Sys2Proof.Machine.execMinu d a b s
  | .maxu d a b => Sys2Proof.Machine.execMaxu d a b s
  | .slt d a b => Sys2Proof.Machine.execSlt d a b s
  | .sltu d a b => Sys2Proof.Machine.execSltu d a b s
  | .clz d a => Sys2Proof.Machine.execClz d a s
  | .ctz d a => Sys2Proof.Machine.execCtz d a s
  | .popc d a => Sys2Proof.Machine.execPopc d a s
  | .sextB d a => Sys2Proof.Machine.execSextB d a s
  | .sextH d a => Sys2Proof.Machine.execSextH d a s
  | .sextW d a => Sys2Proof.Machine.execSextW d a s
  | .zextB d a => Sys2Proof.Machine.execZextB d a s
  | .zextH d a => Sys2Proof.Machine.execZextH d a s
  | .zextW d a => Sys2Proof.Machine.execZextW d a s
  | .addi d a imm => Sys2Proof.Machine.execAddi d a imm s
  | .andi d a imm => Sys2Proof.Machine.execAndi d a imm s
  | .ori d a imm => Sys2Proof.Machine.execOri d a imm s
  | .xori d a imm => Sys2Proof.Machine.execXori d a imm s
  | .slli d a sh => Sys2Proof.Machine.execSlli d a sh s
  | .srli d a sh => Sys2Proof.Machine.execSrli d a sh s
  | .srai d a sh => Sys2Proof.Machine.execSrai d a sh s
  | .slti d a imm => Sys2Proof.Machine.execSlti d a imm s
  | .lih d a imm => Sys2Proof.Machine.execLih d a imm s
  | .aadd d a b => Sys2Proof.Machine.execAadd d a b s
  | .amov d a => Sys2Proof.Machine.execAmov d a s
  | .movsa d a => Sys2Proof.Machine.execMovsa d a s
  | .movas d a => Sys2Proof.Machine.execMovas d a s
  | .aaddi d a imm => Sys2Proof.Machine.execAaddi d a imm s
  | .cmpEq p a b => Sys2Proof.Machine.execCmpEq p a b s
  | .cmpNe p a b => Sys2Proof.Machine.execCmpNe p a b s
  | .cmpLt p a b => Sys2Proof.Machine.execCmpLt p a b s
  | .cmpGe p a b => Sys2Proof.Machine.execCmpGe p a b s
  | .cmpLtu p a b => Sys2Proof.Machine.execCmpLtu p a b s
  | .cmpGeu p a b => Sys2Proof.Machine.execCmpGeu p a b s
  | .pand d a b => Sys2Proof.Machine.execPand d a b s
  | .por d a b => Sys2Proof.Machine.execPor d a b s
  | .pnot d a => Sys2Proof.Machine.execPnot d a s
  | .br w t => Sys2Proof.Machine.execBr w t s
  | .brp p w t => Sys2Proof.Machine.execBrp p w t s
  | .brpN p w t => Sys2Proof.Machine.execBrpN p w t s
  | .call r w t => Sys2Proof.Machine.execCall r w t s
  | .ret r => Sys2Proof.Machine.execRet r s
  | .loop r w t => Sys2Proof.Machine.execLoop r w t s
  | .bswap w t => Sys2Proof.Machine.execBswap w t s
  | .sldB r a imm => Sys2Proof.Machine.execSldB r a imm s
  | .sldH r a imm => Sys2Proof.Machine.execSldH r a imm s
  | .sldW r a imm => Sys2Proof.Machine.execSldW r a imm s
  | .sldD r a imm => Sys2Proof.Machine.execSldD r a imm s
  | .sstB r a imm => Sys2Proof.Machine.execSstB r a imm s
  | .sstH r a imm => Sys2Proof.Machine.execSstH r a imm s
  | .sstW r a imm => Sys2Proof.Machine.execSstW r a imm s
  | .sstD r a imm => Sys2Proof.Machine.execSstD r a imm s
  | .gld r a off wid acq inv => Sys2Proof.Machine.execGld r a off wid acq inv s
  | .gst r a off wid rel => Sys2Proof.Machine.execGst r a off wid rel s
  | .msetp k a => Sys2Proof.Machine.execMsetp k a s
  | .mgetp d k => Sys2Proof.Machine.execMgetp d k s
  | .setfmt a => Sys2Proof.Machine.execSetfmt a s
  | .setmpc a => Sys2Proof.Machine.execSetmpc a s
  | .getmpc d => Sys2Proof.Machine.execGetmpc d s
  | .sysrd d n => Sys2Proof.Machine.execSysrd d n s
  | .syswr n a => Sys2Proof.Machine.execSyswr n a s
  | .trap code => Sys2Proof.Machine.execTrap code s
  | .snap tag => Sys2Proof.Machine.execSnap tag s
  | .hlaunch d a => Sys2Proof.Machine.execHlaunch d a s
  | .hlaunchSealg a => Sys2Proof.Machine.execHlaunchSealg a s
  | .hwaitc d a b => Sys2Proof.Machine.execHwaitc d a b s
  | .hcancel a => Sys2Proof.Machine.execHcancel a s
  | .hsetc a b => Sys2Proof.Machine.execHsetc a b s
  | .hsetcAdd a b => Sys2Proof.Machine.execHsetcAdd a b s
  | .hreadc d a => Sys2Proof.Machine.execHreadc d a s
  | .hreadcSt d a => Sys2Proof.Machine.execHreadcSt d a s
  | .hstop a => Sys2Proof.Machine.execHstop a s
  | .hstopU a b => Sys2Proof.Machine.execHstopU a b s
  | .hctx d a => Sys2Proof.Machine.execHctx d a s
  | .hctxKill a => Sys2Proof.Machine.execHctxKill a s
  | .hctxHold a => Sys2Proof.Machine.execHctxHold a s
  | .hctxRun a => Sys2Proof.Machine.execHctxRun a s
  | .hdeal d a b => Sys2Proof.Machine.execHdeal d a b s
  | .hdealE d a => Sys2Proof.Machine.execHdealE d a s
  | .hdealRing a b => Sys2Proof.Machine.execHdealRing a b s
  | .vadd d a b et qd qa => Sys2Proof.Machine.execVadd d a b et qd qa s
  | .vsub d a b et qd qa => Sys2Proof.Machine.execVsub d a b et qd qa s
  | .vmul d a b et qd qa => Sys2Proof.Machine.execVmul d a b et qd qa s
  | .vmulh d a b et qd qa => Sys2Proof.Machine.execVmulh d a b et qd qa s
  | .vmin d a b et qd qa => Sys2Proof.Machine.execVmin d a b et qd qa s
  | .vmax d a b et qd qa => Sys2Proof.Machine.execVmax d a b et qd qa s
  | .vand d a b et qd qa => Sys2Proof.Machine.execVand d a b et qd qa s
  | .vor d a b et qd qa => Sys2Proof.Machine.execVor d a b et qd qa s
  | .vxor d a b et qd qa => Sys2Proof.Machine.execVxor d a b et qd qa s
  | .vnot d a et qd qa => Sys2Proof.Machine.execVnot d a et qd qa s
  | .vshl d a b et qd qa => Sys2Proof.Machine.execVshl d a b et qd qa s
  | .vshr d a b et qd qa => Sys2Proof.Machine.execVshr d a b et qd qa s
  | .vsra d a b et qd qa => Sys2Proof.Machine.execVsra d a b et qd qa s
  | .vabs d a et qd qa => Sys2Proof.Machine.execVabs d a et qd qa s
  | .vneg d a et qd qa => Sys2Proof.Machine.execVneg d a et qd qa s
  | .vsel d a b kc et qd qa => Sys2Proof.Machine.execVsel d a b kc et qd qa s
  | .vcmpEq kd a b et qa => Sys2Proof.Machine.execVcmpEq kd a b et qa s
  | .vcmpNe kd a b et qa => Sys2Proof.Machine.execVcmpNe kd a b et qa s
  | .vcmpLt kd a b et qa => Sys2Proof.Machine.execVcmpLt kd a b et qa s
  | .vcmpLe kd a b et qa => Sys2Proof.Machine.execVcmpLe kd a b et qa s
  | .vcmpGt kd a b et qa => Sys2Proof.Machine.execVcmpGt kd a b et qa s
  | .vcmpGe kd a b et qa => Sys2Proof.Machine.execVcmpGe kd a b et qa s
  | .vfadd d a b et qd qa => Sys2Proof.Machine.execVfadd d a b et qd qa s
  | .vfsub d a b et qd qa => Sys2Proof.Machine.execVfsub d a b et qd qa s
  | .vfmul d a b et qd qa => Sys2Proof.Machine.execVfmul d a b et qd qa s
  | .vfma d a b c et qd qa => Sys2Proof.Machine.execVfma d a b c et qd qa s
  | .vfms d a b c et qd qa => Sys2Proof.Machine.execVfms d a b c et qd qa s
  | .vfnma d a b c et qd qa => Sys2Proof.Machine.execVfnma d a b c et qd qa s
  | .vfmin d a b et qd qa => Sys2Proof.Machine.execVfmin d a b et qd qa s
  | .vfmax d a b et qd qa => Sys2Proof.Machine.execVfmax d a b et qd qa s
  | .vfabs d a et qd qa => Sys2Proof.Machine.execVfabs d a et qd qa s
  | .vfneg d a et qd qa => Sys2Proof.Machine.execVfneg d a et qd qa s
  | .vfcmpEq kd a b et qa => Sys2Proof.Machine.execVfcmpEq kd a b et qa s
  | .vfcmpNe kd a b et qa => Sys2Proof.Machine.execVfcmpNe kd a b et qa s
  | .vfcmpLt kd a b et qa => Sys2Proof.Machine.execVfcmpLt kd a b et qa s
  | .vfcmpLe kd a b et qa => Sys2Proof.Machine.execVfcmpLe kd a b et qa s
  | .vfcmpGt kd a b et qa => Sys2Proof.Machine.execVfcmpGt kd a b et qa s
  | .vfcmpGe kd a b et qa => Sys2Proof.Machine.execVfcmpGe kd a b et qa s
  | .vfrcp d a et qd qa => Sys2Proof.Machine.execVfrcp d a et qd qa s
  | .vfrsq d a et qd qa => Sys2Proof.Machine.execVfrsq d a et qd qa s
  | .vfexp2 d a et qd qa => Sys2Proof.Machine.execVfexp2 d a et qd qa s
  | .vflog2 d a et qd qa => Sys2Proof.Machine.execVflog2 d a et qd qa s
  | .vftanh d a et qd qa => Sys2Proof.Machine.execVftanh d a et qd qa s
  | .vfsigm d a et qd qa => Sys2Proof.Machine.execVfsigm d a et qd qa s
  | .vcvt d a code et qd qa => Sys2Proof.Machine.execVcvt d a code et qd qa s
  | .vcvtTwq d a b code qd qa => Sys2Proof.Machine.execVcvtTwq d a b code qd qa s
  | .vcvtm d a code et qd qa => Sys2Proof.Machine.execVcvtm d a code et qd qa s
  | .vbfpi d a et => Sys2Proof.Machine.execVbfpi d a et s
  | .vbfpo d a et => Sys2Proof.Machine.execVbfpo d a et s
  | .vscale d a b et qd qa => Sys2Proof.Machine.execVscale d a b et qd qa s
  | .vshuf d a b et => Sys2Proof.Machine.execVshuf d a b et s
  | .vrot d a n et => Sys2Proof.Machine.execVrot d a n et s
  | .vbcast d a n et => Sys2Proof.Machine.execVbcast d a n et s
  | .vredadd d a et => Sys2Proof.Machine.execVredadd d a et s
  | .vredmax d a et => Sys2Proof.Machine.execVredmax d a et s
  | .vredmin d a et => Sys2Proof.Machine.execVredmin d a et s
  | .vscan d a op et => Sys2Proof.Machine.execVscan d a op et s
  | .vcompress d a et => Sys2Proof.Machine.execVcompress d a et s
  | .vxg d a gs et => Sys2Proof.Machine.execVxg d a gs et s
  | .vxgb d a gs n et => Sys2Proof.Machine.execVxgb d a gs n et s
  | .kand kd ka kb et => Sys2Proof.Machine.execKand kd ka kb et s
  | .kor kd ka kb et => Sys2Proof.Machine.execKor kd ka kb et s
  | .kxor kd ka kb et => Sys2Proof.Machine.execKxor kd ka kb et s
  | .knot kd ka et => Sys2Proof.Machine.execKnot kd ka et s
  | .kpopc d ka => Sys2Proof.Machine.execKpopc d ka s
  | .kset kd a et => Sys2Proof.Machine.execKset kd a et s
  | .ksetN kd n et => Sys2Proof.Machine.execKsetN kd n et s
  | .vmov d a et qd qa => Sys2Proof.Machine.execVmov d a et qd qa s
  | .vmovi d imm et qd => Sys2Proof.Machine.execVmovi d imm et qd s
  | .vmovs d a et qd => Sys2Proof.Machine.execVmovs d a et qd s
  | .vrand d et => Sys2Proof.Machine.execVrand d et s
  | .vrandSeed a => Sys2Proof.Machine.execVrandSeed a s
  | .vrandGet d => Sys2Proof.Machine.execVrandGet d s
  | .mcall idx => Sys2Proof.Machine.execMcall idx s
  | .mrmin d a ty nm1 => Sys2Proof.Machine.execMrmin d a ty nm1 s
  | .mrmax d a ty nm1 => Sys2Proof.Machine.execMrmax d a ty nm1 s
  | .mrank d a ty nm1 => Sys2Proof.Machine.execMrank d a ty nm1 s
  | .mtopk d a ty nm1 km1 => Sys2Proof.Machine.execMtopk d a ty nm1 km1 s
  | .mspill mask => Sys2Proof.Machine.execMspill mask s
  | .mfill mask => Sys2Proof.Machine.execMfill mask s
  | .mqry d sel clr => Sys2Proof.Machine.execMqry d sel clr s
  | .vld v a msel wid gsc pi off => Sys2Proof.Machine.execVld v a msel wid gsc pi off s
  | .vst v a msel wid gsc pi off => Sys2Proof.Machine.execVst v a msel wid gsc pi off s
  | .vldInv v a msel wid gsc pi off => Sys2Proof.Machine.execVldInv v a msel wid gsc pi off s
  | .vldx v vi a msel wid sc => Sys2Proof.Machine.execVldx v vi a msel wid sc s
  | .vstx v vi a msel wid sc => Sys2Proof.Machine.execVstx v vi a msel wid sc s
  | .cpy ad as sl sn eng => Sys2Proof.Machine.execCpy ad as sl sn eng s
  | .cpys ad as sl sn eng => Sys2Proof.Machine.execCpys ad as sl sn eng s
  | .cpyg ad as sl sn eng => Sys2Proof.Machine.execCpyg ad as sl sn eng s
  | .cpysc ad as sl sn eng => Sys2Proof.Machine.execCpysc ad as sl sn eng s
  | .cpySum ad as sl sn eng => Sys2Proof.Machine.execCpySum ad as sl sn eng s
  | .cpyFill ad sl sn eng => Sys2Proof.Machine.execCpyFill ad sl sn eng s
  | .bind q a => Sys2Proof.Machine.execBind q a s
  | .unbind q => Sys2Proof.Machine.execUnbind q s
  | .qstat d q => Sys2Proof.Machine.execQstat d q s
  | .atomAdd d a ss wd sem => Sys2Proof.Machine.execAtomAdd d a ss wd sem s
  | .atomMin d a ss wd u sem => Sys2Proof.Machine.execAtomMin d a ss wd u sem s
  | .atomMax d a ss wd u sem => Sys2Proof.Machine.execAtomMax d a ss wd u sem s
  | .atomAnd d a ss wd sem => Sys2Proof.Machine.execAtomAnd d a ss wd sem s
  | .atomOr d a ss wd sem => Sys2Proof.Machine.execAtomOr d a ss wd sem s
  | .atomXor d a ss wd sem => Sys2Proof.Machine.execAtomXor d a ss wd sem s
  | .atomSwap d a ss wd sem => Sys2Proof.Machine.execAtomSwap d a ss wd sem s
  | .atomCas d a ss sc wd sem => Sys2Proof.Machine.execAtomCas d a ss sc wd sem s
  | .atomFadd a ss bf => Sys2Proof.Machine.execAtomFadd a ss bf s
  | .wcinit a ce => Sys2Proof.Machine.execWcinit a ce s
  | .wcread d a bf => Sys2Proof.Machine.execWcread d a bf s
  | .tlwait k ss => Sys2Proof.Machine.execTlwait k ss s
  | .tlread d k => Sys2Proof.Machine.execTlread d k s
  | .tladv k ss => Sys2Proof.Machine.execTladv k ss s
  | .tlsig k ss a => Sys2Proof.Machine.execTlsig k ss a s
  | .fence sc => Sys2Proof.Machine.execFence sc s
  | .fenceAcq sc => Sys2Proof.Machine.execFenceAcq sc s
  | .fenceRel sc => Sys2Proof.Machine.execFenceRel sc s
  | .drainPath a sn eng => Sys2Proof.Machine.execDrainPath a sn eng s
  | .drainPathStreams sn eng => Sys2Proof.Machine.execDrainPathStreams sn eng s
  | .mapreg r a sl wb => Sys2Proof.Machine.execMapreg r a sl wb s
  | .unmapreg r sn eng => Sys2Proof.Machine.execUnmapreg r sn eng s
  | .wbreg r sn eng => Sys2Proof.Machine.execWbreg r sn eng s
  | .touch a sl sn eng => Sys2Proof.Machine.execTouch a sl sn eng s
  | .send a st ln sn eng => Sys2Proof.Machine.execSend a st ln sn eng s
  | .recv d a => Sys2Proof.Machine.execRecv d a s
  | .coll sn a => Sys2Proof.Machine.execColl sn a s
  | .cxopen a tol w t => Sys2Proof.Machine.execCxopen a tol w t s
  | .audmark ss => Sys2Proof.Machine.execAudmark ss s
  | .tcheck ss => Sys2Proof.Machine.execTcheck ss s
  | .tscWld a => Sys2Proof.Machine.execTscWld a s
  | .tscWconv a => Sys2Proof.Machine.execTscWconv a s
  | .tscXstr a => Sys2Proof.Machine.execTscXstr a s
  | .tscAccmode a => Sys2Proof.Machine.execTscAccmode a s
  | .tscAccsel a => Sys2Proof.Machine.execTscAccsel a s
  | .tscHandoff a => Sys2Proof.Machine.execTscHandoff a s
  | .tscTri a b => Sys2Proof.Machine.execTscTri a b s
  | .tscSkip n => Sys2Proof.Machine.execTscSkip n s
  | .tscLoopImm c => Sys2Proof.Machine.execTscLoopImm c s
  | .tscLoopReg c => Sys2Proof.Machine.execTscLoopReg c s
  | .tscBrc a b v t => Sys2Proof.Machine.execTscBrc a b v t s
  | .tscSetp d a imm => Sys2Proof.Machine.execTscSetp d a imm s
  | .tscSetpHi d a imm => Sys2Proof.Machine.execTscSetpHi d a imm s
  | .tscSetpReg d a b => Sys2Proof.Machine.execTscSetpReg d a b s
  | .tscEmit a => Sys2Proof.Machine.execTscEmit a s
  | .tscRmin a b ty nm1 => Sys2Proof.Machine.execTscRmin a b ty nm1 s
  | .tscRmax a b ty nm1 => Sys2Proof.Machine.execTscRmax a b ty nm1 s
  | .tscRank a b ty nm1 => Sys2Proof.Machine.execTscRank a b ty nm1 s
  | .tscTopk a b ty nm1 km1 => Sys2Proof.Machine.execTscTopk a b ty nm1 km1 s
  | .tscTrimrd d a => Sys2Proof.Machine.execTscTrimrd d a s
  | .tscTrimwr a b => Sys2Proof.Machine.execTscTrimwr a b s
  | .tscRefrace d a kind => Sys2Proof.Machine.execTscRefrace d a kind s
  | .nop => Sys2Proof.Machine.execNop s
  | .halt => Sys2Proof.Machine.execHalt s
  | .tret => Sys2Proof.Machine.execTret s
  | .ifence => Sys2Proof.Machine.execIfence s
  | .wfe => Sys2Proof.Machine.execWfe s
  | .hlaunchSealp => Sys2Proof.Machine.execHlaunchSealp s
  | .hlaunchEnd => Sys2Proof.Machine.execHlaunchEnd s
  | .vnop => Sys2Proof.Machine.execVnop s
  | .mtrue => Sys2Proof.Machine.execMtrue s
  | .mfence => Sys2Proof.Machine.execMfence s
  | .cxclose => Sys2Proof.Machine.execCxclose s
  | .audoff => Sys2Proof.Machine.execAudoff s
  | .tscRace => Sys2Proof.Machine.execTscRace s
  | .tscTriOff => Sys2Proof.Machine.execTscTriOff s
  | .tscLoopKb => Sys2Proof.Machine.execTscLoopKb s
  | .tscEndl => Sys2Proof.Machine.execTscEndl s
  | .tscWaitq => Sys2Proof.Machine.execTscWaitq s
  | .tscHalt => Sys2Proof.Machine.execTscHalt s
  | .checkpointBundle => Sys2Proof.Machine.execCheckpointBundle s
  | .reissue => Sys2Proof.Machine.execReissue s
  | .bundleRepetition => Sys2Proof.Machine.execBundleRepetition s
  | .resultLanding => Sys2Proof.Machine.execResultLanding s
  | .snapshotGtcMatch => Sys2Proof.Machine.execSnapshotGtcMatch s
  | .snapshotPin => Sys2Proof.Machine.execSnapshotPin s
  | .snapshotLatch => Sys2Proof.Machine.execSnapshotLatch s
  | .powerEstimate => Sys2Proof.Machine.execPowerEstimate s
  | .powerEmergencyStep => Sys2Proof.Machine.execPowerEmergencyStep s
  | .telemetryRecord => Sys2Proof.Machine.execTelemetryRecord s
  | .ptpCommitApply => Sys2Proof.Machine.execPtpCommitApply s
  | .resetPin => Sys2Proof.Machine.execResetPin s
  | .invalidationComplete => Sys2Proof.Machine.execInvalidationComplete s
  | .headerOnlyBundle => Sys2Proof.Machine.execHeaderOnlyBundle s
  | .powerOn => Sys2Proof.Machine.execPowerOn s
  | .holdEnd p => Sys2Proof.Machine.execHoldEnd p s
  | .storePerform p n => Sys2Proof.Machine.execStorePerform p n s
  | .lateFaultDelivery p => Sys2Proof.Machine.execLateFaultDelivery p s
  | .auditReplay n sig => Sys2Proof.Machine.execAuditReplay n sig s
  | .launchReady c lid => Sys2Proof.Machine.execLaunchReady c lid s
  | .unitStart c lid u => Sys2Proof.Machine.execUnitStart c lid u s
  | .unitRetire c lid u => Sys2Proof.Machine.execUnitRetire c lid u s
  | .hubAnswer n => Sys2Proof.Machine.execHubAnswer n s
  | .sliceCheck c lid u => Sys2Proof.Machine.execSliceCheck c lid u s
  | .unitSave c lid u => Sys2Proof.Machine.execUnitSave c lid u s
  | .resume c lid u => Sys2Proof.Machine.execResume c lid u s
  | .engineOpComplete p e => Sys2Proof.Machine.execEngineOpComplete p e s
  | .tileOpStart q => Sys2Proof.Machine.execTileOpStart q s
  | .tileOpComplete q => Sys2Proof.Machine.execTileOpComplete q s
  | .collComplete n => Sys2Proof.Machine.execCollComplete n s
  | .messageDelivered n => Sys2Proof.Machine.execMessageDelivered n s
  | .tlsigEffect n => Sys2Proof.Machine.execTlsigEffect n s
  | .lineFill q off => Sys2Proof.Machine.execLineFill q off s
  | .pageWalk c va => Sys2Proof.Machine.execPageWalk c va s
  | .streamReadAhead p e => Sys2Proof.Machine.execStreamReadAhead p e s
  | .streamWriteDrain p e => Sys2Proof.Machine.execStreamWriteDrain p e s
  | .hbmWrite pa data lc => Sys2Proof.Machine.execHbmWrite pa data lc s
  | .hbmRead pa => Sys2Proof.Machine.execHbmRead pa s
  | .parityUpdate k => Sys2Proof.Machine.execParityUpdate k s
  | .stackLost k => Sys2Proof.Machine.execStackLost k s
  | .truingIntervalExpiry q => Sys2Proof.Machine.execTruingIntervalExpiry q s
  | .tempUpdate q t => Sys2Proof.Machine.execTempUpdate q t s
  | .truingRoundStart q => Sys2Proof.Machine.execTruingRoundStart q s
  | .truingRunEnd q ok => Sys2Proof.Machine.execTruingRunEnd q ok s
  | .gtcMatch p => Sys2Proof.Machine.execGtcMatch p s
  | .snaphwTrig party => Sys2Proof.Machine.execSnaphwTrig party s
  | .thermalStep d t => Sys2Proof.Machine.execThermalStep d t s
  | .freqSet party d mhz => Sys2Proof.Machine.execFreqSet party d mhz s
  | .ptpCommit party => Sys2Proof.Machine.execPtpCommit party s
  | .warmReset party => Sys2Proof.Machine.execWarmReset party s
  | .coldReset party => Sys2Proof.Machine.execColdReset party s
  | .semcas party v => Sys2Proof.Machine.execSemcas party v s
  | .hrouteWrite party mode => Sys2Proof.Machine.execHrouteWrite party mode s
  | .linkForm party j val => Sys2Proof.Machine.execLinkForm party j val s
  | .tictlGo party v => Sys2Proof.Machine.execTictlGo party v s
  | .trdataRead q => Sys2Proof.Machine.execTrdataRead q s
  | .trdataWrite q v => Sys2Proof.Machine.execTrdataWrite q v s
  | .jstart party v => Sys2Proof.Machine.execJstart party v s
  | .doffreq party d => Sys2Proof.Machine.execDoffreq party d s
  | .vforce party => Sys2Proof.Machine.execVforce party s
  | .dieOfflineTimeout d mesh => Sys2Proof.Machine.execDieOfflineTimeout d mesh s
  | .railFault d => Sys2Proof.Machine.execRailFault d s
  | .portStateChange k st => Sys2Proof.Machine.execPortStateChange k st s
  | .flitReceived link seq bad => Sys2Proof.Machine.execFlitReceived link seq bad s
  | .portShed k => Sys2Proof.Machine.execPortShed k s
  | .viralFlitReceived peer key => Sys2Proof.Machine.execViralFlitReceived peer key s
  | .incomingAccess peer key right off data => Sys2Proof.Machine.execIncomingAccess peer key right off data s
  | .hostMemAccess wr pa data => Sys2Proof.Machine.execHostMemAccess wr pa data s
  | .registerWrite party off data => Sys2Proof.Machine.execRegisterWrite party off data s
  | .notAnInstruction cause enc => Sys2Proof.Machine.execNotAnInstruction cause enc s
  | .tscNotAnInstruction w => Sys2Proof.Machine.execTscNotAnInstruction w s
  | .evset a => Sys2Proof.Machine.execEvset a s
  | .evgtcWrite a => Sys2Proof.Machine.execEvgtcWrite a s

end Sys2Proof.Machine
end

