-- ==== Sys2Proof/Machine/Issue.lean ====
section
/-! DEFINITION. A vc of an agent, or of the whole LOCK or tandem peloton it belongs to: landings, faults reported
before, the bundles' own faults, stops, checkpoint actions, holds, and then the slots in their order
(01 R16 to R20; 02 R39 to R51; 04 R84 to R99; 16 R394 to R400, R406; 17 R411 to R425). -/

namespace Sys2Proof.Machine

open Sys2Proof

/-! ### Fetch (04 R84, R100; 18 R429, R443) -/

/-- Do `n` words from `w` on lie in one code range? -/
def codeSpan (w n : Nat) : Bool := w + n ≤ 0x200 || (0x1000 ≤ w && w + n ≤ 0x2000)

/-- `n` words of the ISP from an offset on. -/
def State.ispWords (s : State) (p o n : Nat) : List (BitVec 32) := (seqFrom 0 n).map fun i => s.codeWord (ispAddr p (o + 4 * i))

/-- Words that a party consumes: what is corrected is logged, and the damage is of class N3 (18 R429). -/
def State.wordDamage (s : State) (p a n : Nat) : State × List Damage :=
  let (s, _, _, fs) := s.readStore a n
  let s := s.logFixed p 0 fs
  let d := s.damageOf 0 fs
  (s, if d.cls = 0 then [] else [{ d with cls := 4, kind := 1 }])

/-- The bundle at the pc of agent `p`: a fault, or the bundle, with the damage of its words. -/
def State.fetch (s : State) (p : Nat) : State × Except Use Bundle × List Damage :=
  let c := s.core p
  let w := c.pc.toNat
  let out : Use := { cause := 0x50 }
  match ispOffset c.ispsel w with
  | none => (s, .error out, [])
  | some o =>
    let h := s.codeWord (ispAddr p o)
    let n := bundleLen h
    let bad : Use := { kind := 5, cause := 1, slot := 0, enc := h.toNat }
    match decodeBundle [h] with
    | .error _ =>
      let (s, d) := s.wordDamage p (ispAddr p o) 4
      (s, .error bad, d)
    | .ok _ =>
      if !codeSpan w n then (s, .error out, [])
      else
        let (s, d) := s.wordDamage p (ispAddr p o) (4 * n)
        match decodeBundle (s.ispWords p o n) with
        | .error _ => (s, .error bad, d)
        | .ok b => (s, .ok b, d)

/-! ### What a bundle issues (04 R86 to R90, R93) -/

/-- Slots with a re-issue record: REIS bit and slot code. -/
def reisSlots : List (Nat × Nat) := [(0, 3), (1, 4), (2, 5), (3, 6), (4, 7)]

/-- What a re-issue record holds of no slot: an encoding that every slot refuses. -/
abbrev noSlot : BitVec 32 := 0xFFFFFFFF

/-- The effective slots of a bundle's first repetition in slot order, each with whether it re-issues: those
present, and the absent ones whose REIS bit finds a record (04 R86 to R89). -/
def Core.effective (c : Core) (b : Bundle) : List (Nat × BitVec 32 × Bool) :=
  let has := fun (k : Nat) => b.slots.any fun x => x.1 == k
  let again := if b.ck then [] else reisSlots.filter fun r => b.reis.getLsbD r.1 && !has r.2 && c.recs.any fun e => e.1 == r.2
  (seqFrom 2 6).flatMap fun k =>
    (b.slots.filter fun x => x.1 == k).map (fun x => (k, x.2, false)) ++
    (again.filter fun r => r.2 == k).map (fun r => (k, SMap.get c.recs noSlot r.2, true))

/-- The bundle in issue. -/
def Core.entering (c : Core) (b : Bundle) : InIssue :=
  let p := b.pslot.getD 0
  { word := c.pc, len := b.len, header := b.header, rpt := b.rpt, ck := b.ck, qp := b.qp, rnd := p.extractLsb' 0 3, sat := p.extractLsb' 3 2,
    ftz := p.getLsbD 5, slots := (c.effective b).map fun x => (x.1, x.2.1) }

/-- A fault of a slot's encoding (17 R413, R414). -/
def slotFault (cause code g wh : Nat) (enc : BitVec 32) (reis : Bool) : Use :=
  { kind := 5, cause := cause, wh := wh, slot := code, group := g, enc := enc.toNat, reis := reis }

/-- The operations of one slot, or the faults of their encodings. -/
def State.slotOps (s : State) (cx : Ctx) (code : Nat) (enc : BitVec 32) (reis : Bool) : List (Except Use MicroOp) :=
  let p := cx.core
  if code = 3 ∨ code = 4 then
    if isSlot p then [.error { slotFault 0x29 code 0 0 enc reis with kind := 6 }]
    else
      let idx := (enc.toNat) % 512
      (seqFrom 0 8).map fun g =>
        let w := s.codeWord (hcwAddr p (32 * idx + 4 * g))
        match decodeLgop w with
        | .error e => .error (slotFault e.cause.toNat code g idx w reis)
        | .ok i => .ok { ctx := { cx with slot := BitVec.ofNat 4 code, group := g, msel := enc.extractLsb' 13 3,
                                          rbase := enc.extractLsb' 9 4, enc := w, hcw := idx, reis := reis }, instr := i }
  else
    match decodeSlot code enc with
    | .error e => [.error (slotFault e.cause.toNat code 0 0 enc reis)]
    | .ok i => [.ok { ctx := { cx with slot := BitVec.ofNat 4 code, enc := enc, reis := reis }, instr := i }]

/-- Words beside the bundle's own that an operation consumes: its HCW entry, its metadata word (18 R429). -/
def State.sideDamage (s : State) (o : MicroOp) : State × List Damage :=
  let p := o.ctx.core
  if o.ctx.slot = 3 ∨ o.ctx.slot = 4 then s.wordDamage p (hcwAddr p (32 * o.ctx.hcw + 4 * o.ctx.group)) 4
  else if o.instr.takesMeta then
    match ispOffset (s.core p).ispsel (s.core p).mpc.toNat with
    | some k => s.wordDamage p (ispAddr p k) 4
    | none => (s, [])
  else (s, [])

/-! ### Faults found before a bundle issues (17 R411, R412, R415) -/

/-- Own-vault bytes, the ends of each element, that the results which an operation put in flight will read as slot
accesses. -/
def Core.newReads (c : Core) (n : Nat) : List Nat :=
  (c.pend.drop n).flatMap fun x =>
    match x.src with
    | .load .l ps _ _ => ps.flatMap fun y => [y.addr, y.addr + y.width - 1]
    | .wcread a _ => [a]
    | .atomic .l a _ _ => [a]
    | _ => []

/-- The lowest of some addresses. -/
def lowest (l : List Nat) : Nat := l.foldl min (l.headD 0)

/-- The first of some lines whose bank an earlier line needs. -/
def clashLine (used : List Nat) : List Nat → Nat
  | [] => 0
  | l :: r => if used.any fun k => k % 8 == l % 8 then l else clashLine (used ++ [l]) r

/-- Own-vault bytes, the ends of each gated store or atomic, that an operation put into the gate buffer. -/
def Core.newStores (c : Core) (n : Nat) : List Nat :=
  ((c.gate.drop n).filter fun e => e.form == .l && e.entry).flatMap fun e =>
    match e.atom with
    | some (a, _) => [a]
    | none => (e.cells.head?.map (·.1)).toList

/-- Vault lines, each by its core and its number, that the results which an operation put in flight will read or change
as slot accesses. -/
def Core.newTouches (c : Core) (p n : Nat) : List (Nat × Nat) :=
  let at_ := fun (f : Form) (a k : Nat) =>
    if isSlot p || f == .g then [] else linesIn (cellStore p f a) k
  (distinct ((c.pend.drop n).flatMap fun x =>
    match x.src with
    | .load f ps _ _ => ps.flatMap fun y => at_ f y.addr y.width
    | .wcread a _ => at_ .l a 16
    | .atomic f a op _ => at_ f a op.size
    | _ => [])).map fun l => (vaultCore (64 * l), vaultOff (64 * l) / 64)

/-- A trial of a bundle's operations: the state as the earlier slots leave it, the own-vault lines read so far, whether the
own vault is stored to, the vault lines touched, the faults found. -/
structure Trial where
  st : State
  lines : List Nat := []
  stores : Bool := false
  touches : List (Nat × Nat) := []
  found : List Use := []

/-- Try one operation. A V-slot operation leaves no trace: no later slot's check depends on it. A vldx shares the own vault
with no other slot access of its vc and of the 31 after it, gated stores included, which need no bank (09 R244; 10 R273). -/
def Trial.op (t : Trial) (o : MicroOp) : Trial :=
  let p := o.ctx.core
  let s0 : State := { t.st with cur := o.ctx, agenda := [], trial := some [] }
  let s0 := if o.ctx.reis && o.ctx.slot == 5 then s0.updCore p Core.stepM else s0
  let s1 : State := match exec o.instr s0 with | .next s1 => s1 | _ => s0
  let us := s1.trial.getD []
  if o.ctx.slot = 3 ∨ o.ctx.slot = 4 then { t with found := t.found ++ us }
  else
    let n := (s0.core p).pend.length
    let early := match o.instr.readsAtIssue with
      | some (a, n) => [((s0.core p).ga a).toNat, ((s0.core p).ga a).toNat + n - 1]
      | none => []
    let reads := (s1.core p).newReads n ++ early
    let stores := (s1.core p).newStores (s0.core p).gate.length
    let ls := linesOfOffs reads
    let g := o.instr.gathers
    let whole := (s0.core p).gathering || (g && (!t.lines.isEmpty || t.stores))
    let clash := us.isEmpty && ((whole && !(reads ++ stores).isEmpty) || (!ls.isEmpty && !g && bankTwice (t.lines ++ ls)))
    let u := s0.useAt 0x24 (if whole then lowest (reads ++ stores) else max (64 * clashLine t.lines ls) (lowest reads))
    let near := if isSlot p then [] else (linesOfOffs early).map fun l => (p, l)
    { st := s1, lines := if g then t.lines else t.lines ++ ls, stores := t.stores || !stores.isEmpty,
      touches := t.touches ++ (s1.core p).newTouches p n ++ near, found := t.found ++ us ++ (if clash then [u] else []) }

/-- What stands before a bundle's issue: the member, its bundle, its operations, its faults by rank (17 R412: 0 header,
1 P slot, 2 to 6 bundle causes 0x20, 0x21, 0x23, 0x2F and 0x30, 7 slots), the damage of the words it uses, the vault lines
its slots touch, whether its header was read, and its header word. -/
structure Plan where
  p : Nat
  iss : InIssue := {}
  ops : List MicroOp := []
  reis : List Nat := []
  faults : List (Nat × Use) := []
  bad : List Damage := []
  touches : List (Nat × Nat) := []
  isBundle : Bool := true
  header : BitVec 32 := 0
  begun : Bool := false

/-- Does the S slot hold wfe, or tret? -/
def Plan.waits (x : Plan) : Bool := x.ops.any fun o => o.instr == .wfe
def Plan.returns (x : Plan) : Bool := x.ops.any fun o => o.instr == .tret

/-- Is the plan's bundle a checkpoint bundle in its first repetition? -/
def Plan.ck (x : Plan) : Bool := x.isBundle && x.iss.ck && x.iss.rep == 0

/-- Faults of the bundle as a whole, by rank (17 R412, R415 causes 0x20, 0x21, 0x23, 0x30); `full` the overflows of the
gate buffer that its slots found. -/
def Core.bundleFaults (c : Core) (i : InIssue) (full : List Use) : List (Nat × Use) :=
  let u := fun (b : Bool) (rank cause : Nat) =>
    if b then [(rank, ({ cause := cause, slot := 0, enc := i.header.toNat, reis := i.rep != 0 } : Use))] else []
  u (i.ck && c.pend.any fun x => c.vc < x.land && x.dest != .none) 2 0x20 ++ u (i.ck && i.rpt != 0) 3 0x21 ++
    full.map (fun x => (4, x)) ++ u (!i.ck && 65536 ≤ c.vc - c.ckVc) 6 0x30

/-- Collect the operations of slots, the faults of encodings and the damage of side words. -/
def State.gather (s : State) (cx : Ctx) (l : List (Nat × BitVec 32 × Bool)) : State × List MicroOp × List Use × List Damage :=
  l.foldl (fun r x =>
    let es := r.1.slotOps cx x.1 x.2.1 x.2.2
    es.foldl (fun r e =>
      let (s, os, us, ds) := r
      match e with
      | .error u => (s, os, us ++ [u], ds)
      | .ok o =>
        let (s, d) := s.sideDamage o
        (s, os ++ [o], us, ds ++ d)) r) (s, [], [], [])

/-- The plan of a bundle whose effective slots are known. -/
def State.planOf (s : State) (p : Nat) (i : InIssue) (l : List (Nat × BitVec 32 × Bool))
    (pre : List (Nat × Use)) (bad : List Damage) (begun : Bool) : State × Plan :=
  let c := s.core p
  let cx : Ctx := { core := p, rnd := i.rnd, sat := i.sat, ftz := i.ftz, sv := c.sv }
  let (s, os, us, ds) := s.gather cx l
  let first := i.ck && i.rep == 0
  let base := if first then ((c.gate.filter fun e => e.form == .l).foldl (fun r e => State.rawApply r p e) (s, [])).1 else s
  let base := base.updCore p fun c =>
    { c with inIssue := i, gate := if first then [] else c.gate,
             irrevNew := if first && !begun then c.newIrrev else c.irrevNew }
  let t := os.foldl Trial.op { st := base }
  let found := us ++ t.found
  let full := found.filter fun u => u.kind == 6 && u.cause == 0x23
  let rest := found.filter fun u => !(u.kind == 6 && u.cause == 0x23)
  let inSlot := fun (k : Nat) => (seqFrom 0 8).flatMap fun g => rest.filter fun u => u.slot == k && u.group == g
  let ranked := pre ++ c.bundleFaults i full ++ (((seqFrom 2 6).flatMap inSlot).map fun u => (7, u))
  (s, { p := p, iss := i, ops := os, reis := (l.filter (·.2.2)).map (·.1), faults := ranked, bad := bad ++ ds,
        touches := t.touches, header := i.header, begun := begun })

/-- The plan of agent `p` for this vc. -/
def State.plan (s : State) (p : Nat) : State × Plan :=
  let c := s.core p
  if c.inIssue.rep ≠ 0 then
    s.planOf p c.inIssue ((c.inIssue.slots.filter fun x => x.1 != 2).map fun x => (x.1, x.2, true)) [] [] false
  else
    let (s, r, bad) := s.fetch p
    match r with
    | .error u => (s, { p := p, faults := [(0, u)], bad := bad, isBundle := false })
    | .ok b =>
      let pf := match b.pslot with
        | some x => if pslotOk x then [] else [(1, ({ kind := 5, cause := 2, slot := 1, enc := x.toNat } : Use))]
        | none => []
      let begun := c.inIssue.len != 0 && c.inIssue.word == c.pc
      s.planOf p (c.entering b) (c.effective b) pf bad begun

/-- Plans of several agents. -/
def State.plans (s : State) : List Nat → State × List Plan
  | [] => (s, [])
  | p :: r =>
    let (s, x) := s.plan p
    let (s, l) := s.plans r
    (s, x :: l)

/-- Cause 0x2F: members that issue disagree on CK, QP, wfe or tret at one PVC (02 R46; 05 R151; 17 R425). -/
def disagree (l : List Plan) : Bool :=
  match l with
  | [] => false
  | x :: r => r.any fun y => y.isBundle && x.isBundle &&
      (y.iss.ck != x.iss.ck || y.iss.qp != x.iss.qp || y.waits != x.waits || y.returns != x.returns)

/-- A plan's faults with cause 0x2F at its place among the bundle causes. -/
def Plan.diverged (x : Plan) : Plan :=
  { x with faults := x.faults.filter (fun f => f.1 ≤ 4) ++ [(5, { cause := 0x2F, slot := 0 })] ++ x.faults.filter fun f => 5 < f.1 }

/-- Every fault of some plans, each with its member. -/
def allFaults (l : List Plan) : List (Nat × Use) := l.flatMap fun x => x.faults.map fun f => (x.p, f.2)

/-! ### Tandem comparison (02 R50 (c); 16 R406; 17 R421) -/

/-- Addresses and source operands of an operation that is irrevocable; a gst is one where its page is MMIO (02 R45). -/
def State.operandsOf (s : State) (o : MicroOp) : Option (List Word) :=
  match o.instr with
  | .gst _ a off _ _ => if ({ s with cur := o.ctx }).gstMmio ({ s with cur := o.ctx }.eaG a off).toNat then o.instr.operands (s.core o.ctx.core) else none
  | i => i.operands (s.core o.ctx.core)

/-- What a side brings to the comparison. -/
def State.side (s : State) (l : List Plan) (p : Nat) :
    (List (Form × List (Nat × Byte) × Option (Nat × AtomOp)) × List Word) × List (Instr × List Word) :=
  ((s.core p).gateSide, (l.filter fun x => x.p == p).flatMap fun x => x.ops.filterMap fun o => (s.operandsOf o).map fun w => (o.instr, w))

/-- Do the two sides of every pair agree? -/
def State.sidesAgree (s : State) (l : List Plan) (p : Nat) : Bool :=
  (s.pairs p).all fun x => s.side l x.1 == s.side l x.2



/-! ### Stream elements that a bundle pops (06 R157; 10 R279; 16 R394) -/

/-- How often the operations pop, or push, port `q`. -/
def streamCount (ops : List MicroOp) (push : Bool) (q : Nat) : Nat :=
  (ops.filter fun o => (if push then o.instr.streams.2 else o.instr.streams.1) == some q).length

/-- The worst of the elements that a plan's bundle is about to pop from port `q`, as far as the port holds them. -/
def State.popDamage (s : State) (x : Plan) (q : Nat) : Damage :=
  let l := (((s.core x.p).port q).ahead).take (16 * streamCount x.ops false q)
  l.foldl (fun (d : Damage) e =>
    if e.2.2 ≤ d.cls then d else
      let a := localAddr x.p e.1 / 64 * 64
      s.vaultDamage false [{ data := [], cls := [e.2.2], vault := true, pa := a, hit := s.hitsOf a,
                             poison := SMap.get s.marks 0 (markKey (localAddr x.p e.1)) != 0 }]) {}

/-- Damaged elements that a plan's bundle pops: those that no region tolerates, and those that one does (16 R394, R398). -/
def State.popDamages (s : State) (x : Plan) : List (Nat × Damage) × List Rec :=
  let ds := ((seqFrom 0 8).map (s.popDamage x)).filter (·.cls != 0)
  let ok := fun (d : Damage) => (s.core x.p).tolerates d.cls
  ((ds.filter fun d => !ok d).map fun d => (x.p, d), (ds.filter ok).map (s.toleratedRec x.p))

/-- Does port `q` lack elements that a plan's bundle pops (06 R157 (d))? -/
def State.popWaits (s : State) (x : Plan) (q : Nat) : Bool :=
  decide (((s.core x.p).port q).ahead.length < 16 * streamCount x.ops false q)

/-- An element address outside L-space, or not aligned, faults as the bundle waits for the element (18 R435). -/
def State.popFault (s : State) (x : Plan) (q : Nat) : Option XFault :=
  if s.popWaits x q then ((s.core x.p).port q).nextBad else none

/-- The faults of elements that plans wait for are reported, each once; are there any? -/
def State.reportPops (s : State) (l : List Plan) : State :=
  l.foldl (fun s x => (seqFrom 0 8).foldl (fun s q =>
    match s.popFault x q with
    | none => s
    | some f =>
      let w : Who := { p := x.p, ctx := s.ctxOf x.p, sv := (s.core x.p).sv, eng := true }
      if (s.core x.p).late.isEmpty then s.report x.p (s.recFor x.p { kind := f.kind, sev := 5, va := f.va, pa := f.pa, detail := f.detail w false 0 })
      else s) s) s

/-! ### Holds (01 R19) -/

/-- The row of 01 R19 that holds a planned bundle, 0 for none. -/
def State.holdRow (s : State) (x : Plan) : Nat :=
  let c := s.core x.p
  let full := (seqFrom 0 8).any fun q =>
    let n := streamCount x.ops true q
    n != 0 && 512 < (c.port q).ahead.length + c.reserved q + 16 * n
  let recvs := (x.ops.filter fun o => match o.instr with | .recv .. => true | _ => false).length
  if x.ops.any fun o => o.instr.queues && 16 ≤ (s.tile x.p).outstanding then 3
  else if full || (seqFrom 0 8).any (s.popWaits x) then 5
  else if x.ops.any fun o => match o.instr with | .tlwait k ss => (c.gtl k.toNat).toNat < (c.gs ss).toNat | _ => false then 6
  else if c.recvq.length + c.errq.length < recvs then 7
  else 0

/-- Note the rows that hold some agents. -/
def State.holdRows (s : State) (l : List (Nat × Nat)) : State :=
  l.foldl (fun s r => s.updCore r.1 fun c => { c with hold := r.2 }) s

/-- Is the plan a checkpoint bundle whose actions are still to come? -/
def Plan.releases (x : Plan) : Bool := x.ck && !x.begun

/-- Consumptions that plans' bundles make at their issue, of popped elements: those that no region tolerates, and the
records of those that one does. -/
def State.consumptions (s : State) (l : List Plan) : List (Nat × Damage) × List Rec :=
  let a := l.map s.popDamages
  (a.flatMap (·.1), a.flatMap (·.2))

/-- Does a checkpoint bundle's release wait for a fill that one of its gated stores started (09 R259 (b))? -/
def State.gateWaits (s : State) (x : Plan) : Bool := x.releases && (s.core x.p).gate.any (s.entryWaits x.p)

/-- Unfilled mapped lines that a plan's slots touch (09 R259 (a)). -/
def State.touchWaits (s : State) (x : Plan) : List (Nat × Nat) := x.touches.filter fun t => s.unfilled t.1 t.2

/-- The faults of fills that held bundles started (18 R436, R438): met in the hold, each member's first. -/
def State.touchFaults (s : State) (l : List Plan) : State × List (Nat × Use) :=
  l.foldl (fun r x =>
    ((r.1.touchWaits x).filter fun t => r.1.fillOf t.1 t.2 == 4).foldl (fun r t =>
      if r.2.any fun y => y.1 == x.p then r else
      let (s, f) := r.1.fillLine t.1 t.2
      (s, r.2 ++ (f.map fun f => (x.p, f.use { p := x.p, ctx := s.ctxOf x.p, sv := (s.core x.p).sv } false)).toList)) r) (s, [])

/-! ### Issue -/

/-- The records of the effective slots (04 R87). -/
def Core.noteRecs (c : Core) (i : InIssue) : Core :=
  { c with recs := i.slots.foldl (fun r x => if 3 ≤ x.1 then SMap.put r noSlot x.1 x.2 else r) c.recs }

/-- The three actions of a planned checkpoint bundle, once (02 R40). -/
def State.enter (s : State) (x : Plan) : State :=
  let s := s.updCore x.p fun c => { c with inIssue := x.iss }
  if x.releases then s.checkpoint x.p else s

/-- The checkpoint actions of planned bundles take place: what a region tolerates of the data released is logged, beside
the records `more` (16 R398, R404). -/
def State.enterAll (s : State) (l : List Plan) (more : List Rec) : State :=
  l.foldl State.enter (s.logSorted ((l.filter Plan.releases).flatMap (fun x => (s.gateDamages x.p).2) ++ more))

/-- The turns of a planned bundle's slots of one stage, re-issue steps included. -/
def Plan.turns (x : Plan) (stage : Nat) : List Turn :=
  if x.ops.isEmpty then (if stage = 2 then [.op { ctx := { core := x.p }, instr := .headerOnlyBundle }] else [])
  else (x.ops.filter fun o => o.instr.stage == stage).flatMap fun o =>
    let step : List Turn := if o.ctx.reis && o.ctx.group == 0 then [.op { o with instr := .reissue }] else []
    step ++ [.op o]

/-- Count the issue of a bundle for the power estimate (13 R362). -/
def State.tallyIssue (s : State) (x : Plan) : State :=
  let s : State := { s with cur := { core := x.p } }
  let s := if x.ops.any fun o => o.ctx.slot == 2 then s.tally 0 1 else s
  let n := (x.ops.filter fun o => (o.ctx.slot == 3 || o.ctx.slot == 4) && o.instr != .vnop).length
  if n = 0 then s else s.tally 1 n

/-- Run the operations at the head of the agenda. -/
def State.runOps : Nat → State → Host.Outcome State Fault Refusal
  | 0, s => .next s
  | n + 1, s =>
    match s.agenda with
    | .op o :: r =>
      match exec o.instr { s with agenda := r, cur := o.ctx, tick := s.tick + 1 } with
      | .next t => State.runOps n t
      | x => x
    | _ => .next s

/-- Issue the planned bundles: every member's slots, then the end of every member's repetition. The records `more` reach
the log beside those of the checkpoint actions. -/
def State.issue (s : State) (l : List Plan) (more : List Rec) : Host.Outcome State Fault Refusal :=
  let s := s.enterAll l more
  let s := l.foldl (fun s x => (s.updCore x.p fun c => { c.noteRecs x.iss with hold := 0 }).tallyIssue x) s
  let ts := (seqFrom 0 3).flatMap (fun k => l.flatMap fun x => x.turns k) ++ l.map fun x => Turn.op { ctx := { core := x.p }, instr := .bundleRepetition }
  State.runOps ts.length (s.pushTurns ts)

/-- Stop at the checkpoint bundle: its three actions, and none of its slots (02 R51). A fault still to be delivered is
kept (17 R423). -/
def State.stopHere (s : State) (l : List Plan) : State :=
  let s := s.enterAll l []
  let s := l.foldl (fun s x => (s.updCore x.p fun c => { c.stand with inIssue := {}, hold := 0 }).settleLate x.p) s
  match l with
  | [] => s
  | x :: _ =>
    match s.unitOf x.p with
    | none => s
    | some r => s.setUnit { r with stopGtc := s.gtc }

/-- Is a stop request honoured at the planned bundles (02 R51; 05 R143; 17 R420)? -/
def State.stopsHere (s : State) (l : List Plan) : Bool :=
  !l.isEmpty && l.all fun x => let c := s.core x.p
    x.releases && c.stopReq && !c.sv && !(c.atReplay && c.irrev.whole)

/-- The planned bundles are held: their checkpoint actions have taken place (17 R411 (b)). -/
def State.holdAll (s : State) (l : List Plan) (row : Plan → Nat) : State :=
  (s.enterAll l []).holdRows (l.map fun x => (x.p, row x))

/-- The planned bundles have no fault: comparison, what their releases and pops consume, stop, fills, holds, issue. -/
def State.proceed (s : State) (p : Nat) (l : List Plan) : Host.Outcome State Fault Refusal :=
  let w := (s.core p).pc
  let rel := (l.filter Plan.releases).map (·.p)
  if !rel.isEmpty && !s.sidesAgree l p then .next (s.differ p w)
  else if l.any s.gateWaits then .next (s.holdRows (l.map fun x => (x.p, if s.gateWaits x then 2 else 0)))
  else
    let cs := if s.stopsHere l then ([], []) else s.consumptions l
    match s.meetRelease p rel cs with
    | (_, some t) => .next t
    | (s, none) =>
      let s := s.agreed p w
      if s.stopsHere l then .next (s.stopHere l)
      else
        let (s, fs) := s.touchFaults l
        if !fs.isEmpty then .next (s.deliverUses p fs)
        else
          let s := s.reportPops l
          if l.any fun x => !(s.touchWaits x).isEmpty then
            let s := l.foldl (fun s x => (s.touchWaits x).foldl (fun s t => s.startFills t.1 [t.2]) s) s
            .next (s.holdAll l fun x => if (s.touchWaits x).isEmpty then 0 else 2)
          else if l.any fun x => s.holdRow x != 0 then .next (s.holdAll l s.holdRow)
          else s.issue l cs.2

/-- The bundles of this vc, after its landings: consumptions at the fetch, a transfer to a bundle that is no
checkpoint bundle (17 R422 (b)), faults, or the issue. A consumption stands before a fault of the same vc (16 R397). -/
def State.bundles (s : State) (p : Nat) (act : List Nat) : Host.Outcome State Fault Refusal :=
  let (s, l) := s.plans act
  let l := if disagree l then l.map Plan.diverged else l
  let recs := fun (l : List (Nat × Use)) => l.map fun x => s.useRec x.1 x.2
  let bad := l.flatMap fun x => x.bad.map fun d => (x.p, d)
  if !bad.isEmpty then .next (s.consume bad (recs (allFaults l)))
  else
    match l.find? fun x => (s.core x.p).needCk && x.isBundle && !x.iss.ck with
    | some x => .next (s.fatalStop x.p (s.useRec x.p { cause := 0x31 }))
    | none =>
      if s.oneSided p ((l.filter fun x => !x.faults.isEmpty).map (·.p)) then .next (s.differ p (s.core p).pc)
      else
        match allFaults l with
        | [] => s.proceed p l
        | (m, u) :: r =>
          let cs := s.consumptions l
          .next (if cs.1.isEmpty then s.deliverAmong m (s.useRec m u) false (recs r)
            else s.consume cs.1 (cs.2 ++ recs ((m, u) :: r)))

/-! ### The vc of an agent (01 R16 to R20) -/

/-- Faults reported before that wait for agent `p`: due at this vc, or as a hold ends (17 R418 (a), (b)). -/
def Core.waiting (c : Core) : List Late := c.late.filter fun x => x.due < c.vc || c.hold != 0

/-- Deliver the first waiting fault of some agents; the others append their records. -/
def State.deliverWaiting (s : State) (l : List Nat) : State :=
  let all := l.flatMap fun p => ((s.core p).waiting).map fun x => (p, x.what)
  let s := l.foldl (fun s p => s.updCore p fun c => { c with late := c.late.filter fun x => !c.waiting.contains x }) s
  match all with
  | [] => s
  | (p, r) :: rest => s.deliverAmong p r false (rest.map (·.2))

/-- The vc of agents none of which issues: what is in flight lands, and the vc count goes on; the holds of 01 R19
apply as before (02 R31). -/
def State.drift (s : State) (l : List Nat) (m : Nat) : State :=
  if l.any fun p => !(s.core p).pend.isEmpty || s.sigs.any fun g => g.target == p && g.due.isSome then
    if l.any fun p => ((s.core p).dueLate m).isSome || s.timedHold p m then s
    else
      let s := s.landAll l m []
      l.foldl (fun s p => s.updCore p fun c => { c with vc := m + 1, holdAt := false, pend := c.pend.filter fun x => x.land != m }) s
  else s

/-- One vc of agent `p`, with every agent that shares its vc count; `early` tells whether this vc's releases may stand
between its atomics (09 R245 (a)). -/
def State.oneVc (s : State) (p : Nat) (early : Bool) : Host.Outcome State Fault Refusal :=
  let l := s.lock p
  let act := (s.together p).filter fun m => !(s.core m).idle
  match act with
  | [] => .next (s.drift l (s.core p).vc)
  | a :: _ =>
    let m := (s.core a).vc
    if act.any fun q => !(s.core q).rest.isEmpty then
      -- the hold on hwaitc is abandoned for a fault (17 R418 (b))
      .next (if act.any fun q => !(s.dueFaults q).isEmpty then s.deliverWaiting l else s)
    else
    let s := (l.filter fun q => !act.contains q).foldl (fun s q => s.updCore q fun c => { c with vc := m }) s
    let rows := l.map fun q => (q, s.landRow q m)
    if !(s.core a).holdAt && rows.any fun r => r.2 != 0 then .next (s.holdRows (rows.filter fun r => r.2 != 0))
    else
      let n := s.agenda.length
      let s := if (s.core a).holdAt then s else s.landAll l m (if early then s.atCk act else [])
      if s.agenda.length ≠ n ∨ (s.core a).stopped then
        -- a consumption is delivered; faults of the same vc append their records (16 R397)
        .next (l.foldl (fun s q =>
          let w := (s.core q).waiting
          let s := s.updCore q fun c => { c with late := c.late.filter fun x => !w.contains x }
          s.logSorted (w.map (·.what))) s)
      else if l.any fun q => !((s.core q).waiting).isEmpty then
        if act.any s.stillHeld then .next s
        else .next (s.deliverWaiting l)
      else s.bundles a act

/-- One vc of agent `p`, with every agent that shares its vc count. Where an atomic of a member performs at this vc, the
releases of lower members stand before it; if their bundles then do not take place, neither have those releases. -/
def State.beginTurn (s : State) (p : Nat) : Host.Outcome State Fault Refusal :=
  let l := s.lock p
  let m := (s.core p).vc
  match s.early m (s.atCk (s.together p)) l with
  | [] => s.oneVc p true
  | es =>
    match s.oneVc p true with
    | .next t => if es.all fun q => (t.core q).ckVc == m then .next t else s.oneVc p false
    | x => x

/-- A turn of the sequencer that the hub program slots share: in ascending context number every slot that runs and is
not held issues one bundle (12 R319). -/
def State.slotsTurn (s : State) : State :=
  s.pushTurns (((seqFrom slotBase 16).filter fun p => !(s.core p).idle && !(s.core p).stopped).map .begin)

/-- The free schedule begins a hub program slot only by a turn of the slots' sequencer. -/
def Turn.free : Turn → Turn
  | .begin p => if slotBase ≤ p then .slots else .begin p
  | t => t

end Sys2Proof.Machine
end

