-- ==== Sys2Proof/Machine/Step.lean ====
section
/-! DEFINITION. The step: the head of the agenda, or what the free schedule names, happens next. -/

/-- FREE VALUE: which agent, engine, tile or event of the world acts next: the manual leaves the wall order of
agents open (01 R16; 11 R299). Log entry 1. -/
opaque Sys2Proof.Config.schedule : Nat → Sys2Proof.Machine.Turn

namespace Sys2Proof.Machine

open Sys2Proof



/-- Wall time passes before a step (00 R5; 01 R14 to R16). -/
def State.elapse (s : State) : State := { s.timePasses (Config.elapsed s.tick) with tick := s.tick + 1 }

/-- What happens in one turn. -/
def State.turn (s : State) (t : Turn) : Host.Outcome State Fault Refusal :=
  match t with
  | .begin p => State.beginTurn { s with cur := { core := p } } p
  | .slots => .next s.slotsTurn
  | .op o => exec o.instr { s with cur := o.ctx }
  | .tile q => State.tileStep exec { s with cur := { core := q } } q
  | .engine p e => .next (State.engineStep { s with cur := { core := p } } p e)
  | .event i => if i.spontaneous then exec i { s with cur := { core := s.actorOf i } } else .next s
  | .upset a b => .next (s.upset a b)
  | .offGrid q g => .next (s.offGrid q g)

/-- The step: time passes, and the head of the agenda acts; with an empty agenda the free schedule names who acts:
no operation acts but in its bundle, and no hub program slot but in a turn of the slots' sequencer. -/
def step (s : State) : Host.Outcome State Fault Refusal :=
  let s := s.elapse
  match s.agenda with
  | t :: r => State.turn { s with agenda := r } t
  | [] =>
    match Config.schedule s.tick with
    | .op _ => .next s
    | t => s.turn t.free

/-- `s` with an instruction placed where core 0, or tile 0 for a word of tile stream code, fetches next, and that
agent's turn due (log entry 27). -/
def State.withFetchWord (s : State) (_nbits w : Nat) : State :=
  let ws := wordsOf 7 w
  if fld (BitVec.ofNat 32 w) 28 4 = 0xA then
    let c := s.core 0
    let s := s.setBytes (ispAddr 0 ((ispOffset c.ispsel c.pc.toNat).getD 0)) (ws.flatMap fun x => toBytes 4 x.toNat)
    { s.updCore 0 fun c => { c with idle := false, holdAt := true } with agenda := [.begin 0] }
  else
    let s := s.setBytes (microAddr 0 0) (toBytes 4 (w % 2 ^ 32))
    let o : TileOp := { num := 1, kind := .mcall 0 }
    { s.updTile 0 fun t => { t with run := some { pc := 0, priv := true, accDone := true }, busyOp := some o } with
        agenda := [.tile 0] }

end Sys2Proof.Machine
end

