-- ==== Sys2Proof/Safety.lean ====
section
/-! DEFINITION. What claims call a good state, a result in flight, a completed instruction and an unchanged
part of the machine. -/

namespace Sys2Proof.Safety

open Machine

/-! ### Encodings -/

/-- The part of the core that an instruction belongs to: 2 the S slot, 3 an LGOP, 5 the M slot, 6 the C slots, 8 tile
stream code (17 R413's SLOT codes), 0 a machine step without an encoding. -/
def placeOf : Instr → Nat
  | .add .. | .sub .. | .and .. | .or .. | .xor .. | .sll .. | .srl .. | .sra .. | .mul .. | .mulh .. | .mulhu ..
  | .div .. | .divu .. | .rem .. | .remu .. | .min .. | .max .. | .minu .. | .maxu .. | .slt .. | .sltu ..
  | .clz .. | .ctz .. | .popc .. | .sextB .. | .sextH .. | .sextW .. | .zextB .. | .zextH .. | .zextW ..
  | .addi .. | .andi .. | .ori .. | .xori .. | .slli .. | .srli .. | .srai .. | .slti .. | .lih ..
  | .aadd .. | .amov .. | .movsa .. | .movas .. | .aaddi ..
  | .cmpEq .. | .cmpNe .. | .cmpLt .. | .cmpGe .. | .cmpLtu .. | .cmpGeu .. | .pand .. | .por .. | .pnot ..
  | .br .. | .brp .. | .brpN .. | .call .. | .ret .. | .loop .. | .bswap .. | .halt | .nop
  | .sldB .. | .sldH .. | .sldW .. | .sldD .. | .sstB .. | .sstH .. | .sstW .. | .sstD .. | .gld .. | .gst ..
  | .msetp .. | .mgetp .. | .setfmt .. | .setmpc .. | .getmpc .. | .sysrd .. | .syswr .. | .trap .. | .tret
  | .ifence | .snap .. | .wfe | .hlaunch .. | .hlaunchSealg .. | .hlaunchSealp | .hlaunchEnd | .hwaitc ..
  | .hcancel .. | .hsetc .. | .hsetcAdd .. | .hreadc .. | .hreadcSt .. | .hstop .. | .hstopU .. | .hctx ..
  | .hctxKill .. | .hctxHold .. | .hctxRun .. | .hdeal .. | .hdealE .. | .hdealRing .. => 2
  | .vnop | .vadd .. | .vsub .. | .vmul .. | .vmulh .. | .vmin .. | .vmax .. | .vand .. | .vor .. | .vxor ..
  | .vnot .. | .vshl .. | .vshr .. | .vsra .. | .vabs .. | .vneg .. | .vsel .. | .vcmpEq .. | .vcmpNe .. | .vcmpLt ..
  | .vcmpLe .. | .vcmpGt .. | .vcmpGe .. | .vfadd .. | .vfsub .. | .vfmul .. | .vfma .. | .vfms .. | .vfnma ..
  | .vfmin .. | .vfmax .. | .vfabs .. | .vfneg .. | .vfcmpEq .. | .vfcmpNe .. | .vfcmpLt .. | .vfcmpLe ..
  | .vfcmpGt .. | .vfcmpGe .. | .vfrcp .. | .vfrsq .. | .vfexp2 .. | .vflog2 .. | .vftanh .. | .vfsigm ..
  | .vcvt .. | .vcvtTwq .. | .vcvtm .. | .vbfpi .. | .vbfpo .. | .vscale .. | .vshuf .. | .vrot .. | .vbcast ..
  | .vredadd .. | .vredmax .. | .vredmin .. | .vscan .. | .vcompress .. | .vxg .. | .vxgb .. | .kand .. | .kor ..
  | .kxor .. | .knot .. | .kpopc .. | .kset .. | .ksetN .. | .vmov .. | .vmovi .. | .vmovs .. | .vrand ..
  | .vrandSeed .. | .vrandGet .. => 3
  | .mcall .. | .mrmin .. | .mrmax .. | .mrank .. | .mtopk .. | .mspill .. | .mfill .. | .mtrue | .mfence | .mqry .. => 5
  | .vld .. | .vst .. | .vldInv .. | .vldx .. | .vstx .. | .cpy .. | .cpys .. | .cpyg .. | .cpysc .. | .cpySum ..
  | .cpyFill .. | .bind .. | .unbind .. | .qstat .. | .atomAdd .. | .atomMin .. | .atomMax .. | .atomAnd ..
  | .atomOr .. | .atomXor .. | .atomSwap .. | .atomCas .. | .atomFadd .. | .wcinit .. | .wcread .. | .tlwait ..
  | .tlread .. | .tladv .. | .tlsig .. | .fence .. | .fenceAcq .. | .fenceRel .. | .drainPath ..
  | .drainPathStreams .. | .mapreg .. | .unmapreg .. | .wbreg .. | .touch .. | .send .. | .recv .. | .coll ..
  | .cxopen .. | .cxclose | .audmark .. | .audoff | .tcheck .. => 6
  | .tscWld .. | .tscWconv .. | .tscXstr .. | .tscRace | .tscAccsel .. | .tscAccmode .. | .tscTri .. | .tscTriOff
  | .tscHandoff .. | .tscEmit .. | .tscLoopImm .. | .tscLoopReg .. | .tscLoopKb | .tscEndl | .tscSkip .. | .tscBrc ..
  | .tscSetp .. | .tscSetpHi .. | .tscSetpReg .. | .tscWaitq | .tscHalt | .tscRmin .. | .tscRmax .. | .tscRank ..
  | .tscTopk .. | .tscTrimrd .. | .tscTrimwr .. | .tscRefrace .. => 8
  | _ => 0

/-! ### Stored bytes -/

/-- The stored bytes are in canonical form, so equal contents are equal data. -/
def MemOk (s : State) : Prop := Memory.wf s.mem = true

/-- No stored bit is flipped and no stored word is marked as poisoned. -/
def Undamaged (s : State) : Prop := s.sect = [] ∧ s.marks = []

/-- No stored bit is damaged, no sector is torn, and no stack is lost. -/
def Clean (s : State) : Prop := Undamaged s ∧ s.torn = [] ∧ s.err.lost = 0

/-- The acting agent's unit, if it has one, is not sampled by the auditor, or its audit has ended (16 R405, R407). -/
def Unlogged (s : State) : Prop := ∀ r, s.unitOf s.cur.core = some r → r.sampled = false ∨ r.audited = false

/-- A byte that is neither parity nor in the audit log's range (16 R402, R407). -/
def OffLog (s : State) (a : Nat) : Prop :=
  a < parityAddr 0 0 ∧ (a < s.err.audlog.toNat ∨ s.err.audlog.toNat + s.err.audlen.toNat ≤ a)

/-- No released store that waits has been passed across a narrow fence, so none must perform before a party acts (11
R307). -/
def NonePassed (s : State) : Prop := ∀ x ∈ s.cores, ∀ e ∈ x.2.released, e.passed = none

/-- No core has an access or an engine operation in flight, and no contribution to a collective stands. -/
def NothingOut (s : State) : Prop :=
  s.colls = [] ∧ ∀ p, (s.core p).pend = [] ∧ (s.core p).released = [] ∧ (s.core p).eng0 = [] ∧ (s.core p).eng1 = []

/-! ### Completion and frames -/

/-- The instruction answers a next state that has a property. -/
def Completes (i : Instr) (s : State) (P : State → Prop) : Prop := ∃ t, exec i s = .next t ∧ P t

/-- The machine apart from the sequencers is unchanged: stored bytes, tiles, units, contexts, queues and registers. -/
def SameWorld (s t : State) : Prop := { t with cores := s.cores } = s

/-- What the members of the acting agent's vc count that halt with the bundle in issue have to release and compare is
nothing, and no comparison is repeated (05 R131; 16 R406). -/
def HaltsQuietly (s : State) : Prop :=
  let halts := fun (m : Nat) => (s.core m).halting = true
  (halts s.cur.core → s.me.gate = []) ∧
  ∀ m ∈ s.lock s.cur.core, halts m → (s.core m).gate = [] ∧ (s.core m).tchecks = [] ∧
    ∀ u, s.unitOf s.cur.core = some u → u.retry = none

/-- Everything but the sequencer of the acting agent is unchanged, every stored byte among it. -/
def OnlyMe (s t : State) : Prop :=
  SameWorld s t ∧ (∀ q, q ≠ s.cur.core → t.core q = s.core q) ∧ ∀ a, t.byte a = s.byte a

/-- At most the results in flight of the acting agent change: no register, flag, special register or byte does. -/
def OnlyPend (s t : State) : Prop := OnlyMe s t ∧ { t.me with pend := s.me.pend } = s.me

/-- Nothing changes but that fills of unfilled mapped vault lines may have started (09 R259 (b)). -/
def StartsFills (s t : State) : Prop :=
  SameWorld s t ∧ (∀ a, t.byte a = s.byte a) ∧ (∀ q, { t.core q with fills := (s.core q).fills } = s.core q) ∧
  ∀ q l, t.fillOf q l = s.fillOf q l ∨ (s.unfilled q l = true ∧ s.fillOf q l = 0 ∧ t.fillOf q l = 2)

/-- Only the histories of units differ, which note writes (11 R313). -/
def SameUnits (s t : State) : Prop := (t.units.map fun r => { r with hist := [] }) = s.units.map fun r => { r with hist := [] }

/-- What the passing of wall time before a step does (00 R5; 01 R14 to R16): the GTC runs on; comparisons with it that come
true have their effect (05 R147; 13 R356, R358); a host route takes force (13 R349); histories take note. Nothing else
changes, and no byte but a snapshot's records. With a host route pending and writes of the module waiting for it, those
writes perform as it takes force; there only the GTC is spoken of. -/
def Elapsed (s t : State) : Prop :=
  let n := Config.elapsed s.tick
  t.tick = s.tick + 1 ∧ t.gtc = s.gtc + BitVec.ofNat 64 n ∧ (s.ctl.hnext = none ∨ s.ctl.hqueue = [] →
  t.ptp = s.ptp.due (s.gtc.toNat + n) ∧
  (∀ a, (a < snapAddr 0 ∨ snapAddr (64 * 620) ≤ a) → t.byte a = s.byte a) ∧
  (s.snap.trig = false → s.snap.en.getLsbD 3 = false →
    { t.snap with hit := s.snap.hit } = s.snap ∧ ∀ a, t.byte a = s.byte a) ∧
  (∀ q, { t.core q with evt := (s.core q).evt, armed := (s.core q).armed } = s.core q ∧
    (∀ k, k < 5 → k ≠ 1 → k ≠ 3 → (t.core q).evt.getLsbD k = (s.core q).evt.getLsbD k) ∧
    ((s.core q).armed = true → 0 < n → (s.core q).evgtc.toNat ≤ s.gtc.toNat + n →
      (t.core q).evt.getLsbD 1 = true ∧ (t.core q).armed = false) ∧
    (s.snap.en.getLsbD 3 = false → (s.core q).armed = false ∨ n = 0 ∨ s.gtc.toNat + n < (s.core q).evgtc.toNat →
      t.core q = s.core q)) ∧
  (∀ q, { t.tile q with queue := (s.tile q).queue } = s.tile q ∧
    (t.tile q).queue.map (fun o => { o with seen := none }) = (s.tile q).queue.map fun o => { o with seen := none }) ∧
  SameUnits s t ∧
  { t.ctl with hroute := s.ctl.hroute, hnext := s.ctl.hnext, hcuts := s.ctl.hcuts } = s.ctl ∧
  { t with tick := s.tick, gtc := s.gtc, ptp := s.ptp, mem := s.mem, past := s.past, snap := s.snap, cores := s.cores,
           tiles := s.tiles, units := s.units, ctl := s.ctl } = s)

/-- At most the acting agent's store gate buffer changes, fills apart. -/
def OnlyGate (s t : State) : Prop := ∃ u, StartsFills s u ∧ OnlyMe u t ∧ { t.me with gate := u.me.gate } = u.me

/-- A result in flight of the acting agent: destination, value, and the vc counts of its access and its landing. -/
def inFlight (s : State) (d : Dest) (x : Src) (perf lat : Nat) : Pending :=
  { dest := d, src := x, issue := s.me.vc, ord := s.cur.slot.toNat, perform := s.me.vc + perf, land := s.me.vc + lat }

/-- The acting agent's results in flight gain exactly one. -/
def Gains (s t : State) (x : Pending) : Prop := t.me.pend = s.me.pend ++ [x]

/-- The instruction completes; a result known at issue will land `lat` vc later; nothing else changes. -/
def Gives (i : Instr) (s : State) (d : Dest) (x : Src) (lat : Nat) : Prop :=
  Completes i s fun t => Gains s t (inFlight s d x 0 lat) ∧ OnlyPend s t

/-! ### Conditions of the S slot -/

/-- The acting operation stands in a checkpoint bundle. -/
def InCk (s : State) : Prop := s.me.inIssue.ck = true

/-- An own-vault or hub-memory range: inside L-space and aligned to its width (05 R132); a core's stores stay
below the region table. -/
def LocalOk (s : State) (ea : Word) (n : Nat) (wr : Bool) : Prop :=
  ea.toNat + n ≤ localSize s.cur.core ∧ ea.toNat % n = 0 ∧
  (wr = true → isSlot s.cur.core = false → ea.toNat + n ≤ regionTable)

/-- The store gate buffer has room for `n` more entries (02 R41: 256 entries). -/
def GateRoom (s : State) (n : Nat) : Prop := s.me.gateUsed + n ≤ 256

/-! ### Vector operations -/

/-- A stream port is bound in the direction asked for, with elements of `n` bytes (06 R157). -/
def PortReady (s : State) (q : Nat) (write : Bool) (n : Nat) : Prop :=
  (s.me.port q).bound = true ∧ (s.me.port q).write = write ∧ 2 ^ (s.me.port q).lsz = n

/-- The stream operands of an LGOP are ready (06 R157). -/
def PortsReady (s : State) (d a : BitVec 5) (qd qa : Bool) (db sb : Nat) : Prop :=
  (qa = true → PortReady s (a.toNat % 8) false sb) ∧ (qd = true → PortReady s (d.toNat % 8) true db)

/-- Where lane results go: the active lanes of a v register of the acting group, or 16 elements of a port, inactive
lanes as 0 (06 R155, R157 (b)). -/
def laneDest (s : State) (d : BitVec 5) (qd : Bool) (l : List (Nat × Lane)) : Dest × Src :=
  if qd then (.push (d.toNat % 8) 16, .lanes ((seqFrom 0 16).map fun i => (i, SMap.get l 0 i)))
  else (.lanes, .lanes (l.map fun x => (vkey s.cur.group ((d.toNat + s.cur.rbase.toNat) % 32) x.1, x.2)))

/-- The state in which an LGOP has read its first source, a port's elements being popped (06 R157 (a)). -/
def popped (s : State) (a : BitVec 5) (qa : Bool) : State := (s.srcA a qa).1

/-- Lane `i` of the first source. -/
def src1 (s : State) (a : BitVec 5) (qa : Bool) (i : Nat) : Lane := laneAt (s.srcA a qa).2 i

/-- Lane `i` of a v register field in the acting group, RBASE added (04 R93). -/
def src2 (s : State) (b : BitVec 5) (i : Nat) : Lane := laneAt (s.vsrc b) i

/-- The element-wise operation completes: each active lane, in ascending order, gets the value of `f` for its lane
number and first source, drawing from the group's random source as `f` says; results land `lat` vc later. Beside the
elements that a stream source loses, nothing else changes. -/
def LaneWise (i : Instr) (s : State) (d a : BitVec 5) (qd qa : Bool) (db sb lat : Nat)
    (f : Nat → Lane → Word → Lane × Word) : Prop :=
  PortsReady s d a qd qa db sb →
  Completes i s fun t =>
    let u := popped s a qa
    let r := drawLanes (fun j w => f j (src1 s a qa j) w) s.act s.rng
    let x := laneDest u d qd r.1
    Gains u t (inFlight u x.1 x.2 0 lat) ∧ t.me.rndOf u.cur.group = r.2 ∧
    (∀ g, g ≠ u.cur.group → t.me.rndOf g = u.me.rndOf g) ∧
    OnlyMe u t ∧ { t.me with pend := u.me.pend, rnd := u.me.rnd } = u.me

/-- The compare completes: the bits of active lanes of a mask of the acting group land two vc later. -/
def MaskWise (i : Instr) (s : State) (kd : BitVec 3) (a : BitVec 5) (qa : Bool) (sb : Nat) (f : Nat → Lane → Bool) : Prop :=
  (qa = true → PortReady s (a.toNat % 8) false sb) →
  Completes i s fun t =>
    let u := popped s a qa
    Gains u t (inFlight u (.k (8 * s.cur.group + kd.toNat))
      (.mask (selOf s.act) (maskOf (s.act.map fun j => (j, f j (src1 s a qa j))))) 0 2) ∧ OnlyPend u t

/-- Lane moves: the active lanes of v[d] get `f`'s values `lat` vc later, and nothing else changes. -/
def MovesLanes (i : Instr) (s : State) (d : BitVec 5) (lat : Nat) (f : Nat → Lane) : Prop :=
  Gives i s (laneDest s d false (s.act.map fun j => (j, f j))).1 (laneDest s d false (s.act.map fun j => (j, f j))).2 lat

/-- Lane results that draw from the group's random source: they land `lat` vc later, and nothing else changes. -/
def DrawsLanes (i : Instr) (s : State) (d : BitVec 5) (lat : Nat) (r : List (Nat × Lane) × Word) : Prop :=
  Completes i s fun t =>
    Gains s t (inFlight s (laneDest s d false r.1).1 (laneDest s d false r.1).2 0 lat) ∧
    t.me.rndOf s.cur.group = r.2 ∧ (∀ g, g ≠ s.cur.group → t.me.rndOf g = s.me.rndOf g) ∧
    OnlyMe s t ∧ { t.me with pend := s.me.pend, rnd := s.me.rnd } = s.me

/-- Bits of active lanes of a mask of the acting group land two vc later, and nothing else changes. -/
def GivesMask (i : Instr) (s : State) (kd : BitVec 3) (v : BitVec 16) : Prop :=
  Gives i s (.k (8 * s.cur.group + kd.toNat)) (.mask (selOf s.act) v) 2

/-- The bytes that stand for a number. -/
def laneWord (l : List Byte) (i : Nat) : Lane := BitVec.ofNat 32 (leNat ((l.drop (4 * i)).take 4))

/-! ### The M slot -/

/-- Everything but the acting sequencer and the acting tile is unchanged, every stored byte among it. -/
def OnlyMyTile (s t : State) : Prop :=
  { t with cores := s.cores, tiles := s.tiles } = s ∧ (∀ q, q ≠ s.cur.core → t.core q = s.core q ∧ t.tile q = s.tile q) ∧
  ∀ a, t.byte a = s.byte a

/-- An M-slot operation may issue: on a core, with MPC in the code ranges (08 R207). -/
def MayRace (s : State) : Prop :=
  isSlot s.cur.core = false ∧ (s.me.mpc.toNat < 0x200 ∨ (0x1000 ≤ s.me.mpc.toNat ∧ s.me.mpc.toNat < 0x2000))

/-- An operation with the captures of 08 R207 and this number stands last in the tile's operand queue. -/
def Queued (s t : State) (k : TKind) : Prop :=
  let c := s.me
  ∃ o : TileOp, t.tile s.cur.core = { s.tile s.cur.core with queue := (s.tile s.cur.core).queue ++ [o] } ∧
    o.num = c.ni + 1 ∧ o.kind = k ∧ o.mp = (seqFrom 0 8).map c.gmp ∧ o.fmt = c.fmt ∧ o.rnd = s.cur.rnd ∧
    o.sat = s.cur.sat ∧ o.ftz = s.cur.ftz ∧ o.info = s.metaWord ∧ o.sv = s.cur.sv ∧ o.vc = c.vc ∧ o.seen = none ∧
    (s.cur.rnd = 5 → o.seed = randStep (c.rndOf 0))

/-- What every M-slot operation does to its core: MPC advances, and RND 5 draws from group 0's source. -/
def Advances (s t : State) : Prop :=
  t.me.mpc = s.me.mpc + 1 ∧ (s.cur.rnd ≠ 5 → t.me.rnd = s.me.rnd) ∧
  (s.cur.rnd = 5 → t.me.rndOf 0 = randStep (s.me.rndOf 0) ∧ ∀ g, g ≠ 0 → t.me.rndOf g = s.me.rndOf g)

/-- The numbered operation issues with its captures and the next number, and changes nothing else. -/
def Numbers (i : Instr) (s : State) (k : TKind) : Prop :=
  Completes i s fun t => Queued s t k ∧ Advances s t ∧ t.me.ni = s.me.ni + 1 ∧ OnlyMyTile s t ∧
    { t.me with mpc := s.me.mpc, rnd := s.me.rnd, ni := s.me.ni } = s.me

/-! ### Operands of the C slots -/

/-- An operation accepts the space of an address: its code is listed, the bits that must be 0 are 0, a hub program slot
names no vault of a cluster, and a named core is enabled (10 R268; 09 R238; 12 R319). -/
def SpaceOk (s : State) (a : Word) (accept : List Nat) : Prop :=
  spaceOf a ∈ accept ∧ spaceOf a ≠ 3 ∧ addrBitsOk a = true ∧ (spaceOf a = 0 → offOf a < localSize s.cur.core) ∧
  (spaceOf a = 1 → isSlot s.cur.core = false ∧ s.enabled (coreC s.cur.core a) = true)

/-- An L-space operand of `n` bytes aligned to `k`. -/
def LocalOperand (s : State) (a : Word) (n k : Nat) (wr : Bool) : Prop :=
  SpaceOk s a [0] ∧ a.toNat % k = 0 ∧ a.toNat + n ≤ localSize s.cur.core ∧
  (wr = true → isSlot s.cur.core = false → a.toNat + n ≤ regionTable)

/-- Elements of `b` bytes at these offsets lie inside the space, aligned, and no store meets the region table. -/
def LanesOk (s : State) (l : List ((Nat × Nat) × Int)) (b size : Nat) (wr : Bool) : Prop :=
  ∀ x ∈ l, 0 ≤ x.2 ∧ x.2 + (b : Int) ≤ (size : Int) ∧ x.2.toNat % b = 0 ∧
    (wr = true → isSlot s.cur.core = false → x.2.toNat + b ≤ regionTable)

/-- An operand of a numbered operation (10 R268, R277): `accept` lists the spaces; a path destination is one that the
mode allows. -/
def Accepted (s : State) (a : Word) (accept : List Nat) (target : Bool) : Prop :=
  spaceOf a ∈ accept ∧ (spaceOf a = 1 → isSlot s.cur.core = false) ∧
  (target = true → spaceOf a = 3 → s.pathAllowed a = true)

/-- The acting slot's irrevocable operation stands in a checkpoint bundle that has not completed, and not on a tandem
secondary (02 R45, R50; 17 R419). -/
def FirstTime (s : State) : Prop :=
  InCk s ∧ s.donePreviously = false ∧ s.secondary s.cur.core = false

/-- The irrevocable record gains the acting slot's mark. -/
def Marks (s t : State) : Prop :=
  t.me.irrevNew = { s.me.irrevNew with done := s.me.irrevNew.done ++ [s.irrevKey] }

/-- The irrevocable record gains the acting slot's mark, the operation having acted on the core's own regions alone (17
R419). -/
def MarksSoft (s t : State) : Prop :=
  t.me.irrevNew = { s.me.irrevNew with
    done := s.me.irrevNew.done ++ [s.irrevKey], soft := s.me.irrevNew.soft ++ [s.irrevKey] }

/-- A store's bytes wait in the gate buffer: one entry for each 64-byte block, and no other change but `back`. -/
def Gates (s t : State) (f : Form) (cells : List (Nat × Byte)) : Prop :=
  ∃ l : List Gated, t.me.gate = s.me.gate ++ l ∧ (l.flatMap (·.cells)).Perm cells ∧
    (∀ e ∈ l, e.form = f ∧ e.atom = none ∧ e.entry = true ∧ e.issue = s.me.vc ∧ e.sv = s.cur.sv) ∧
    (∀ e ∈ l, ∀ x ∈ e.cells, ∀ y ∈ e.cells, x.1 / 64 = y.1 / 64) ∧
    l.Pairwise fun d e => ∀ x ∈ d.cells, ∀ y ∈ e.cells, x.1 / 64 ≠ y.1 / 64

/-! ### Numbered operations of the C slots -/

/-- The numbered operation completes its issue: it stands last in its engine's list with the next number, which
lands in s[SN] in the next vc (10 R269), and nothing else changes. -/
def Numbered (i : Instr) (s : State) (e : Nat) (sn : BitVec 5) (o : EngOp) : Prop :=
  Completes i s fun t =>
    let n := s.me.count e + 1
    (t.me.engOps e) = s.me.engOps e ++ [{ o with num := n, sv := s.cur.sv }] ∧ t.me.count e = n ∧
    (∀ k, k ∈ [0, 1, 3] → k ≠ e → t.me.count k = s.me.count k) ∧
    Gains s t (inFlight s (.s sn.toNat) (.word (BitVec.ofNat 64 n)) 0 1) ∧ OnlyMe s t ∧
    { (t.me.setEng e (s.me.engOps e)) with pend := s.me.pend, n0 := s.me.n0, n1 := s.me.n1, n3 := s.me.n3 } = s.me

/-- The engine has room (10 R270). -/
def EngineRoom (s : State) (e : Nat) : Prop := (s.me.engOps e).length < (if e = 3 then 8 else 32)

/-! ### Hub operations -/

/-- The request of a hub operation stands last with the device hub, and the rest of its bundle waits for the answer. -/
def Sent (s t : State) (op func : Nat) (x y : Word) : Prop :=
  t.hubq = s.hubq ++ [{
    agent := s.cur.core, id := s.me.nid + 1, op := op, func := func, x := x, y := y,
    ctx := s.ctxOf s.cur.core, sv := s.cur.sv, enc := s.cur.enc, reis := s.cur.reis }] ∧
  t.me.nid = s.me.nid + 1 ∧ t.me.hold = (if op = 0x31 then 8 else 1) ∧ t.me.rest = leadOps s.agenda ∧
  t.agenda = s.agenda.drop (leadOps s.agenda).length ∧
  (∀ q, q ≠ s.cur.core → t.core q = s.core q) ∧ (∀ a, t.byte a = s.byte a) ∧
  { t with cores := s.cores, hubq := s.hubq, agenda := s.agenda } = s

/-- Nothing that the hubs do by themselves is due, nor becomes so by a change of a counter: no freewheel unit stands, no
job ends or is cancelled, and every launch has become ready. -/
def Settled (s : State) : Prop :=
  (∀ r ∈ s.units, r.prio ≠ 255) ∧ ∀ e ∈ s.ctxs, e.2.ending = false ∧ ∀ y ∈ e.2.launches, y.ready = true

/-- A unit whose members have halted with nothing of theirs in flight (02 R31; 12 R338). -/
def AtRest (s : State) (r : UnitRec) : Prop :=
  r.members ≠ [] ∧ s.signals r = false ∧
  ∀ m ∈ r.members, (s.core m).late = [] ∧ (s.core m).pend = [] ∧ s.quiet m = true ∧
    ∀ k, k < 8 → ((s.core m).port k).write = true → ((s.core m).port k).ahead = []

/-- A core that its unit has left: only its port list may be written in another order. -/
def Left (k k' : Core) : Prop := { k' with ports := k.ports } = k.leave ∧ ∀ q, q < 8 → k'.port q = k.port q

/-- A unit has ended: its record is gone, its launch counts it or not, its cores are free, and nothing else changes. -/
def Ended (s t : State) (r : UnitRec) (y : Launch) : Prop :=
  t.findUnit r.ctx r.lid r.u = none ∧ (∀ c l u, (c, l, u) ≠ (r.ctx, r.lid, r.u) → t.findUnit c l u = s.findUnit c l u) ∧
  t.launchOf r.ctx r.lid = some y ∧ (∀ c, c ≠ r.ctx → t.ctx c = s.ctx c) ∧
  (∀ m ∈ r.members, Left (s.core m) (t.core m)) ∧ (∀ q, q ∉ r.members → t.core q = s.core q) ∧
  { t with cores := s.cores, units := s.units, ctxs := s.ctxs } = s

/-! ### Routines -/

/-- A word of tile stream code runs: the acting tile's routine becomes another, and nothing else changes. -/
def RoutineTo (i : Instr) (s : State) (r' : Routine) : Prop :=
  Completes i s fun t => (t.tile s.cur.core).run = some r' ∧
    { t with tiles := s.tiles } = s ∧ (∀ q, q ≠ s.cur.core → t.tile q = s.tile q) ∧ (∀ a, t.byte a = s.byte a) ∧
    { t.tile s.cur.core with run := (s.tile s.cur.core).run } = s.tile s.cur.core

end Sys2Proof.Safety
end

