-- ==== Sys2Proof/Certificates/Slice0/Obligations.lean ====
section
/-! DEFINITION. The statements for the provers: encodings, reset, the step, what each instruction does and
leaves unchanged, landings, stores, modes and faults. -/

open Sys2Proof Sys2Proof.Machine Sys2Proof.Safety

/-! ### Encodings -/

/-- Every S-slot instruction with an encoding decodes from its word, whatever its operands (04 R103, R104). -/
def Obligations.SlotSRoundTrip : Prop :=
  ∀ (i : Instr) (w : BitVec 32), placeOf i = 2 → i.wf = true → encode i = some w → decodeS w = .ok i

/-- Every LGOP with an encoding decodes from its word, whatever its operands (04 R94, R105). -/
def Obligations.LgopRoundTrip : Prop :=
  ∀ (i : Instr) (w : BitVec 32), placeOf i = 3 → i.wf = true → encode i = some w → decodeLgop w = .ok i

/-- Every M-slot and C-slot instruction with an encoding decodes from its word (04 R106, R107). -/
def Obligations.MatrixAndCopyRoundTrip : Prop :=
  ∀ (i : Instr) (w : BitVec 32), i.wf = true → encode i = some w →
    (placeOf i = 5 → decodeM w = .ok i) ∧ (placeOf i = 6 → decodeC w = .ok i)

/-- Every instruction of tile stream code with an encoding decodes from its word (04 R109; 08 R227). -/
def Obligations.TileCodeRoundTrip : Prop :=
  ∀ (i : Instr) (w : BitVec 32), placeOf i = 8 → i.wf = true → encode i = some w → decodeTsc w = .ok i

/-- What a decoder accepts is an instruction of its part of the core, well formed, and its encoding is that very
word: no reserved bit is ignored and no two words mean one instruction (17 R414). -/
def Obligations.DecodedWordsAreEncodings : Prop :=
  ∀ (w : BitVec 32) (i : Instr),
    (decodeS w = .ok i → placeOf i = 2 ∧ i.wf = true ∧ encode i = some w) ∧
    (decodeM w = .ok i → placeOf i = 5 ∧ i.wf = true ∧ encode i = some w) ∧
    (decodeC w = .ok i → placeOf i = 6 ∧ i.wf = true ∧ encode i = some w) ∧
    (decodeTsc w = .ok i → placeOf i = 8 ∧ i.wf = true ∧ encode i = some w) ∧
    (decodeLgop w = .ok i → placeOf i = 3 ∧ i.wf = true ∧ encode i = some w)

/-- Words written out from the manual's encodings decode to what they stand for. -/
def Obligations.PrintedWordsDecode : Prop :=
  decodeS 0x10200004 = .ok (.ori 1 0 4) ∧ decodeS 0x5020000C = .ok (.loop 1 false 0x00C) ∧
  decodeS 0x08420001 = .ok (.addi 2 2 1) ∧ decodeS 0x04631000 = .ok (.add 3 3 2) ∧
  decodeS 0x7C600000 = .ok (.sstD 3 0 0) ∧ decodeS 0x58000000 = .ok .halt ∧
  decodeC 0xE0000000 = .ok .cxclose ∧ decodeC 0xDB008000 = .ok (.cxopen 6 0 false 0x080) ∧
  decodeM 0x80000000 = .ok .mtrue ∧ decodeM 0x90000000 = .ok .mfence

/-- The fields of a bundle's header (04 R84): what stands at bits 18, 19 and [12:7], and that any other format code,
a nonzero reserved field or QP without CK is not a bundle. -/
def Obligations.HeaderFields : Prop :=
  ∀ (h : BitVec 32) (r : List (BitVec 32)),
    (∀ b, decodeBundle (h :: r) = .ok b →
      b.ck = h.getLsbD 18 ∧ b.qp = h.getLsbD 19 ∧ b.rpt = (h.extractLsb' 7 6).toNat ∧ b.reis = h.extractLsb' 13 5 ∧
      h.extractLsb' 28 4 = 0xA ∧ h.extractLsb' 20 8 = 0 ∧ (h.getLsbD 19 = true → h.getLsbD 18 = true)) ∧
    (h.extractLsb' 28 4 ≠ 0xA ∨ h.extractLsb' 20 8 ≠ 0 ∨ (h.getLsbD 19 = true ∧ h.getLsbD 18 = false) →
      decodeBundle (h :: r) = .error .header)

/-! ### Reset and memory -/

/-- What the manual states of the module after power-on: the GTC is 0, no unit, context or queued operation stands,
the last reset was a cold one, and every register of a core that 13 R357 clears reads 0. -/
def Obligations.ResetState : Prop :=
  State.reset.gtc = 0 ∧ State.reset.rstLast = 2 ∧ State.reset.units = [] ∧ State.reset.ctxs = [] ∧
  State.reset.hubq = [] ∧ State.reset.mesh = [] ∧ State.reset.journal = [] ∧ State.reset.torn = [] ∧
  ∀ p, (State.reset.core p).pend = [] ∧ (State.reset.core p).gate = [] ∧ (State.reset.core p).eng0 = [] ∧
    (State.reset.core p).eng1 = [] ∧ (∀ r, (State.reset.core p).gs r = 0) ∧ (∀ r, (State.reset.core p).ga r = 0) ∧
    (∀ r, (State.reset.core p).gp r = false) ∧ (State.reset.tile p).queue = [] ∧ (State.reset.tile p).acc = []

/-- The stored bytes are in canonical form after reset. -/
def Obligations.ResetMemoryCanonical : Prop := MemOk State.reset

/-- Every step keeps the stored bytes in canonical form. -/
def Obligations.StepKeepsMemoryCanonical : Prop := ∀ s t : State, MemOk s → step s = .next t → MemOk t

/-- A store is read back, leaves every other byte, and keeps the canonical form. -/
def Obligations.StoredBytesReadBack : Prop :=
  ∀ (s : State) (a : Nat) (d : List Byte),
    (∀ i, (h : i < d.length) → (s.setBytes a d).byte (a + i) = d[i]) ∧
    (∀ c, (c < a ∨ a + d.length ≤ c) → (s.setBytes a d).byte c = s.byte c) ∧ (MemOk s → MemOk (s.setBytes a d))

/-! ### The step -/

/-- With an operation at the head of the agenda, the step lets time pass and is that operation's meaning; and what the
passing of time does, in every state. -/
def Obligations.StepIsTheOperation : Prop :=
  (∀ (s : State) (o : MicroOp) (r : List Turn), s.agenda = .op o :: r →
    step s = exec o.instr { s.elapse with agenda := r, cur := o.ctx }) ∧
  ∀ s : State, Elapsed s s.elapse

/-- When, time having passed, the two words at the pc of a core that runs on its own are the header of a bundle with an S
slot alone and the word of a well-formed instruction, the bundle has no fault, nothing is due or reported, no word is
damaged and no mapped line of the core unfilled, the core's turn is that instruction's meaning, followed by the end of
the bundle's one repetition. -/
def Obligations.BundleRunsItsInstruction : Prop :=
  ∀ (s0 : State) (p o : Nat) (w : BitVec 32) (i : Instr) (r : List Turn),
    let s := s0.elapse
    let c := s.core p
    s0.agenda = .begin p :: r → s.lock p = [p] → Undamaged s → s.stale = [] → (∀ k, s.unfilled p k = false) →
    (∀ u, s.unitOf p = some u → u.retry = none) →
    c.idle = false → c.halted = false → c.stopped = false → c.rest = [] → c.holdAt = true → c.late = [] →
    c.needCk = false → c.inIssue.rep = 0 →
    ispOffset c.ispsel c.pc.toNat = some o → codeSpan c.pc.toNat 2 = true →
    s.ispWords p o 2 = [0xA0000002, w] → decodeSlot 2 w = .ok i → placeOf i = 2 →
    (({ s with agenda := r, cur := { core := p } } : State).plan p).2.faults = [] →
    ∃ s1 : State,
      step s0 = (match exec i s1 with | .next t => State.runOps 1 t | x => x) ∧
      s1.cur = { core := p, slot := 2, enc := w, sv := c.sv } ∧
      s1.agenda = .op { ctx := { core := p }, instr := .bundleRepetition } :: r ∧
      (s1.core p).inIssue.word = c.pc ∧ (s1.core p).inIssue.len = 2 ∧ (s1.core p).inIssue.ck = false ∧
      (s1.core p).inIssue.rpt = 0 ∧ s1.tick = s.tick + 1 ∧
      { s1.core p with inIssue := c.inIssue, hold := c.hold } = c ∧ (∀ q, q ≠ p → s1.core q = s.core q) ∧
      { s1 with agenda := s.agenda, cur := s.cur, tick := s.tick, cores := s.cores, pow := s.pow } = s

/-! ### Integer, address and predicate operations (05 R119 to R124) -/

/-- The result of a two-operand integer operation lands in s[d]; nothing else changes. -/
def Obligations.IntegerResults : Prop :=
  ∀ (s : State) (d a b : BitVec 5),
    let x := s.me.gs a
    let y := s.me.gs b
    let gives := fun (i : Instr) (v : Word) (lat : Nat) => Gives i s (.s d.toNat) (.word v) lat
    gives (.add d a b) (x + y) 1 ∧ gives (.sub d a b) (x - y) 1 ∧ gives (.and d a b) (x &&& y) 1 ∧ gives (.or d a b) (x ||| y) 1 ∧
    gives (.xor d a b) (x ^^^ y) 1 ∧ gives (.sll d a b) (x <<< (y.toNat % 64)) 1 ∧ gives (.srl d a b) (x >>> (y.toNat % 64)) 1 ∧
    gives (.sra d a b) (x.sshiftRight (y.toNat % 64)) 1 ∧ gives (.mul d a b) (x * y) 3 ∧
    gives (.mulh d a b) (BitVec.ofInt 64 (x.toInt * y.toInt / 2 ^ 64)) 3 ∧
    gives (.mulhu d a b) (BitVec.ofNat 64 (x.toNat * y.toNat / 2 ^ 64)) 3 ∧
    gives (.min d a b) (if x.toInt ≤ y.toInt then x else y) 1 ∧ gives (.max d a b) (if x.toInt ≤ y.toInt then y else x) 1 ∧
    gives (.minu d a b) (if x.toNat ≤ y.toNat then x else y) 1 ∧ gives (.maxu d a b) (if x.toNat ≤ y.toNat then y else x) 1 ∧
    gives (.slt d a b) (if x.toInt < y.toInt then 1 else 0) 1 ∧ gives (.sltu d a b) (if x.toNat < y.toNat then 1 else 0) 1

/-- Division (05 R120): the quotient rounds toward zero and the remainder has the dividend's sign; y = 0 gives all
ones and the dividend, and −2^63 divided by −1 gives −2^63 and 0. -/
def Obligations.DivisionResults : Prop :=
  ∀ (s : State) (d a b : BitVec 5),
    let x := s.me.gs a
    let y := s.me.gs b
    let gives := fun (i : Instr) (v : Word) => Gives i s (.s d.toNat) (.word v) 12
    (y ≠ 0 → gives (.div d a b) (BitVec.ofInt 64 (x.toInt.tdiv y.toInt)) ∧ gives (.divu d a b) (x / y) ∧
      gives (.rem d a b) (BitVec.ofInt 64 (x.toInt.tmod y.toInt)) ∧ gives (.remu d a b) (x % y)) ∧
    (y = 0 → gives (.div d a b) 0xFFFFFFFFFFFFFFFF ∧ gives (.divu d a b) 0xFFFFFFFFFFFFFFFF ∧
      gives (.rem d a b) x ∧ gives (.remu d a b) x) ∧
    (x = 0x8000000000000000 → y = 0xFFFFFFFFFFFFFFFF →
      gives (.div d a b) 0x8000000000000000 ∧ gives (.rem d a b) 0)

/-- clz, ctz and popc (05 R119): 64 for an operand of 0; otherwise the zero bits stand above, or below, a bit that
is 1; popc counts the bits that are 1. -/
def Obligations.CountedBits : Prop :=
  ∀ (s : State) (d a : BitVec 5),
    let x := s.me.gs a
    let gives := fun (i : Instr) (n : Nat) => Gives i s (.s d.toNat) (.word (BitVec.ofNat 64 n)) 1
    (∃ n, gives (.clz d a) n ∧ n ≤ 64 ∧ (∀ k, 64 - n ≤ k → x.getLsbD k = false) ∧ (n < 64 → x.getLsbD (63 - n) = true)) ∧
    (∃ n, gives (.ctz d a) n ∧ n ≤ 64 ∧ (∀ k, k < n → x.getLsbD k = false) ∧ (n < 64 → x.getLsbD n = true)) ∧
    gives (.popc d a) ((List.range 64).countP fun k => x.getLsbD k)

/-- Extensions and immediate forms (05 R119, R121). -/
def Obligations.ImmediateResults : Prop :=
  ∀ (s : State) (d a : BitVec 5) (imm : BitVec 16) (sh : BitVec 6),
    let x := s.me.gs a
    let gives := fun (i : Instr) (v : Word) => Gives i s (.s d.toNat) (.word v) 1
    gives (.sextB d a) ((x.setWidth 8).signExtend 64) ∧ gives (.sextH d a) ((x.setWidth 16).signExtend 64) ∧
    gives (.sextW d a) ((x.setWidth 32).signExtend 64) ∧ gives (.zextB d a) (x &&& 0xFF) ∧ gives (.zextH d a) (x &&& 0xFFFF) ∧
    gives (.zextW d a) (x &&& 0xFFFFFFFF) ∧ gives (.addi d a imm) (x + imm.signExtend 64) ∧
    gives (.andi d a imm) (x &&& imm.setWidth 64) ∧ gives (.ori d a imm) (x ||| imm.setWidth 64) ∧
    gives (.xori d a imm) (x ^^^ imm.setWidth 64) ∧ gives (.slli d a sh) (x <<< sh.toNat) ∧ gives (.srli d a sh) (x >>> sh.toNat) ∧
    gives (.srai d a sh) (x.sshiftRight sh.toNat) ∧
    gives (.slti d a imm) (if x.toInt < imm.toInt then 1 else 0) ∧ gives (.lih d a imm) ((x <<< 16) ||| imm.setWidth 64)

/-- Address forms (05 R123), and compare and predicate forms (05 R124): each gives its result in the next vc. -/
def Obligations.AddressAndPredicateResults : Prop :=
  (∀ (s : State) (ad as : BitVec 4) (sd sa : BitVec 5) (imm : BitVec 16),
    Gives (.aadd ad as sa) s (.a ad.toNat) (.word (s.me.ga as + s.me.gs sa)) 1 ∧
    Gives (.amov ad as) s (.a ad.toNat) (.word (s.me.ga as)) 1 ∧
    Gives (.movsa sd as) s (.s sd.toNat) (.word (s.me.ga as)) 1 ∧
    Gives (.movas ad sa) s (.a ad.toNat) (.word (s.me.gs sa)) 1 ∧
    Gives (.aaddi ad as imm) s (.a ad.toNat) (.word (s.me.ga as + imm.signExtend 64)) 1) ∧
  ∀ (s : State) (pd pa pb : BitVec 3) (a b : BitVec 5),
    let x := s.me.gs a
    let y := s.me.gs b
    let gives := fun (i : Instr) (v : Bool) => Gives i s (.p pd.toNat) (.word (if v then 1 else 0)) 1
    gives (.cmpEq pd a b) (x == y) ∧ gives (.cmpNe pd a b) (x != y) ∧ gives (.cmpLt pd a b) (decide (x.toInt < y.toInt)) ∧
    gives (.cmpGe pd a b) (decide (y.toInt ≤ x.toInt)) ∧ gives (.cmpLtu pd a b) (decide (x.toNat < y.toNat)) ∧
    gives (.cmpGeu pd a b) (decide (y.toNat ≤ x.toNat)) ∧ gives (.pand pd pa pb) (s.me.gp pa && s.me.gp pb) ∧
    gives (.por pd pa pb) (s.me.gp pa || s.me.gp pb) ∧ gives (.pnot pd pa) (!s.me.gp pa)

/-- Matrix parameters, FMT and MPC (05 R137 to R139; 04 R92): latencies 1, 1, 4, 1 and 1. -/
def Obligations.ParameterResults : Prop :=
  ∀ (s : State) (k : BitVec 3) (d a : BitVec 5),
    let v := s.me.gs a
    Gives (.msetp k a) s (.mp k.toNat) (.word v) 1 ∧ Gives (.mgetp d k) s (.s d.toNat) (.word (s.me.gmp k.toNat)) 1 ∧
    Gives (.getmpc d) s (.s d.toNat) (.word s.me.mpc) 1 ∧
    (v.toNat < 128 → v.extractLsb' 3 2 ≠ 3 → v.extractLsb' 0 3 ≠ 7 → Gives (.setfmt a) s .fmt (.word v) 4) ∧
    (v.toNat < 0x200 ∨ (0x1000 ≤ v.toNat ∧ v.toNat < 0x2000) → Gives (.setmpc a) s .mpc (.word v) 1)

/-! ### Results in flight (04 R96, R99) -/

/-- One scalar result lands at its vc and not before: s[d] then reads the value, s0 reads 0, no other register of
the core changes, and the result is no longer in flight. -/
def Obligations.ScalarResultLands : Prop :=
  ∀ (s : State) (x : Pending) (d : BitVec 5) (w : Word),
    let p := s.cur.core
    let c := s.me
    s.together p = [p] → c.pend = [x] → x.dest = .s d.toNat → x.src = .word w → x.perform ≠ c.vc → x.late = false →
    x.dmg.cls = 0 → s.sigs = [] →
    ∃ t, exec .resultLanding s = .next t ∧ (∀ a, t.byte a = s.byte a) ∧ (∀ q, q ≠ p → t.core q = s.core q) ∧
      (x.land = c.vc → t.me.pend = [] ∧ (∀ r, t.me.gs r = if r = d ∧ d ≠ 0 then w else c.gs r) ∧
        { t.me with s := c.s, pend := c.pend, holdAt := c.holdAt } = c) ∧
      (x.land ≠ c.vc → { t.me with holdAt := c.holdAt } = c)

/-- Of two results for one scalar register that land in one vc, the one issued later prevails, and of two issued in
one vc the one of the later slot (04 R99). -/
def Obligations.LaterResultPrevails : Prop :=
  ∀ (s : State) (x y : Pending) (d : BitVec 5) (v w : Word),
    let p := s.cur.core
    let c := s.me
    s.together p = [p] → (c.pend = [x, y] ∨ c.pend = [y, x]) → x.dest = .s d.toNat → y.dest = .s d.toNat →
    x.src = .word v → y.src = .word w → x.land = c.vc → y.land = c.vc → x.perform ≠ c.vc → y.perform ≠ c.vc →
    x.late = false → y.late = false → x.dmg.cls = 0 → y.dmg.cls = 0 → s.sigs = [] → d ≠ 0 →
    (x.issue < y.issue ∨ (x.issue = y.issue ∧ x.ord < y.ord)) →
    ∃ t, exec .resultLanding s = .next t ∧ t.me.gs d = w

/-! ### Control transfer (05 R122, R125 to R131) -/

/-- nop and ret (05 R122, R127): their encodings, with every other bit 0; nop changes nothing; ret notes a transfer to
the word held in its register, which is taken with the bundle's last repetition, and changes nothing else. -/
def Obligations.NopAndReturn : Prop :=
  (∀ w : BitVec 32, w.extractLsb' 26 6 = 0 → (w = 0 → decodeS w = .ok .nop) ∧ (w ≠ 0 → ∃ e, decodeS w = .error e)) ∧
  (∀ w : BitVec 32, w.extractLsb' 26 6 = 0x13 →
    (w.extractLsb' 0 21 = 0 → decodeS w = .ok (.ret (w.extractLsb' 21 5))) ∧
    (w.extractLsb' 0 21 ≠ 0 → ∃ e, decodeS w = .error e)) ∧
  ∀ (s : State) (r : BitVec 5),
    Completes .nop s (fun t => t = s) ∧
    (Completes (.ret r) s fun t => t.me.taken = some { target := s.me.gs r, kind := 0 } ∧ OnlyMe s t ∧
      { t.me with taken := s.me.taken } = s.me) ∧
    (HaltsQuietly s → s.me.again = false → s.me.inIssue.rpt ≤ s.me.inIssue.rep → s.me.taken = some { target := s.me.gs r, kind := 0 } →
      Completes .bundleRepetition s fun t => t.me.pc = s.me.gs r)

/-- A transfer is noted and acts with the bundle's last repetition; br, brp, brp.n, call and bswap need a target in its
window; call also gives the link register the word after the bundle. That bswap leaves ISPSEL and the loop levels as they
are until that repetition's end is the model's reading (DEDUCED, log entry 45). -/
def Obligations.TransfersAreTaken : Prop :=
  ∀ (s : State) (p : BitVec 3) (r : BitVec 5) (w : Bool) (t : BitVec 12),
    let goes := fun (i : Instr) (dest : Word) (kind : Nat) =>
      Completes i s fun u => u.me.taken = some { target := dest, kind := kind } ∧ OnlyMe s u ∧
        { u.me with taken := s.me.taken } = s.me
    let stays := fun (i : Instr) => Completes i s fun u => u = s
    let tw : Word := if w then t.setWidth 64 else 0x1000 + t.setWidth 64
    (InCk s → goes .halt 0 4) ∧
    ((w = true → t.toNat ≤ 0x1FF) →
      goes (.br w t) tw 1 ∧ goes (.bswap w t) tw 3 ∧
      (s.me.gp p = true → goes (.brp p w t) tw 1 ∧ stays (.brpN p w t)) ∧
      (s.me.gp p = false → stays (.brp p w t) ∧ goes (.brpN p w t) tw 1) ∧
      Completes (.call r w t) s fun u => u.me.taken = some { target := tw, kind := 0 } ∧ OnlyMe s u ∧
        Gains s u (inFlight s (.s r.toNat) (.word (s.me.inIssue.word + BitVec.ofNat 64 s.me.inIssue.len)) 0 1) ∧
        { u.me with taken := s.me.taken, pend := s.me.pend } = s.me)

/-- loop (05 R128): with a count of 0 it ends as a bundle whose successor is the target; otherwise a level is to be
pushed whose start is the word after the bundle. -/
def Obligations.LoopPushesALevel : Prop :=
  ∀ (s : State) (r : BitVec 5) (w : Bool) (t : BitVec 12),
    let c := s.me
    let tw : Word := if w then t.setWidth 64 else 0x1000 + t.setWidth 64
    let next := c.inIssue.word + BitVec.ofNat 64 c.inIssue.len
    (w = true → t.toNat ≤ 0x1FF) → next.toNat < tw.toNat →
    (∀ l, c.loops.getLast? = some l → tw.toNat ≤ l.stop.toNat) → (c.gs r = 0 ∨ c.loops.length < 4) →
    Completes (.loop r w t) s fun u => OnlyMe s u ∧
      (c.gs r = 0 → u.me.taken = some { target := tw, kind := 2 } ∧ { u.me with taken := c.taken } = c) ∧
      (c.gs r ≠ 0 → u.me.loopPush = some { start := next, stop := tw, count := c.gs r } ∧
        { u.me with loopPush := c.loopPush } = c)

/-- The end of a repetition (04 R89; 05 R125, R128 to R131), with nothing to release where bundles halt: the vc count
advances by one; before the last repetition the bundle stays in issue. The last one without a transfer ends the loops
(LoopEnd): a level to be pushed is entered; of the innermost levels whose body holds the bundle and whose end is its
successor those at count 1 are popped, several that share the end together; one at another count counts down and control
goes to its start, else to the successor. A loop with count 0 does the same with its target for the successor and pops
nothing else. Another transfer goes to its target; bswap inverts ISPSEL and pops every level, with this repetition's end
as the model reads it (DEDUCED, log entry 45); halt halts. -/
def Obligations.RepetitionEnds : Prop :=
  ∀ s : State, s.me.again = false → HaltsQuietly s →
    let y := s.me.inIssue.word
    let lands := fun (nxt : Word) (l : List Loop) (u : State) =>
      let ends := fun (x : Loop) => x.start.toNat ≤ y.toNat ∧ y.toNat < x.stop.toNat ∧ nxt = x.stop
      ∀ a b : List Loop, l = a ++ b → l.length ≤ 4 → (∀ x ∈ b, ends x ∧ x.count = 1) →
        ((∀ x, a.getLast? = some x → ¬ ends x) → u.me.loops = a ∧ u.me.pc = nxt) ∧
        ∀ (x : Loop) (r : List Loop), a = r ++ [x] → ends x → x.count ≠ 1 →
          u.me.loops = r ++ [{ x with count := x.count - 1 }] ∧ u.me.pc = x.start
    Completes .bundleRepetition s fun u =>
      u.me.vc = s.me.vc + 1 ∧ (∀ q, q ≠ s.cur.core → u.core q = s.core q) ∧ (∀ a, u.byte a = s.byte a) ∧
      (s.me.inIssue.rep < s.me.inIssue.rpt → u.me.pc = s.me.pc ∧ u.me.inIssue.rep = s.me.inIssue.rep + 1) ∧
      (s.me.inIssue.rpt ≤ s.me.inIssue.rep →
        u.me.taken = none ∧ u.me.loopPush = none ∧
        (s.me.taken = none → lands (y + BitVec.ofNat 64 s.me.inIssue.len)
          (s.me.loops ++ match s.me.loopPush with | some x => [x] | none => []) u) ∧
        (∀ t, s.me.taken = some t → t.kind = 2 → lands t.target s.me.loops u) ∧
        (∀ t, s.me.taken = some t → t.kind ≤ 1 → u.me.pc = t.target) ∧
        (∀ t, s.me.taken = some t → t.kind = 3 →
          u.me.pc = t.target ∧ u.me.loops = [] ∧ u.me.ispsel = !s.me.ispsel) ∧
        (∀ t, s.me.taken = some t → t.kind = 4 → u.me.halted = true))

/-- A taken br, brp or brp.n leaves exactly the innermost levels whose body holds the branch and not its target; call
and ret neither push nor pop levels (05 R129). -/
def Obligations.BranchLeavesLoops : Prop :=
  (∀ (s : State) (p : BitVec 3) (r : BitVec 5) (w : Bool) (t : BitVec 12), (w = true → t.toNat ≤ 0x1FF) →
    let takes := fun (i : Instr) (k : Nat) => Completes i s fun u => u.me.loops = s.me.loops ∧ u.me.loopPush = s.me.loopPush ∧
      ∃ x, u.me.taken = some x ∧ x.kind = k
    takes (.br w t) 1 ∧ (s.me.gp p = true → takes (.brp p w t) 1) ∧ (s.me.gp p = false → takes (.brpN p w t) 1) ∧
    takes (.call r w t) 0 ∧ takes (.ret r) 0) ∧
  (∀ (s : State) (x : Taken), HaltsQuietly s → s.me.again = false → s.me.inIssue.rpt ≤ s.me.inIssue.rep → s.me.taken = some x →
    let y := s.me.inIssue.word
    (x.kind = 1 → Completes .bundleRepetition s fun u => u.me.loops = popBranch y x.target 5 s.me.loops) ∧
    (x.kind = 0 → Completes .bundleRepetition s fun u => u.me.loops = s.me.loops)) ∧
  ∀ (y t : Word) (l : List Loop), l.length ≤ 4 →
    let leaves := fun (x : Loop) => (x.start.toNat ≤ y.toNat ∧ y.toNat < x.stop.toNat) ∧
      ¬ (x.start.toNat ≤ t.toNat ∧ t.toNat < x.stop.toNat)
    ∃ n, popBranch y t 5 l = l.take n ∧ (∀ x ∈ l.drop n, leaves x) ∧ ∀ x, (l.take n).getLast? = some x → ¬ leaves x

/-! ### Modes, system registers, waiting (05 R140 to R151) -/

/-- trap (05 R141): ECODE is CODE, EPC the word after the bundle, ESTAT.PSV the old STAT.SV, STAT.SV 1, and control goes
to SVEC, whose bundle must be a checkpoint bundle; nothing else changes. -/
def Obligations.TrapEntersSupervisor : Prop :=
  ∀ (s : State) (code : BitVec 16), InCk s →
    Completes (.trap code) s fun t =>
      t.me.ecode = code ∧ t.me.epc = s.me.inIssue.word + BitVec.ofNat 64 s.me.inIssue.len ∧ t.me.psv = s.me.sv ∧
      t.me.sv = true ∧ t.me.taken = some { target := s.me.svec.setWidth 64, kind := 0 } ∧ t.me.needCk = true ∧
      OnlyMe s t ∧
      { t.me with ecode := s.me.ecode, epc := s.me.epc, psv := s.me.psv, sv := s.me.sv, taken := s.me.taken,
                  needCk := s.me.needCk } = s.me

/-- tret (05 R142) in supervisor mode: STAT.SV is ESTAT.PSV and control goes to EPC; nothing else changes. So a trap and
then its handler's tret give back the mode and go to the word after the trap's bundle. A hub program slot stays in
supervisor mode whatever PSV is (05 R140). -/
def Obligations.TretReturns : Prop :=
  (∀ s : State, InCk s → s.cur.sv = true →
    Completes .tret s fun t =>
      t.me.sv = (isSlot s.cur.core || s.me.psv) ∧ t.me.taken = some { target := s.me.epc, kind := 0 } ∧
      t.me.needCk = true ∧ OnlyMe s t ∧
      { t.me with sv := s.me.sv, taken := s.me.taken, needCk := s.me.needCk } = s.me) ∧
  ∀ (s t u : State) (code : BitVec 16), InCk s → exec (.trap code) s = .next t → u.me = t.me → u.cur.sv = true →
    Completes .tret u fun v => v.me.sv = (isSlot u.cur.core || s.me.sv) ∧
      v.me.taken = some { target := s.me.inIssue.word + BitVec.ofNat 64 s.me.inIssue.len, kind := 0 }

/-- In program mode tret, and a snap without STAT.SNAPEN, are not executed: they take a fault of cause 0x27
(17 R415). Outside a checkpoint bundle trap, tret and halt take a fault of cause 0x29. -/
def Obligations.PrivilegedFormsFault : Prop :=
  ∀ (s : State) (code : BitVec 16) (tag : BitVec 8), s.trial = none →
    (InCk s → s.cur.sv = false → exec .tret s = .next (s.deliverUse (s.use { cause := 0x27 }))) ∧
    (s.cur.sv = false → s.me.snapen = false → exec (.snap tag) s = .next (s.deliverUse (s.use { cause := 0x27 }))) ∧
    (¬ InCk s → exec (.trap code) s = .next (s.deliverUse (s.use { cause := 0x29 })) ∧
      exec .tret s = .next (s.deliverUse (s.use { cause := 0x29 })) ∧
      exec .halt s = .next (s.deliverUse (s.use { cause := 0x29 })))

/-- sysrd (05 R144, R145) of a register that the mode may read gives its value, sampled at issue, and nothing else changes,
but that the audit log of a sampled unit takes in the value of a register of time and events (16 R407). -/
def Obligations.SystemRegisterRead : Prop :=
  ∀ (s : State) (d : BitVec 5) (n : BitVec 16) (k : Nat),
    sysKind n.toNat s.cur.sv = some k → 1 ≤ k →
    (sysLogged n.toNat = false ∨ Unlogged s →
      Gives (.sysrd d n) s (.s d.toNat) (.word (s.sysReg (s.primary s.cur.core) n.toNat)) 1) ∧
    (Clean s → Completes (.sysrd d n) s fun t =>
      Gains s t (inFlight s (.s d.toNat) (.word (s.sysReg (s.primary s.cur.core) n.toNat)) 0 1) ∧
      (∀ q, q ≠ s.cur.core → t.core q = s.core q) ∧ { t.me with pend := s.me.pend } = s.me ∧
      ∀ a, OffLog s a → t.byte a = s.byte a)

/-- syswr (05 R145 to R148) in supervisor mode: STAT keeps SV and sets SNAPEN; EPC, ESTAT.PSV, ECODE and SVEC take the
value; EVT's bits are cleared where the value has a 1; EVMASK and EVGTC take it. Nothing else changes. -/
def Obligations.SystemRegisterWrite : Prop :=
  ∀ (s : State) (a : BitVec 5), s.cur.sv = true →
    let v := s.me.gs a
    let sets := fun (n : BitVec 16) (P : Core → Prop) (back : Core → Core) =>
      Completes (.syswr n a) s fun t => P t.me ∧ OnlyMe s t ∧ back t.me = s.me
    sets 0x10 (fun c => c.snapen = v.getLsbD 1 ∧ c.sv = s.me.sv) (fun c => { c with snapen := s.me.snapen }) ∧
    sets 0x11 (fun c => c.epc = v) (fun c => { c with epc := s.me.epc }) ∧
    sets 0x12 (fun c => c.psv = v.getLsbD 0) (fun c => { c with psv := s.me.psv }) ∧
    sets 0x13 (fun c => c.ecode = v.setWidth 16) (fun c => { c with ecode := s.me.ecode }) ∧
    sets 0x14 (fun c => c.svec = v.setWidth 9) (fun c => { c with svec := s.me.svec }) ∧
    sets 0x18 (fun c => ∀ k, k < 5 → c.evt.getLsbD k = (s.me.evt.getLsbD k && !(decide (1 ≤ k) && v.getLsbD k)))
      (fun c => { c with evt := s.me.evt }) ∧
    sets 0x19 (fun c => c.evmask = v) (fun c => { c with evmask := s.me.evmask }) ∧
    sets 0x1A (fun c => c.evgtc = v ∧ c.armed = (v != BitVec.allOnes 64))
      (fun c => { c with evgtc := s.me.evgtc, armed := s.me.armed }) ∧
    Completes (.evgtcWrite a) s fun t => t.me.evgtc = v ∧ OnlyMe s t

/-- A write of EVSET (05 R148) sends EVT.PEER to each member whose bit of the value is 1, due at the next PVC when the
members share a vc count; no register or byte changes. -/
def Obligations.PeerEventsAreSent : Prop :=
  ∀ (s : State) (a : BitVec 5),
    let sent := fun (t : State) =>
      (∃ l : List InSig, t.sigs = s.sigs ++ l ∧
        (∀ m, (∃ g ∈ l, g.target = m) ↔ m ∈ s.membersOf s.cur.core ∧ (s.me.gs a).getLsbD (s.midx m) = true) ∧
        ∀ g ∈ l, g.k = 8 ∧ g.sender = s.cur.core ∧
          g.due = if s.modeOf s.cur.core = 0 then none else some (s.me.vc + 1)) ∧
      { t with sigs := s.sigs } = s
    Completes (.evset a) s sent ∧ Completes (.syswr 0x1B a) s sent

/-- wfe (05 R151) issues again while a member that has not halted has no enabled event pending, and completes without
effect otherwise. ifence (05 R149): of the words of the core's own paths (ISP, microcode, HCW table) that copies wrote,
exactly those whose path has been drained are usable from then on, and nothing else changes. snap (05 R150; 13 R358),
where the mode or SNAPEN allows it: with the source disabled nothing changes; else EVT.SNAP is set in every core; with
ARMED the trigger is recorded with its source, stamp, tag and PCORE, and clears ARMED; without, it counts as missed, and
takes the place of a source of a higher number accepted at the same tick. Nothing else changes. -/
def Obligations.WaitsFencesAndSnaps : Prop :=
  (∀ s : State, InCk s → (∀ x ∈ s.me.inIssue.slots, x.1 = 2) →
    let go := ∀ m ∈ s.lock s.cur.core, (s.core m).halted = true ∨ (s.core m).eventPending = true
    (go → Completes .wfe s fun t => t = s) ∧
    (¬ go → Completes .wfe s fun t => t.me.again = true ∧ OnlyMe s t ∧ { t.me with again := s.me.again } = s.me)) ∧
  (∀ s : State, let p := s.cur.core
    Completes .ifence s fun t => { t with stale := s.stale } = s ∧
      ∀ x, x ∈ t.stale ↔ x ∈ s.stale ∧ ¬ (x.drained = true ∧
        ((ispAddr p 0 ≤ x.key ∧ x.key < ispAddr (p + 1) 0) ∨ (microAddr p 0 ≤ x.key ∧ x.key < microAddr (p + 1) 0) ∨
          (hcwAddr p 0 ≤ x.key ∧ x.key < hcwAddr (p + 1) 0)))) ∧
  ∀ (s : State) (tag : BitVec 8), (s.cur.sv = true ∨ s.me.snapen = true) →
    let named : Snap := { s.snap with src := 0, stamp := s.gtc, tag := tag, pcore := BitVec.ofNat 9 s.cur.core }
    let rings := fun (n : Snap) => Completes (.snap tag) s fun t => t.snap = n ∧
      (∀ q, t.core q = if q < 288 then { s.core q with evt := (s.core q).evt ||| 8 } else s.core q) ∧
      (∀ a, t.byte a = s.byte a) ∧ { t with cores := s.cores, snap := s.snap } = s
    (s.snap.en.getLsbD 0 = false → Completes (.snap tag) s fun t => t = s) ∧
    (s.snap.en.getLsbD 0 = true → s.snap.armed = true →
      rings { named with armed := false, trig := true, fresh := false }) ∧
    (s.snap.en.getLsbD 0 = true → s.snap.armed = false → rings {
      (if (s.snap.trig = true ∨ s.snap.fresh = true) ∧ s.snap.stamp = s.gtc ∧ 0 < s.snap.src.toNat then named
       else s.snap) with
        missed := if s.snap.missed = 0xFFFF then 0xFFFF else s.snap.missed + 1 })

/-! ### Loads and stores (05 R132 to R136) -/

/-- sld (05 R132, R133): the own vault is to be read at vc n + 5 at a[n] + SignExtend(imm), and the value lands there
sign-extended; no register and no byte changes at issue. -/
def Obligations.VaultLoads : Prop :=
  ∀ (s : State) (r : BitVec 5) (a : BitVec 4) (imm : BitVec 16),
    let ea := s.me.ga a + imm.signExtend 64
    let loads := fun (i : Instr) (n : Nat) => LocalOk s ea n false →
      Completes i s fun t => OnlyPend s t ∧
        Gains s t (inFlight s (.s r.toNat) (.load .l [{ key := 0, addr := ea.toNat, width := n }] true false) 5 5)
    loads (.sldB r a imm) 1 ∧ loads (.sldH r a imm) 2 ∧ loads (.sldW r a imm) 4 ∧ loads (.sldD r a imm) 8

/-- sst (05 R132, R133; 02 R41): one gated store of the low bytes of s[r], little-endian, at a[n] + SignExtend(imm); every
stored byte and every register is unchanged until a release. -/
def Obligations.VaultStores : Prop :=
  ∀ (s : State) (r : BitVec 5) (a : BitVec 4) (imm : BitVec 16),
    let ea := s.me.ga a + imm.signExtend 64
    let stores := fun (i : Instr) (n : Nat) => LocalOk s ea n true → GateRoom s 1 →
      Completes i s fun t => OnlyGate s t ∧ ∃ e : Gated, t.me.gate = s.me.gate ++ [e] ∧ e.form = .l ∧ e.atom = none ∧
        e.cells = (List.range n).map (fun k => (ea.toNat + k, (s.me.gs r).extractLsb' (8 * k) 8)) ∧
        e.issue = s.me.vc ∧ e.entry = true ∧ e.rel = false ∧ e.sv = s.cur.sv
    stores (.sstB r a imm) 1 ∧ stores (.sstH r a imm) 2 ∧ stores (.sstW r a imm) 4 ∧ stores (.sstD r a imm) 8

/-- A misaligned own-vault access has no effect of its own: it takes a fault of cause 0x25 with its address. That 0x25 goes
before 0x26 where a misaligned store also meets the region table is the model's choice (DESIGN CHOICE, log entry 38). -/
def Obligations.MisalignedAccessFaults : Prop :=
  ∀ (s : State) (r : BitVec 5) (a : BitVec 4) (imm : BitVec 16), s.trial = none →
    let ea := s.me.ga a + imm.signExtend 64
    let faults := fun (i : Instr) (n : Nat) => ea.toNat + n ≤ localSize s.cur.core → ea.toNat % n ≠ 0 →
      exec i s = .next (s.deliverUse (s.use { cause := 0x25, pa := ea.toNat }))
    faults (.sldH r a imm) 2 ∧ faults (.sldW r a imm) 4 ∧ faults (.sldD r a imm) 8 ∧
    faults (.sstH r a imm) 2 ∧ faults (.sstW r a imm) 4 ∧ faults (.sstD r a imm) 8

/-- gld and gst (05 R134 to R136): the effective address is a[n] + 8 × SignExtend(off); the load is due at vc n + 8; the
store is gated, with ORD a release store; to an MMIO page, from a checkpoint bundle, it is an irrevocable write that
performs once its bundle completes and whose acknowledgement is due at vc n + 8. -/
def Obligations.GlobalAccess : Prop :=
  ∀ (s : State) (r : BitVec 5) (a : BitVec 4) (off : BitVec 11) (wid : BitVec 2) (o inv : Bool),
    let ea := s.me.ga a + (off.signExtend 64 <<< 3)
    let n := 2 ^ wid.toNat
    ea.toNat < 2 ^ 56 → ea.toNat % n = 0 →
    (Completes (.gld r a off wid o inv) s fun t => OnlyPend s t ∧
      Gains s t { inFlight s (.s r.toNat) (.load .g [{ key := 0, addr := ea.toNat, width := n }] true inv) 8 8 with
        late := true, row := 1, acq := o }) ∧
    (s.gstMmio ea.toNat = false → GateRoom s 1 →
      Completes (.gst r a off wid o) s fun t => OnlyGate s t ∧ ∃ e : Gated, t.me.gate = s.me.gate ++ [e] ∧ e.form = .g ∧
        e.atom = none ∧ e.entry = true ∧ e.issue = s.me.vc ∧ e.sv = s.cur.sv ∧
        e.cells = (List.range n).map (fun k => (ea.toNat + k, (s.me.gs r).extractLsb' (8 * k) 8)) ∧ e.rel = o) ∧
    (s.gstMmio ea.toNat = true → FirstTime s →
      Completes (.gst r a off wid o) s fun t =>
        Gains s t { inFlight s .none (.mmio ea.toNat (toBytes n (s.me.gs r).toNat)) 1 8 with
          late := true, row := 1, irrev := some s.irrevKey, rel := o } ∧
        Marks s t ∧ OnlyMe s t ∧ { t.me with pend := s.me.pend, irrevNew := s.me.irrevNew } = s.me)

/-- A checkpoint bundle releases the gated stores of a core (02 R40, R42) in their issue order: after own-vault stores,
undamaged memory assumed, each byte of the vault is what the last of them that names it holds, else as before; every byte
elsewhere is unchanged, and the gate buffer is empty. Mapped lines are not shut out, unfilled ones are: their fills stand
before the release, in the checks of the bundle (09 R259 (b)), and a release meets every line that it names filled. -/
def Obligations.CheckpointReleasesStores : Prop :=
  ∀ s : State,
    let p := s.cur.core
    Undamaged s → p < 288 → (∀ d ∈ s.me.released, d.form ≠ .l) →
    (∀ off, off < 0x800000 → s.vaultGone (vaultAddr p off) = false) →
    (∀ e ∈ s.me.gate, e.form = .l ∧ e.atom = none ∧ e.entry = true ∧ e.rel = false ∧ e.bad = [] ∧
      ∀ x ∈ e.cells, x.1 < regionTable ∧ s.unfilled p (x.1 / 64) = false ∧ ∀ y ∈ e.cells, x.1 / 64 = y.1 / 64) →
    Completes .checkpointBundle s fun t => (t.core p).gate = [] ∧
      (∀ off, off < 0x800000 → t.byte (vaultAddr p off) =
        (s.me.gate.flatMap (·.cells)).foldl (fun b x => if x.1 = off then x.2 else b) (s.byte (vaultAddr p off))) ∧
      ∀ b, (b < vaultAddr p 0 ∨ vaultAddr p 0x800000 ≤ b) → t.byte b = s.byte b

/-- What a checkpoint bundle does besides (02 R40, R43, R44; 04 R87): the shadow holds the core's registers, one by one,
with its stream ports at their committed positions and no popped message; with nothing to release they are those that the
bundle found, and of the core's own state only what belongs to its last checkpoint changes. The re-issue records are
empty, and the word and the vc are noted; fences before it order nothing more once no access stands. -/
def Obligations.CheckpointCaptures : Prop :=
  ∀ s : State, Completes .checkpointBundle s fun t =>
    let c := t.core s.cur.core
    (∃ h, c.shadow = some h ∧ h.s = c.s ∧ h.a = c.a ∧ h.p = c.p ∧ h.v = c.v ∧ h.k = c.k ∧ h.mp = c.mp ∧ h.fmt = c.fmt ∧
      h.mpc = c.mpc ∧ h.pc = c.pc ∧ h.ispsel = c.ispsel ∧ h.loops = c.loops ∧ h.rnd = c.rnd ∧ h.msgs = [] ∧
      h.ports = c.ports.map fun e => (e.1, { e.2 with ahead := [], part := [] })) ∧
    (s.me.gate = [] → { c with
      shadow := s.me.shadow, recs := s.me.recs, ckWord := s.me.ckWord, ckVc := s.me.ckVc, ckQp := s.me.ckQp,
      ckDone := s.me.ckDone, ckRegions := s.me.ckRegions, irrevNew := s.me.irrevNew, needCk := s.me.needCk,
      marks := s.me.marks, tchecks := s.me.tchecks, fences := s.me.fences } = s.me) ∧
    c.recs = [] ∧ c.ckWord = c.pc ∧ c.ckVc = c.vc ∧ c.needCk = false ∧
    (c.released = [] → (∀ x ∈ c.pend, x.undone = false) → c.fences = []) ∧
    (s.cur.core < 288 → ∃ q, (t.tile s.cur.core).queue = q ++ [{ num := 0, kind := .capture }])

/-! ### Vector operations (06 R153 to R180) -/

/-- Integer operations, selection and copies (06 R160, R161, R179), latency 2: sums, differences, products, absolute
values and negations are fitted to the element; a shift by the width or more gives 0, or copies of the sign. -/
def Obligations.VectorIntegerResults : Prop :=
  ∀ (s : State) (d a b : BitVec 5) (kc et : BitVec 3) (qd qa : Bool) (imm : BitVec 15),
    let m : Int := (2 ^ widthOf et : Nat)
    let y := fun j => elemInt et (src2 s b j)
    let yb := fun j => elemBits et (src2 s b j)
    let gives := fun (i : Instr) (q : Bool) (v : Nat → Lane → Lane) =>
      LaneWise i s d a qd q (etBytes et) (etBytes et) 2 fun j x g => (v j x, g)
    let ints := fun (i : Instr) (v : Int → Int → Lane) => gives i qa fun j x => v (elemInt et x) (y j)
    let bits := fun (i : Instr) (v : Nat → Nat → Nat) => gives i qa fun j x => laneOf et (v (elemBits et x) (yb j))
    ints (.vadd d a b et qd qa) (fun x y => fitInt et s.cur.sat (x + y)) ∧
    ints (.vsub d a b et qd qa) (fun x y => fitInt et s.cur.sat (x - y)) ∧
    ints (.vmul d a b et qd qa) (fun x y => fitInt et s.cur.sat (x * y)) ∧
    ints (.vmulh d a b et qd qa) (fun x y => laneOf et (x * y / m % m).toNat) ∧
    ints (.vmin d a b et qd qa) (fun x y => laneOf et ((if x ≤ y then x else y) % m).toNat) ∧
    ints (.vmax d a b et qd qa) (fun x y => laneOf et ((if x ≤ y then y else x) % m).toNat) ∧
    bits (.vand d a b et qd qa) (fun x y => x &&& y) ∧ bits (.vor d a b et qd qa) (fun x y => x ||| y) ∧
    bits (.vxor d a b et qd qa) (fun x y => x ^^^ y) ∧
    gives (.vnot d a et qd qa) qa (fun _ x => laneOf et (2 ^ widthOf et - 1 - elemBits et x)) ∧
    bits (.vshl d a b et qd qa) (fun x c => if widthOf et ≤ c then 0 else x * 2 ^ c % 2 ^ widthOf et) ∧
    bits (.vshr d a b et qd qa) (fun x c => if widthOf et ≤ c then 0 else x / 2 ^ c) ∧
    bits (.vsra d a b et qd qa) (fun x c =>
      let v : Int := if 2 ^ (widthOf et - 1) ≤ x then (x : Int) - m else x
      ((if widthOf et ≤ c then (if v < 0 then -1 else 0) else v / (2 ^ c : Nat)) % m).toNat) ∧
    gives (.vabs d a et qd qa) qa (fun _ x => fitInt et s.cur.sat (if elemInt et x < 0 then -(elemInt et x) else elemInt et x)) ∧
    gives (.vneg d a et qd qa) qa (fun _ x => fitInt et s.cur.sat (0 - elemInt et x)) ∧
    gives (.vsel d a b kc et qd qa) qa (fun j x => laneOf et (if (s.kreg kc).getLsbD j then elemBits et x else yb j)) ∧
    gives (.vmov d a et qd qa) qa (fun _ x => laneOf et (elemBits et x)) ∧
    gives (.vmovi d imm et qd) false (fun _ _ => movImm et imm) ∧
    gives (.vmovs d a et qd) false (fun _ _ => laneOf et ((s.me.gs a).toNat % 2 ^ widthOf et))

/-- Compares (06 R161, R163): each sets the bits of active lanes of a mask; with a NaN only ne holds. -/
def Obligations.VectorCompares : Prop :=
  ∀ (s : State) (kd : BitVec 3) (a b : BitVec 5) (et : BitVec 3) (qa : Bool),
    let ints := fun (i : Instr) (r : Int → Int → Bool) =>
      MaskWise i s kd a qa (etBytes et) fun j x => r (elemInt et x) (elemInt et (src2 s b j))
    let nums := fun (i : Instr) (unordered : Bool) (r : Int → Bool) =>
      MaskWise i s kd a qa (etBytes et) fun j x =>
        let v := elemNum et s.cur.ftz x
        let w := elemNum et s.cur.ftz (src2 s b j)
        if v = .nan ∨ w = .nan then unordered else r (v.cmp w)
    ints (.vcmpEq kd a b et qa) (fun x y => decide (x = y)) ∧ ints (.vcmpNe kd a b et qa) (fun x y => !decide (x = y)) ∧
    ints (.vcmpLt kd a b et qa) (fun x y => decide (x < y)) ∧ ints (.vcmpLe kd a b et qa) (fun x y => decide (x ≤ y)) ∧
    ints (.vcmpGt kd a b et qa) (fun x y => decide (y < x)) ∧ ints (.vcmpGe kd a b et qa) (fun x y => decide (y ≤ x)) ∧
    nums (.vfcmpEq kd a b et qa) false (fun c => decide (c = 0)) ∧ nums (.vfcmpNe kd a b et qa) true (fun c => !decide (c = 0)) ∧
    nums (.vfcmpLt kd a b et qa) false (fun c => decide (c < 0)) ∧ nums (.vfcmpLe kd a b et qa) false (fun c => decide (c ≤ 0)) ∧
    nums (.vfcmpGt kd a b et qa) false (fun c => decide (0 < c)) ∧ nums (.vfcmpGe kd a b et qa) false (fun c => decide (0 ≤ c))

/-- Floating-point operations, special functions, scaling and conversions (06 R162 to R169): the exact value is
written once in the element's format, stochastic rounding drawing in ascending lanes. -/
def Obligations.VectorFloatResults : Prop :=
  ∀ (s : State) (d a b c code : BitVec 5) (et : BitVec 3) (qd qa : Bool),
    let md := s.cur.mode
    let r := s.cur.rnd
    let num := elemNum et s.cur.ftz
    let y := fun j => num (src2 s b j)
    let z := fun j => num (src2 s c j)
    let wide := fun (i : Instr) (db sb lat : Nat) (f : Nat → Lane → Word → Lane × Word) => LaneWise i s d a qd qa db sb lat f
    let gives := fun (i : Instr) (lat : Nat) (f : Nat → Exact → Exact) =>
      wide i (etBytes et) (etBytes et) lat fun j x g =>
        let w := (fpOf et).write md (f j (num x)) g
        (laneOf et w.1, w.2)
    let special := fun (i : Instr) (f : Fp → Mode → Exact → Word → Nat × Word) =>
      wide i (etBytes et) (etBytes et) 8 fun _ x g => (laneOf et (f (fpOf et) md (num x) g).1, (f (fpOf et) md (num x) g).2)
    gives (.vfadd d a b et qd qa) 4 (fun j x => x.add r (y j)) ∧ gives (.vfsub d a b et qd qa) 4 (fun j x => x.add r (y j).neg) ∧
    gives (.vfmul d a b et qd qa) 4 (fun j x => x.mul (y j)) ∧
    gives (.vfma d a b c et qd qa) 4 (fun j x => (x.mul (y j)).add r (z j)) ∧
    gives (.vfms d a b c et qd qa) 4 (fun j x => (x.mul (y j)).add r (z j).neg) ∧
    gives (.vfnma d a b c et qd qa) 4 (fun j x => (z j).add r (x.mul (y j)).neg) ∧
    gives (.vfmin d a b et qd qa) 2 (fun j x => if x = .nan then y j else if y j = .nan then x else
      if x.below (y j) then x else y j) ∧
    gives (.vfmax d a b et qd qa) 2 (fun j x => if x = .nan then y j else if y j = .nan then x else
      if (y j).below x then x else y j) ∧
    gives (.vfabs d a et qd qa) 2 (fun _ x => if x.sign then x.neg else x) ∧ gives (.vfneg d a et qd qa) 2 (fun _ x => x.neg) ∧
    gives (.vscale d a b et qd qa) 3 (fun j x => x.scale ((src2 s b j).toNat % 256)) ∧
    special (.vfrcp d a et qd qa) spRcp ∧ special (.vfrsq d a et qd qa) spRsq ∧ special (.vfexp2 d a et qd qa) spExp2 ∧
    special (.vflog2 d a et qd qa) spLog2 ∧ special (.vftanh d a et qd qa) spTanh ∧ special (.vfsigm d a et qd qa) spSigm ∧
    wide (.vcvt d a code et qd qa) (codeBytes code.toNat) (etBytes et) 3
      (fun _ x g => convertTo code.toNat md (readEt et s.cur.ftz x) g) ∧
    wide (.vcvtTwq d a b code qd qa) 2 1 3 (fun j x g => twqLane md code.toNat x.toNat (src2 s b j).toInt g) ∧
    wide (.vcvtm d a code et qd qa) (etBytes et) (codeBytes code.toNat) 3
      (fun _ x g => writeEt et md (readMatrix code.toNat s.cur.ftz x.toNat) g)

/-- Moves, blocks, reductions, scans, masks and random values (06 R94, R170 to R180) give their results at their
latency and change nothing else. Readings of the model's own: kset takes a subnormal for nonzero whatever FTZ is (log entry
110); a reduction's sole active lane and the first of a scan pass with a canonical NaN, unrounded and unflushed (log entry
35); vbfpo draws no random value for a lane past the format's range (log entry 112); vbfpi rounds a special lane by
Write's SAT rows (log entry 132). -/
def Obligations.VectorMovesAndReductions : Prop :=
  ∀ (s : State) (d a b op : BitVec 5) (kd ka kb gs et : BitVec 3) (n : BitVec 4) (c : BitVec 5),
    let lane := fun j => src2 s a j
    let f := fpOf et
    let isF := et.toNat ≤ 2
    let pick := fun {α : Type} (v : Nat → α) => (seqFrom 0 16).map fun j => if s.me.active s.cur.group s.cur.msel j then some (v j) else none
    let reduced := fun (i : Instr) (kind : Nat) =>
      (s.act = [] → Completes i s fun t => t = s) ∧
      (s.act ≠ [] → ∃ v : Lane, ∃ g : Word, DrawsLanes i s d 4 (s.act.map fun j => (j, v), g) ∧
        (isF → ∃ x, reduceTree (fpNode f s.cur.mode kind) (pick fun j => elemBits et (lane j)) s.rng = (.some x, g) ∧
          v = laneOf et (canonNan f x)) ∧
        (¬ isF → g = s.rng ∧ ∃ x, (reduceTree (intNode kind) (pick fun j => elemInt et (lane j)) s.rng).1 = .some x ∧
          v = fitInt et s.cur.sat x))
    Completes .vnop s (fun t => t = s) ∧
    MovesLanes (.vshuf d a b et) s d 4 (fun j => lane ((src2 s b j).toNat % 16)) ∧
    MovesLanes (.vrot d a n et) s d 4 (fun j => lane ((j + n.toNat) % 16)) ∧
    MovesLanes (.vbcast d a n et) s d 4 (fun _ => lane n.toNat) ∧
    MovesLanes (.vxg d a gs et) s d 3 (fun j => s.me.gv gs.toNat (s.vreg a) j) ∧
    MovesLanes (.vxgb d a gs n et) s d 3 (fun _ => s.me.gv gs.toNat (s.vreg a) n.toNat) ∧
    MovesLanes (.kpopc d ka) s d 2 (fun _ => BitVec.ofNat 32 ((seqFrom 0 16).countP (s.kreg ka).getLsbD)) ∧
    MovesLanes (.vrandGet d) s d 2 (fun j => if j = 0 then s.rng.setWidth 32 else if j = 1 then s.rng.extractLsb' 32 32 else 0) ∧
    Gives (.vcompress d a et) s .lanes
      (.lanes ((seqFrom 0 16).map fun j => (vkey s.cur.group ((d.toNat + s.cur.rbase.toNat) % 32) j, laneAt (s.act.map lane) j))) 4 ∧
    reduced (.vredadd d a et) 0 ∧ reduced (.vredmax d a et) 1 ∧ reduced (.vredmin d a et) 2 ∧
    (isF → DrawsLanes (.vscan d a op et) s d 4
      (let r := scanLanes (fpNode f s.cur.mode op.toNat) none (s.act.map fun j => (j, elemBits et (lane j))) s.rng
       (r.1.map fun x => (x.1, laneOf et (canonNan f x.2)), r.2))) ∧
    (¬ isF → DrawsLanes (.vscan d a op et) s d 4
      (let r := scanLanes (intNode op.toNat) none (s.act.map fun j => (j, elemInt et (lane j))) s.rng
       (r.1.map fun x => (x.1, fitInt et s.cur.sat x.2), r.2))) ∧
    DrawsLanes (.vbfpi d a et) s d 3 (drawLanes (fun j g =>
      let w := f.write s.cur.mode (blockLane (s.vsrc a) j) g
      (laneOf et w.1, w.2)) s.act s.rng) ∧
    (let vs := (s.vsrc a).map (elemNum et s.cur.ftz)
     let r := bfpForm true s.cur.rnd vs (blockTop vs) s.rng
     DrawsLanes (.vbfpo d a et) s d 3 (s.act.map fun j => (j, if j < 9 then laneWord r.1.bytes j else 0), r.2)) ∧
    DrawsLanes (.vrand d et) s d 2 (drawLanes (fun _ g => drawRand et g) s.act s.rng) ∧
    (Completes (.vrandSeed a) s fun t => t.me.rndOf s.cur.group = lane 1 ++ lane 0 ∧ OnlyMe s t ∧
      (∀ g, g ≠ s.cur.group → t.me.rndOf g = s.me.rndOf g) ∧ { t.me with rnd := s.me.rnd } = s.me) ∧
    GivesMask (.kand kd ka kb et) s kd (s.kreg ka &&& s.kreg kb) ∧ GivesMask (.kor kd ka kb et) s kd (s.kreg ka ||| s.kreg kb) ∧
    GivesMask (.kxor kd ka kb et) s kd (s.kreg ka ^^^ s.kreg kb) ∧ GivesMask (.knot kd ka et) s kd (~~~(s.kreg ka)) ∧
    GivesMask (.ksetN kd c et) s kd (BitVec.ofNat 16 (2 ^ c.toNat - 1)) ∧
    GivesMask (.kset kd a et) s kd (maskOf ((seqFrom 0 16).map fun j =>
      (j, if et.toNat ≤ 2 then !(elemNum et false (lane j)).isZero else elemBits et (lane j) != 0)))

/-! ### The M slot (08 R207 to R223; 07 R189 to R191) -/

/-- mcall, mspill, mfill, mtrue, mfence and mqry (08 R207 to R211, R216, R220 to R223): the operation is captured into
the operand queue with the number NI + 1, MPC advances, and nothing else changes; mqry takes no number and its
value lands at vc n + 40. R207 (e) has a call step group 0's random source under RND 5; that the other operations do so
too is the model's reading (DEDUCED, log entry 46). -/
def Obligations.TileOperationsAreQueued : Prop :=
  ∀ (s : State) (idx : BitVec 10) (mask : BitVec 4) (d : BitVec 5) (sel : BitVec 2) (clr : Bool),
    let base := (s.me.gmp 0).toNat
    MayRace s →
    ((s.me.gmp 5).setWidth 2 ≠ (3 : BitVec 2) → (s.tile s.cur.core).wdrn = false → Numbers (.mcall idx) s (.mcall idx.toNat)) ∧
    ((s.me.gmp 5).setWidth 2 = (3 : BitVec 2) → (s.tile s.cur.core).wdrn = false → FirstTime s →
      Completes (.mcall idx) s fun t => Queued s t (.mcall idx.toNat) ∧ Advances s t ∧ t.me.ni = s.me.ni + 1 ∧ Marks s t ∧
        OnlyMyTile s t ∧
        { t.me with mpc := s.me.mpc, rnd := s.me.rnd, ni := s.me.ni, irrevNew := s.me.irrevNew } = s.me) ∧
    (base % 4096 = 0 → Numbers (.mspill mask) s (.mspill mask.toNat) ∧ Numbers (.mfill mask) s (.mfill mask.toNat)) ∧
    ((s.tile s.cur.core).wdrn = false → Numbers .mtrue s .mtrue) ∧ Numbers .mfence s .mfence ∧
    Completes (.mqry d sel clr) s fun t =>
      t.tile s.cur.core = { s.tile s.cur.core with queue := (s.tile s.cur.core).queue ++ [{ num := 0, kind := .query s.tick sel.toNat clr }] } ∧
      Gains s t { inFlight s (.s d.toNat) (.query sel.toNat clr s.tick) 40 40 with late := true, row := 3 } ∧
      Advances s t ∧ OnlyMyTile s t ∧ { t.me with mpc := s.me.mpc, rnd := s.me.rnd, pend := s.me.pend } = s.me

/-- Key races in the M slot (07 R189 to R191; 08 R219), trim words as committed: the lines stand in order of their key
codes, lower lines first among equals; all 128 lanes of v[d] land at vc n + 40, held there until the M-die returns them
(01 R19), and MPC advances; a bundle's P slot has no effect. That a race goes on beside a truing or ballast run that holds
its array is the model's choice (DESIGN CHOICE, log entry 123). -/
def Obligations.KeyRaces : Prop :=
  (∀ (keys : List Nat) (ty : Nat) (desc : Bool),
    let code := fun i => keyCode (keys.getD i 0) ty desc
    (raceOrder keys ty desc).Perm (List.range keys.length) ∧
    (raceOrder keys ty desc).Pairwise fun i j => code i < code j ∨ (code i = code j ∧ i < j)) ∧
  ∀ (s : State) (d a : BitVec 5) (ty : BitVec 4) (nm1 km1 : BitVec 7),
    MayRace s → (s.tile s.cur.core).wdrn = false → (s.tile s.cur.core).off = [] → (s.tile s.cur.core).moved = [] →
    let n := nm1.toNat + 1
    let keys := (seqFrom 0 n).map fun i => (s.me.gv (i / 16) a.toNat (i % 16)).toNat % 2 ^ keyWidth ty.toNat
    let up := raceOrder keys ty.toNat false
    let down := raceOrder keys ty.toNat true
    let gives := fun (i : Instr) (v : Nat → Nat) =>
      Completes i s fun t =>
        Gains s t { inFlight s .lanes (.lanes ((seqFrom 0 128).map fun l =>
          (vkey (l / 16) d.toNat (l % 16), BitVec.ofNat 32 (v l)))) 40 40 with late := true, row := 3 } ∧
        t.me.mpc = s.me.mpc + 1 ∧ (∀ q, q ≠ s.cur.core → t.core q = s.core q) ∧ (∀ b, t.byte b = s.byte b) ∧
        (∀ q, t.tile q = s.tile q) ∧ { t with cores := s.cores, pow := s.pow, tiles := s.tiles } = s ∧
        { t.me with mpc := s.me.mpc, pend := s.me.pend } = s.me
    let first := fun (o : List Nat) (l : Nat) =>
      if l % 16 = 0 then o.headD 0 else if l % 16 = 1 then keys.getD (o.headD 0) 0 else 0
    gives (.mrmin d a ty nm1) (first up) ∧ gives (.mrmax d a ty nm1) (first down) ∧
    gives (.mrank d a ty nm1) (fun l => if l < n then indexIn up l else 0xFFFFFFFF) ∧
    (km1.toNat ≤ nm1.toNat →
      gives (.mtopk d a ty nm1 km1) (fun l => if l < km1.toNat + 1 then down.getD l 0 else 0xFFFFFFFF))

/-! ### The C slots (10 R268 to R294; 16 R401, R405) -/

/-- Vector loads, stores, gathers and scatters (10 R271 to R273): loads land at vc n + 6, from C-space at n + 14, gathers
at n + 38; stores wait in the gate buffer; the post-increment lands in a[n]. No register and no byte changes at issue. A
hub program slot has none of them: there each takes a fault of cause 0x29 (12 R319; 17 R415). -/
def Obligations.VectorMemoryAccess : Prop :=
  ∀ (s : State) (v vi : BitVec 5) (a : BitVec 4) (ms : BitVec 3) (wid gsc sc : BitVec 2) (inc : Bool) (off : BitVec 10),
    let w := s.me.ga a
    let b := widBytes wid
    let far := spaceOf w = 1
    let l := s.vecOffs a ms wid gsc inc off
    let blocks := distinct (l.flatMap fun x => [x.2.toNat / 64, (x.2.toNat + b - 1) / 64])
    let plus := if inc then [inFlight s (.a a.toNat) (.word (w + BitVec.ofInt 64 (8 * off.toInt))) 0 1] else []
    let at_ := fun (x : (Nat × Nat) × Int) => if far then vaultAddr (coreC s.cur.core w) x.2.toNat else x.2.toNat
    let loads := fun (i : Instr) (inv : Bool) =>
      Completes i s fun t => OnlyPend s t ∧ t.me.pend = s.me.pend ++
        [{ inFlight s .lanes (.load (if far then .c else .l)
            (l.map fun x => { key := vkey x.1.1 v.toNat x.1.2, addr := at_ x, width := b }) false inv)
            (if far then 14 else 6) (if far then 14 else 6) with late := decide far && s.modeOf s.cur.core == 0, row := 4 }] ++ plus
    let m := s.idxOffs vi a ms sc
    let lines := linesOfOffs (m.map fun x => x.2.toNat)
    let core := isSlot s.cur.core = false
    (¬ core → s.trial = none → ∀ j ∈ ([.vld v a ms wid gsc inc off, .vldInv v a ms wid gsc inc off,
        .vst v a ms wid gsc inc off, .vldx v vi a ms wid sc, .vstx v vi a ms wid sc] : List Instr),
      exec j s = .next (s.deliverUse (s.use { cause := 0x29 }))) ∧
    (core → SpaceOk s w [0, 1] → LanesOk s l b (s.spaceSize w) false →
      loads (.vld v a ms wid gsc inc off) false ∧ loads (.vldInv v a ms wid gsc inc off) true) ∧
    (core → SpaceOk s w [0, 1] → LanesOk s l b (s.spaceSize w) true → GateRoom s blocks.length →
      Completes (.vst v a ms wid gsc inc off) s fun t => Gates s t (if far then .c else .l) (s.vecCells v w l b) ∧
        t.me.pend = s.me.pend ++ plus ∧
        ∃ u, StartsFills s u ∧ OnlyMe u t ∧ { t.me with gate := u.me.gate, pend := u.me.pend } = u.me) ∧
    (core → SpaceOk s w [0] → LanesOk s m b (localSize s.cur.core) false → bankOver lines = false →
      Completes (.vldx v vi a ms wid sc) s fun t =>
        Gains s t (inFlight s .lanes (.load .l
          (m.map fun x => { key := vkey x.1.1 v.toNat x.1.2, addr := x.2.toNat, width := b }) false false) 31 38) ∧
        t.me.gatherAt = some s.me.vc ∧ OnlyMe s t ∧ { t.me with pend := s.me.pend, gatherAt := s.me.gatherAt } = s.me) ∧
    (core → SpaceOk s w [0] → LanesOk s m b (localSize s.cur.core) true → GateRoom s lines.length →
      Completes (.vstx v vi a ms wid sc) s fun t => Gates s t .l (s.vecCells v 0 m b) ∧ OnlyGate s t)

/-- Copies, drains, region write-backs, touch and collectives (10 R269, R270, R274, R289, R291, R294): the operation
reads its parameters at issue and takes the next number of its engine. -/
def Obligations.CopiesAreNumbered : Prop :=
  ∀ (s : State) (ad as : BitVec 4) (sl sn : BitVec 5) (eng : Bool) (i : BitVec 3),
    let c := s.me
    let e := if eng then 1 else 0
    let p1 := c.gs sl
    let p2 := (c.gs (sl + 1)).toNat % 2 ^ 23
    let o : Nat → EngOp := fun k => { num := 0, sub := k, dst := c.ga ad, src := c.ga as, p1 := p1, p2 := c.gs (sl + 1) }
    let moves := fun (j : Instr) (k : Nat) => Numbered j s e sn (o k)
    EngineRoom s e →
    (Accepted s (c.ga ad) [0, 1, 2, 3] true → Accepted s (c.ga as) [0, 1, 2] false →
      (p1.toNat < 2 ^ 32 → moves (.cpy ad as sl sn eng) 0) ∧ moves (.cpys ad as sl sn eng) 1 ∧
      (p2 % 4 = 0 → moves (.cpyg ad as sl sn eng) 2 ∧ moves (.cpysc ad as sl sn eng) 3) ∧
      (p1.toNat < 2 ^ 32 → p2 % 8 = 0 → moves (.cpySum ad as sl sn eng) 4)) ∧
    (Accepted s (c.ga ad) [0, 1, 2] true → p1.toNat < 2 ^ 32 →
      Numbered (.cpyFill ad sl sn eng) s e sn { o 5 with src := c.ga 0 }) ∧
    (Accepted s (c.ga as) [0, 1, 2, 3] false →
      Numbered (.drainPath as sn eng) s e sn
        { num := 0, sub := 6, dst := c.ga as, p1 := BitVec.ofNat 64 c.n0, p2 := BitVec.ofNat 64 c.n1 }) ∧
    Numbered (.drainPathStreams sn eng) s e sn
      { num := 0, sub := 7, p1 := BitVec.ofNat 64 c.n0, p2 := BitVec.ofNat 64 c.n1, prog := s.posNow } ∧
    (isSlot s.cur.core = false →
      Numbered (.unmapreg i sn eng) s e sn { num := 0, sub := 8, prog := i.toNat } ∧
      Numbered (.wbreg i sn eng) s e sn
        { num := 0, sub := 9, prog := i.toNat, lines := s.dirtyLines s.cur.core (s.rdesc s.cur.core i.toNat) } ∧
      (SpaceOk s (c.ga as) [0] → Numbered (.touch as sl sn eng) s e sn { num := 0, sub := 10, dst := c.ga as, p1 := p1 }) ∧
      ((spaceOf (c.ga as) = 0 ∨ spaceOf (c.ga as) = 2) → nbits (c.ga as).toNat 56 6 = 0 → (c.ga as).toNat % 64 = 0 →
        EngineRoom s 3 → Numbered (.coll sn as) s 3 sn { num := 0, sub := 12, dst := c.ga as }))

/-- Stream port controls, timelines and fences (10 R278, R280, R286 to R288). That bind reads and checks its descriptor at
issue, the core's own gated stores among what it reads, is the model's reading (log entries 59 and 121). -/
def Obligations.PortsTimelinesAndFences : Prop :=
  ∀ (s : State) (d : BitVec 5) (q k : BitVec 3) (a : BitVec 4),
    let c := s.me
    (isSlot s.cur.core = false →
      (LocalOperand s (c.ga a) 64 64 false → s.ownFault (c.ga a).toNat 64 = none →
        portOk (s.ownBytes (c.ga a).toNat 64) = true →
        Gives (.bind q a) s (.port q.toNat) (.port (portOf (s.ownBytes (c.ga a).toNat 64))) 6) ∧
      Gives (.unbind q) s (.port q.toNat) (.port {}) 1 ∧
      (let x := c.port q.toNat
       Gives (.qstat d q) s (.s d.toNat) (.word (BitVec.ofNat 64 ((if x.bound then 1 else 0) + (if x.write then 2 else 0) +
         4 * min x.ahead.length 512 + 2 ^ 32 * (x.pos % 2 ^ 32)))) 6) ∧
      (4 ≤ k.toNat → SpaceOk s (c.ga a) [1] → offOf (c.ga a) = 0 →
        Completes (.tlsig k d a) s fun t => { t with sigs := s.sigs } = s ∧
          t.sigs = s.sigs ++ [{
            sender := s.cur.core, target := coreC s.cur.core (c.ga a), k := k.toNat, val := c.gs d,
            due := if s.modeOf s.cur.core != 0 && (s.lock s.cur.core).contains (coreC s.cur.core (c.ga a))
              then some (c.vc + 14) else none, pos := s.posNow }])) ∧
    Gives (.tlread d k) s (.s d.toNat) (.word (c.gtl k.toNat)) 6 ∧
    (4 ≤ k.toNat → Gives (.tladv k d) s (.tl k.toNat) (.word (c.gs d)) 1) ∧
    (Completes (.tlwait k d) s fun t => { t with stale := s.stale } = s ∧ (∀ x ∈ t.stale, x ∈ s.stale) ∧
      (2 ≤ k.toNat → t = s)) ∧
    (let stands := fun (i : Instr) (kind : Nat) => Completes i s fun t =>
       t.me.fences = c.fences ++ [{ pos := s.posNow, kind := kind, scope := q.toNat }] ∧ OnlyMe s t ∧
       { t.me with fences := c.fences } = c
     stands (.fence q) 0 ∧ stands (.fenceAcq q) 1 ∧ stands (.fenceRel q) 2)

/-- Atomics and wide cells (10 R282 to R285): on the own vault with a result at vc n + 5, without one gated; on a vault of
the cluster at n + 14; on G-space at n + 8; those that are not gated are marked in the irrevocable record. No cell lies in
a region table (18 R435). wcread reads the own vault and lands at n + 6. -/
def Obligations.AtomicsIssue : Prop :=
  ∀ (s : State) (d ss sc : BitVec 5) (a : BitVec 4) (ce : BitVec 8) (wd u bf : Bool) (sem : BitVec 2),
    let c := s.me
    let w := c.ga a
    let x := c.gs ss
    let acts := fun (i : Instr) (d : BitVec 5) (sub width : Nat) (u : Bool) (x y : Word) (sem : BitVec 2) =>
      let op : AtomOp := { sub := sub, w := width, u := u, x := x, c := y }
      let ret := d != 0
      let dest : Dest := if ret then .s d.toNat else .none
      let flies := fun (src : Src) (lat : Nat) (late : Bool) (row : Nat) => FirstTime s →
        Completes i s fun t =>
          Gains s t { inFlight s dest src lat lat with
            irrev := some s.irrevKey, acq := sem.getLsbD 0, rel := sem.getLsbD 1, late := late, row := row,
            enc := s.cur.enc } ∧
          Marks s t ∧ OnlyMe s t ∧ { t.me with pend := c.pend, irrevNew := c.irrevNew } = c
      SpaceOk s w [0, 1, 2] → w.toNat % (width / 8) = 0 →
      (spaceOf w = 0 → LocalOperand s w (width / 8) (width / 8) true → isSlot s.cur.core = false →
        (ret = true → flies (.atomic .l (offOf w) op true) 5 false 0) ∧
        (ret = false → GateRoom s 1 →
          Completes i s fun t => OnlyGate s t ∧ ∃ e : Gated, t.me.gate = c.gate ++ [e] ∧ e.form = .l ∧ e.cells = [] ∧
            e.atom = some (offOf w, op) ∧ e.issue = c.vc ∧ e.entry = true ∧ e.rel = sem.getLsbD 1 ∧
            e.acq = sem.getLsbD 0)) ∧
      (spaceOf w = 1 → offOf w < regionTable → flies (.atomic .c (vaultAddr (coreC s.cur.core w) (offOf w)) op ret) 14 (s.modeOf s.cur.core == 0) 4) ∧
      (spaceOf w = 2 → flies (.atomic .g (vaOf w) op ret) 8 true 1)
    let n := if wd then 64 else 32
    acts (.atomAdd d a ss wd sem) d 0 n false x 0 sem ∧ acts (.atomMin d a ss wd u sem) d 1 n u x 0 sem ∧
    acts (.atomMax d a ss wd u sem) d 2 n u x 0 sem ∧ acts (.atomAnd d a ss wd sem) d 3 n false x 0 sem ∧
    acts (.atomOr d a ss wd sem) d 4 n false x 0 sem ∧ acts (.atomXor d a ss wd sem) d 5 n false x 0 sem ∧
    acts (.atomSwap d a ss wd sem) d 6 n false x 0 sem ∧ acts (.atomCas d a ss sc wd sem) d 7 n false x (c.gs sc) sem ∧
    acts (.atomFadd a ss bf) 0 (if bf then 10 else 8) 128 false x 0 0 ∧ acts (.wcinit a ce) 0 9 128 false (ce.setWidth 64) 0 0 ∧
    (isSlot s.cur.core = false → LocalOperand s w 16 16 false →
      Completes (.wcread d a bf) s fun t => OnlyPend s t ∧ Gains s t (inFlight s (.s d.toNat) (.wcread w.toNat bf) 5 6))

/-- Mapped regions, messages, containment regions and the audit and tandem controls (10 R290, R292, R293; 16 R401, R405). -/
def Obligations.MessagesAndRegions : Prop :=
  ∀ (s : State) (d sl sn : BitVec 5) (a : BitVec 4) (i ln : BitVec 3) (wb eng w : Bool) (tol : BitVec 2) (g : BitVec 12),
    let c := s.me
    let p := s.cur.core
    let e := if eng then 1 else 0
    isSlot p = false →
    -- mapreg: a map that stands changes nothing, another lands with the next vc; the landing writes the descriptor, and the
    -- lines of its region become unfilled
    (let v := (c.gs sl).toNat
     let r : RDesc := { voff := nbits v 0 23, len := nbits v 32 23, gva := vaOf (c.ga a), wb := wb, sv := s.cur.sv }
     (spaceOf (c.ga a) = 0 ∨ spaceOf (c.ga a) = 2) → nbits (c.ga a).toNat 56 6 = 0 →
     r.voff % 4096 = 0 → r.len % 4096 = 0 → r.gva % 4096 = 0 → r.voff + r.len ≤ regionTable →
     (∀ j, j < 8 → j ≠ i.toNat → (s.mapNow j).len = 0 ∨ r.len = 0 ∨ r.voff + r.len ≤ (s.mapNow j).voff ∨
       (s.mapNow j).voff + (s.mapNow j).len ≤ r.voff) →
     (s.mapNow i.toNat = r → Completes (.mapreg i a sl wb) s fun t => t = s) ∧
     ((s.mapNow i.toNat).len = 0 → s.mapNow i.toNat ≠ r →
       Gives (.mapreg i a sl wb) s (.region i.toNat) (.bytes r.bytes) 1)) ∧
    (∀ (r : RDesc) (x : Pending), s.together p = [p] → c.pend = [x] → x.dest = .region i.toNat → x.src = .bytes r.bytes →
      x.land = c.vc → x.perform ≠ c.vc → x.late = false → x.dmg.cls = 0 → s.sigs = [] → Undamaged s →
      s.vaultGone (vaultAddr p regionTable) = false → r.voff < 2 ^ 32 → r.len < 2 ^ 32 →
       Completes .resultLanding s fun t =>
         (∀ k, (h : k < r.bytes.length) → t.byte (vaultAddr p (regionTable + 32 * i.toNat) + k) = r.bytes[k]) ∧
         (∀ b, (b < vaultAddr p (regionTable + 32 * i.toNat) ∨ vaultAddr p (regionTable + 32 * i.toNat) + 32 ≤ b) →
           t.byte b = s.byte b) ∧ t.me.pend = [] ∧
         (∀ q, q ≠ p → t.core q = s.core q) ∧
         { t.me with fills := c.fills, pend := c.pend, holdAt := c.holdAt } = c ∧
         ∀ k, r.voff ≤ 64 * k → 64 * k < r.voff + r.len → t.fillOf p k = 0) ∧
    -- send numbers the message and puts it into the mesh
    (let off := (c.ga a).toNat
     let n := 8 * (ln.toNat + 1)
     let q := (c.gs sl).toNat % 512
     LocalOperand s (c.ga a) n 8 false → FirstTime s → q < slotBase → s.enabled q = true → EngineRoom s e → Undamaged s →
     s.vaultGone (vaultAddr p off) = false → (∀ l ∈ linesIn off n, s.unfilled p l = false) →
       Completes (.send a sl ln sn eng) s fun t =>
         (∃ k : List Nat, (∀ y ∈ k, y = 0) ∧ t.mesh = s.mesh ++ [{
           sender := p, eng := e, num := c.count e + 1, target := q, bytes := s.bytes (vaultAddr p off) n, cls := k,
           pos := s.posNow }]) ∧
         (t.me.engOps e).length = (c.engOps e).length + 1 ∧ t.me.count e = c.count e + 1 ∧
         Gains s t (inFlight s (.s sn.toNat) (.word (BitVec.ofNat 64 (c.count e + 1))) 0 1) ∧
         (∀ k, k ≠ p → t.core k = s.core k) ∧ ∀ b, t.byte b = s.byte b) ∧
    -- recv pops the oldest message, an error trap's record first, lands its sender and length, and gates its bytes; the
    -- audit log of a sampled unit takes them in
    (∀ m : Msg, c.nextMsg = some m → LocalOperand s (c.ga a) 64 64 true → GateRoom s 1 → Unlogged s ∨ Clean s →
      Completes (.recv d a) s fun t =>
        t.me.recvq = (if c.errq = [] then c.recvq.tail else c.recvq) ∧ t.me.errq = c.errq.tail ∧
        Gains s t (inFlight s (.s d.toNat) (.word (BitVec.ofNat 64 (m.sender % 512 + 2 ^ 16 * m.bytes.length))) 0 6) ∧
        Gates s t .l (cellsAt (c.ga a).toNat (m.bytes ++ List.replicate (64 - m.bytes.length) 0)) ∧
        (∀ q, q ≠ p → t.core q = s.core q) ∧
        (∀ b, Unlogged s ∨ OffLog s b → t.byte b = s.byte b) ∧
        { t.me with recvq := c.recvq, pend := c.pend, gate := c.gate, errq := c.errq, shadow := c.shadow,
                    fills := c.fills } = c) ∧
    -- cxopen pushes a region, cxclose pops it
    (FirstTime s →
      (LocalOperand s (c.ga a) 64 64 true → (w = true → g.toNat ≤ 0x1FF) → c.regions.length < 4 →
        Completes (.cxopen a tol w g) s fun t =>
          t.me.regions = c.regions ++ [{ w := w, t := g, addr := (c.ga a).toNat, tol := tol.toNat, ldepth := c.loops.length }] ∧
          MarksSoft s t ∧ OnlyMe s t ∧ { t.me with regions := c.regions, irrevNew := c.irrevNew } = c) ∧
      (c.regions ≠ [] →
        Completes .cxclose s fun t => t.me.regions = c.regions.dropLast ∧
          MarksSoft s t ∧ OnlyMe s t ∧ { t.me with regions := c.regions, irrevNew := c.irrevNew } = c)) ∧
    -- audmark, audoff, tcheck
    (Completes (.audmark d) s fun t => OnlyGate s t ∧ ∃ x : Gated, t.me.gate = c.gate ++ [x] ∧ x.entry = false ∧
      x.cells.map (·.2) = toBytes 8 (c.gs d).toNat) ∧
    (Completes .audoff s fun t => (s.unitOf p = none → t = s) ∧ (∀ q, t.core q = s.core q) ∧ (∀ b, t.byte b = s.byte b) ∧
      ∀ r, s.unitOf p = some r → (r.audited = false → t = s) ∧ (∀ r', t.unitOf p = some r' → r'.audited = false)) ∧
    (s.modeOf p = 2 → Completes (.tcheck d) s fun t => t.me.tchecks = c.tchecks ++ [c.gs d] ∧ OnlyMe s t ∧
      { t.me with tchecks := c.tchecks } = c) ∧
    (s.modeOf p ≠ 2 → Completes (.tcheck d) s fun t => t = s)

/-! ### Hub operations (12 R320, R325 to R341) -/

/-- A hub operation is sent to the device hub with its operands, and its bundle waits for the answer; but for hwaitc and
hreadc it needs supervisor mode and a checkpoint bundle, and it is marked in the irrevocable record. -/
def Obligations.HubOperationsAreSent : Prop :=
  ∀ (s : State) (d a b : BitVec 5),
    let c := s.me
    let x := c.gs a
    let y := c.gs b
    let asks := fun (i : Instr) (op func : Nat) (x y : Word) => Completes i s fun t =>
      Sent s t op func x y ∧ { t.me with nid := c.nid, hold := c.hold, rest := c.rest } = c
    let orders := fun (i : Instr) (op func : Nat) (x y : Word) => Completes i s fun t =>
      Sent s t op func x y ∧ Marks s t ∧
      { t.me with nid := c.nid, hold := c.hold, rest := c.rest, irrevNew := c.irrevNew } = c
    asks (.hwaitc d a b) 0x31 0 x y ∧ asks (.hreadc d a) 0x34 0 x 0 ∧ asks (.hreadcSt d a) 0x34 1 x 0 ∧
    (s.cur.sv = true → FirstTime s →
      orders (.hlaunch d a) 0x30 0 x 0 ∧ orders (.hlaunchSealg a) 0x30 1 x 0 ∧ orders .hlaunchSealp 0x30 2 0 0 ∧
      orders .hlaunchEnd 0x30 3 0 0 ∧ orders (.hcancel a) 0x32 0 x 0 ∧ orders (.hsetc a b) 0x33 0 x y ∧
      orders (.hsetcAdd a b) 0x33 1 x y ∧ orders (.hstop a) 0x35 0 x 0 ∧ orders (.hstopU a b) 0x35 1 x y ∧
      orders (.hctx d a) 0x36 0 x 0 ∧ orders (.hctxKill a) 0x36 1 x 0 ∧ orders (.hctxHold a) 0x36 2 x 0 ∧
      orders (.hctxRun a) 0x36 3 x 0 ∧ orders (.hdeal d a b) 0x37 0 x y ∧ orders (.hdealE d a) 0x37 1 x 0 ∧
      orders (.hdealRing a b) 0x37 2 x y)

/-! ### Tile stream code (08 R224 to R236) -/

/-- The control words of a routine (08 R228, R230, R231, R233, R234): each goes on at its next word with its effect on
t registers, loops and settings, and changes nothing else; halt ends the routine. -/
def Obligations.RoutineControl : Prop :=
  ∀ (s : State) (r : Routine) (d a b : BitVec 4) (imm : BitVec 16) (n bit : BitVec 6) (v : Bool) (to_ : BitVec 13),
    let q := s.cur.core
    (s.tile q).run = some r →
    let word := fun (k : Nat) => tscOp (s.microWord q k)
    let va := r.gt a
    let next : Routine := { r with pc := r.pc + 1 }
    RoutineTo (.tscSetp d a imm) s (next.setT d (va + imm.signExtend 64)) ∧
    RoutineTo (.tscSetpHi d a imm) s (next.setT d (va + (imm.signExtend 64 <<< 16))) ∧
    RoutineTo (.tscSetpReg d a b) s (next.setT d (va + r.gt b)) ∧
    RoutineTo .tscWaitq s { next with
      firm := r.firm ++ r.wrote, wrote := [],
      firmAt := match s.unitOf q with | some u => u.hist.length | none => 0 } ∧
    RoutineTo .tscTriOff s { next with tri := none } ∧
    RoutineTo (.tscAccsel a) s { next with bank := nbits va.toNat 0 2, row0 := nbits va.toNat 8 7 } ∧
    (nbits (r.gt b).toNat 52 2 = 0 ∨ nbits (r.gt b).toNat 16 36 = 0 →
      RoutineTo (.tscTri a b) s { next with tri := some {
        diag := (va.setWidth 16).toInt, roff := nbits va.toNat 16 16, coff := nbits va.toNat 32 16,
        ca := BitVec.ofNat 36 ((r.gt b).toNat / 2 ^ 16), cc := BitVec.ofNat 2 ((r.gt b).toNat / 2 ^ 52) } }) ∧
    (va.toNat % 64 = 0 → spaceOf va ≤ 1 →
      RoutineTo (.tscXstr a) s { next with xstr := some {
        base := va + BitVec.ofNat 64 (r.li * imageSize r.rows r.eb), rows := r.rows, ovr := r.ovr 8 16 } }) ∧
    (∀ w, s.matchEndl q (8192 - (r.pc + 1)) (r.pc + 1) 0 = some w → r.loops.length < 4 →
      let counts := fun (i : Instr) (c : Nat) =>
        RoutineTo i s (if c = 0 then { r with pc := w + 1 }
          else { next with loops := r.loops ++ [{ start := r.pc + 1, stop := w, idx := 0, count := c }] })
      counts (.tscLoopImm imm) imm.toNat ∧ counts (.tscLoopReg a) (va.toNat % 65536) ∧ counts .tscLoopKb r.kb) ∧
    (∀ l, r.loops.getLast? = some l →
      RoutineTo .tscEndl s (if l.idx + 1 < l.count
        then { r with pc := l.start, loops := r.loops.dropLast ++ [{ l with idx := l.idx + 1 }] }
        else { next with loops := r.loops.dropLast })) ∧
    (n ≠ 0 → (∀ k, r.pc < k → k ≤ r.pc + n.toNat → word k ≠ 0x0A ∧ word k ≠ 0x0B) →
      RoutineTo (.tscSkip n) s (if r.li < 16 ∧ r.info.getLsbD r.li = true then next else { r with pc := r.pc + 1 + n.toNat })) ∧
    ((∀ l, r.loops.getLast? = some l → l.start ≤ to_.toNat ∧ to_.toNat ≤ l.stop) →
      RoutineTo (.tscBrc a bit v to_) s (if va.getLsbD bit.toNat = v then { r with pc := to_.toNat } else next)) ∧
    Completes .tscHalt s fun t => (t.tile q).run = none ∧ (t.tile q).fin = true ∧ { t with tiles := s.tiles } = s ∧
      (∀ k, k ≠ q → t.tile k = s.tile k) ∧ (∀ x, t.byte x = s.byte x) ∧
      { t.tile q with run := (s.tile q).run, fin := (s.tile q).fin } = s.tile q

/-- The computing words of a routine (08 R228 to R236): loading weights into cells, the race of one vector, accumulate
modes, results written to L-space, key races in memory, and trim words. That a result's bytes perform some at a time, in
their order, before the routine's next word runs is the model's choice (DESIGN CHOICE, log entry 8); that trimrd with one
register for both leaves the trim word in it is the model's reading (DEDUCED, log entry 62). -/
def Obligations.RoutineComputes : Prop :=
  ∀ (s : State) (r : Routine) (d a b ty : BitVec 4) (nm1 km1 : BitVec 7) (kind : BitVec 2),
    let q := s.cur.core
    (s.tile q).run = some r →
    let va := r.gt a
    let vb := r.gt b
    let next : Routine := { r with pc := r.pc + 1 }
    let cols := r.tw16 = true → r.ncol ≤ 256
    let runs := fun (u t : State) (x : Routine) => t = u.updTile q fun y => { y with run := some x }
    let puts := fun (l : List (Word × List Byte)) =>
      { next with out := r.out ++ l, wrote := r.wrote ++ l.map fun x => (vaultAddr q (offOf x.1), x.2.length) }
    -- wld and wconv: each column's cells are those of its bytes; cells not loaded hold 0x77
    (∀ (u1 u2 : State) (g z : Got),
      let img := va + BitVec.ofNat 64 (r.li * imageSize r.ncol r.wb)
      va.toNat % 64 = 0 → spaceOf va ≤ 1 → cols → s.tileRead q r va img (r.ncol * r.wb) = (u1, .ok g) →
      (match r.ovr 9 24 with
        | some w => u2 = u1 ∧ z = { data := List.replicate r.ncol (BitVec.ofNat 8 w), cls := [] }
        | none => u1.tileRead q r va (img + BitVec.ofNat 64 (r.ncol * r.wb)) r.ncol = (u2, .ok z)) →
      Completes (if r.wq = 0 then .tscWld a else .tscWconv a) s fun t => ∃ x : Routine, runs u2 t x ∧
        { x with cells := r.cells, scale := r.scale, seed := r.seed } = next ∧
        ∀ c, c < r.ncol → ∃ n : Word,
          let y := r.column ((g.data.drop (c * r.wb)).take r.wb) ((g.cls.drop (c * r.wb)).take r.wb) ((z.data[c]?).getD 0).toNat n
          ∀ j, j < y.1.length → ∀ k, k < 128 →
            SMap.get x.cells 0x77 (128 * ((if r.tw16 then 2 * c else c) + j) + k) =
              BitVec.ofNat 8 (((y.1[j]?).getD []).getD k 0x77)) ∧
    -- race of one vector, without masking and stochastic rounding, trim words as committed
    (∀ (u1 u2 : State) (g z : Got) (x : XStr),
      r.xstr = some x → r.accDone = true → cols → r.rows = 1 → r.tri = none → r.rnd.toNat < 5 →
      s.tileRead q r x.base x.base r.eb = (u1, .ok g) →
      (match x.ovr with
        | some w => u2 = u1 ∧ z = { data := [BitVec.ofNat 8 w], cls := [0] }
        | none => u1.tileRead q r x.base (x.base + BitVec.ofNat 64 (x.rows * r.eb)) 1 = (u2, .ok z)) →
      (u2.tile q).off = [] → (u2.tile q).moved = [] →
      let ea := if 3 ≤ z.cls.headD 0 then 255 else (z.data.headD 0).toNat
      let xs := (seqFrom 0 128).map fun k =>
        let e := elemAt g.data g.cls (if r.eb = 64 then 4 else 8) k
        (e.1, decide (3 ≤ e.2))
      let p := pulseBlock r.af r.mode xs ea r.seed
      Completes .tscRace s fun t => (∃ y, (t.tile q).run = some { next with seed := y }) ∧
        ∀ c, c < r.ncol →
          let e := (u2.tile q).entry (r.bank + c / 128) r.row0 (c % 128)
          (t.tile q).entry (r.bank + c / 128) r.row0 (c % 128) =
            if r.colOn c then (combine e (r.addend p.1 ea p.2.1 false 0 c 0).1).1 else e) ∧
    -- accmode: the prelude of the mode on each entry in use
    (let mode := nbits va.toNat 0 2
     let sh := nbits va.toNat 4 4
     (mode = 2 ↔ sh ≠ 0) → cols →
      Completes (.tscAccmode a) s fun t => (t.tile q).run = some { next with accDone := true } ∧
        (∀ m c, m < r.rows → c < r.ncol → r.colOn c = true →
          (t.tile q).entry (r.bank + c / 128) (r.row0 + m) (c % 128) =
            prelude mode sh ((s.tile q).entry (r.bank + c / 128) (r.row0 + m) (c % 128))) ∧
        { t with tiles := s.tiles } = s ∧ (∀ k, k ≠ q → t.tile k = s.tile k) ∧
        { t.tile q with run := (s.tile q).run, acc := (s.tile q).acc, modes := (s.tile q).modes } = s.tile q) ∧
    -- handoff and emit give one image after another to be written; what is to be written performs, some bytes at a time
    (va.toNat / 2 ^ 32 % 8 = 0 → cols →
      let at_ := fun (k : Nat) => BitVec.ofNat 64 (va.toNat / 2 ^ 32 + k)
      Completes (.tscEmit a) s (fun t => runs s t (puts ((seqFrom 0 (r.rows * r.ncol)).map fun i =>
        (at_ (8 * i), entryImage ((s.tile q).entry (r.bank + i % r.ncol / 128) (r.row0 + i / r.ncol) (i % r.ncol % 128)))))) ∧
      (∀ l : List (Word × List Byte), l.map (·.1) = (seqFrom 0 (r.rows * ((r.ncol + 15) / 16))).map (fun i => at_ (40 * i)) →
        (∀ i, i < l.length → ∃ z : Word, ((l[i]?).map (·.2)) =
          some (handoffBlock r.rnd r.eacc ((seqFrom 0 16).map fun k =>
            if 16 * (i % ((r.ncol + 15) / 16)) + k < r.ncol
            then (s.tile q).entry (r.bank + i % ((r.ncol + 15) / 16) / 8) (r.row0 + i / ((r.ncol + 15) / 16))
              (16 * (i % ((r.ncol + 15) / 16) % 8) + k) else (0, 0)) z).1.bytes) →
        r.rnd.toNat < 5 → Completes (.tscHandoff a) s fun t => ∃ z : Word, runs s t { puts l with seed := z })) ∧
    (∀ (x : Word) (b : List Byte) (l : List (Word × List Byte)), r.out = (x, b) :: l → b ≠ [] → spaceOf x = 0 →
      addrBitsOk x = true → offOf x + b.length ≤ regionTable → q < 288 → NonePassed s → Undamaged s →
      s.vaultGone (vaultAddr q (offOf x)) = false → (∀ k ∈ linesIn (offOf x) b.length, s.unfilled q k = false) →
      ∃ t, State.tileStep exec s q = .next t ∧ ∃ k, 0 < k ∧ k ≤ b.length ∧
        (∀ j, j < k → b[j]? = some (t.byte (vaultAddr q (offOf x) + j))) ∧
        (∀ c, (c < vaultAddr q (offOf x) ∨ vaultAddr q (offOf x) + k ≤ c) → t.byte c = s.byte c) ∧
        (t.tile q).run = some { r with out := if k < b.length then (x + BitVec.ofNat 64 k, b.drop k) :: l else l }) ∧
    -- key races on n keys at t[a], written at t[b], trim words as committed
    (let n := nm1.toNat + 1
     let wb := keyWidth ty.toNat / 8
     ∀ (u : State) (g : Got), spaceOf va ≤ 1 → spaceOf vb = 0 → s.tileRead q r va va (n * wb) = (u, .ok g) →
      (u.tile q).off = [] → (u.tile q).moved = [] →
      let keys := (seqFrom 0 n).map fun i => fieldOf g.data (i * wb) wb
      let up := raceOrder keys ty.toNat false
      let down := raceOrder keys ty.toNat true
      let gives := fun (i : Instr) (out : List Byte) =>
        Completes i s fun t => runs (u.tally 2 wb) t (puts [(vb, out)])
      gives (.tscRmin a b ty nm1) (toBytes 4 (up.headD 0) ++ toBytes 4 (keys.getD (up.headD 0) 0)) ∧
      gives (.tscRmax a b ty nm1) (toBytes 4 (down.headD 0) ++ toBytes 4 (keys.getD (down.headD 0) 0)) ∧
      gives (.tscRank a b ty nm1) ((seqFrom 0 n).map fun i => BitVec.ofNat 8 (indexIn up i)) ∧
      (km1.toNat ≤ nm1.toNat → gives (.tscTopk a b ty nm1 km1) ((down.take (km1.toNat + 1)).map (BitVec.ofNat 8)))) ∧
    -- trim words, for a privileged routine
    (let word := va.toNat % 4096
     let arr := va.toNat / 2 ^ 14 % 4
     r.priv = true → word ≤ 3583 →
      RoutineTo (.tscTrimrd d a) s ((next.setT a (trNext va)).setT d (((s.tile q).trim arr word).setWidth 64)) ∧
      (Completes (.tscTrimwr a b) s fun t => { t with tiles := s.tiles } = s ∧ (∀ k, k ≠ q → t.tile k = s.tile k) ∧
        t.tile q = { (s.tile q).setTrim arr word (vb.setWidth 32) with run := some (next.setT a (trNext va)) }) ∧
      ∃ x : Routine, RoutineTo (.tscRefrace d a kind) s x ∧ { x with t := r.t, cells := r.cells } = next ∧
        ∀ k, k / 16384 = arr → SMap.get x.cells 0x77 k = 0x77)

/-! ### Faults (16 R394 to R400; 17 R411) -/

/-- A fault delivered to a core that runs on its own in program mode is an error trap: the registers are those of its
last checkpoint, EPC is that bundle's word, ECODE 0xFFFF, ESTAT.PSV 0, STAT.SV 1, control goes to SVEC, and the record
stands first for recv; in supervisor mode the core stops. -/
def Obligations.FaultsTakeAnErrorTrap : Prop :=
  ∀ (s : State) (p : Nat) (r : Rec) (h : Shadow),
    let c := s.core p
    isSlot p = false → s.together p = [p] → c.shadow = some h → (∀ k, k < 8 → (c.port k).ahead = []) →
    Undamaged s →
    (c.sv = false →
      let t := s.deliver p r false
      let c' := t.core p
      c'.s = h.s ∧ c'.a = h.a ∧ c'.p = h.p ∧ c'.v = h.v ∧ c'.k = h.k ∧ c'.mp = h.mp ∧ c'.fmt = h.fmt ∧ c'.mpc = h.mpc ∧
      c'.loops = h.loops ∧ c'.ispsel = h.ispsel ∧ c'.gate = [] ∧
      c'.epc = h.pc ∧ c'.ecode = 0xFFFF ∧ c'.psv = false ∧ c'.sv = true ∧ c'.pc = c.svec.setWidth 64 ∧ c'.needCk = true ∧
      (∃ m, c'.errq = m :: (h.msgs.filter (·.err) ++ c.errq) ∧ m.sender = 0x1FF ∧ m.bytes.length = 64) ∧
      t.agenda.head? = some (.begin p) ∧ (s.err.en = false → ∀ a, t.byte a = s.byte a)) ∧
    (c.sv = true → ((s.deliver p r false).core p).stopped = true)

/-! ### Machine steps of a bundle (02 R42; 04 R86, R88; 17 R413 to R418) -/

/-- A header-only bundle does nothing else; a re-issued M slot advances mp0 and mp1 by mp7; a hold ends when an access
completes; a released store performs; a fault due is delivered; a word that is no instruction takes a fault. A late load
that performs in a step of its own (DESIGN CHOICE, log entry 9) and its overtaking of released stores across a narrow
fence (DESIGN CHOICE, log entry 101) are the model's. -/
def Obligations.BundleSteps : Prop :=
  ∀ (s : State) (p i : Nat),
    let c := s.core p
    Completes .headerOnlyBundle s (fun t => t = s) ∧
    (s.cur.slot ≠ 5 → Completes .reissue s fun t => t = s) ∧
    (s.cur.slot = 5 → Completes .reissue s fun t => OnlyMe s t ∧ { t.me with mp := s.me.mp } = s.me ∧
      ∀ k, t.me.gmp k = if k < 2 then s.me.gmp k + s.me.gmp 7 else s.me.gmp k) ∧
    -- hold end
    (let goes := fun (t : State) => if isSlot p then t else t.pushTurns [.begin p]
     c.hold ≠ 2 →
    ((∀ k, s.mayArrive p k = false) → Completes (.holdEnd p) s fun t => t = goes s) ∧
    (∀ (x : Pending) (q : Piece) (ps : List Piece) (sx inv : Bool),
      c.pend[i]? = some x → x.src = .load .g (q :: ps) sx inv → x.irrev = none → s.mayArrive p i = true →
      (∀ k, k ≠ i → s.mayArrive p k = false) → s.secondary p = false → NonePassed s →
      let z := s.later p x
      let r := (s.overtake p (c.releasedBefore z.pos) z).lateAccess p x
      r.2.arrived = true ∧ r.2.dest = x.dest ∧ r.2.land = x.land ∧
      Completes (.holdEnd p) s fun t => t = goes ((r.1.updCore p (·.setPend i r.2)).twinPend p r.2))) ∧
    -- a released store of a cluster vault performs
    (∀ (e : Gated) (a : Nat) (d : List Byte),
      c.released = [e] → s.mayPerform p 0 = true → e.form = .c → e.cells = cellsAt (vaultAddr i a) d → e.bad = [] → d ≠ [] →
      i < 288 →
      a / 64 = (a + d.length - 1) / 64 → a + d.length ≤ 0x800000 → s.unfilled i (a / 64) = false → NonePassed s →
      Undamaged s → s.vaultGone (vaultAddr i a) = false →
      Completes (.storePerform p 0) s fun t => (t.core p).released = [] ∧
        (∀ k, (h : k < d.length) → t.byte (vaultAddr i a + k) = d[k]) ∧
        ∀ b, (b < vaultAddr i a ∨ vaultAddr i a + d.length ≤ b) → t.byte b = s.byte b) ∧
    -- faults
    (∀ x : Late, c.late = [x] → s.pathHeld p = false → x.due < c.vc ∨ 5 ≤ c.hold →
      Completes (.lateFaultDelivery p) s fun t => t = (s.updCore p fun c => { c with late := [] }).deliver p x.what false) ∧
    (s.pathHeld p = true ∨ ((∀ x ∈ c.late, ¬ x.due < c.vc) ∧ c.hold < 5) →
      Completes (.lateFaultDelivery p) s fun t => t = s) ∧
    (∀ (cause : BitVec 8) (enc : BitVec 32), Completes (.notAnInstruction cause enc) s fun t =>
      t = s.deliverUse { s.use { kind := if cause = 0x50 then 6 else 5, cause := cause.toNat, wh := s.cur.hcw } with enc := enc.toNat }) ∧
    (∀ w : BitVec 32, ((s.tile s.cur.core).run = none → Completes (.tscNotAnInstruction w) s fun t => t = s) ∧
      ∀ r, (s.tile s.cur.core).run = some r →
        Completes (.tscNotAnInstruction w) s fun t => t = s.routineFault s.cur.core (s.tileUse s.cur.core 0x0A 0))

/-! ### Units and the device hub (02 R28 to R38; 12 R320 to R343; 16 R408) -/

/-- Launches become ready, units start, retire, yield, are saved and resume, the hub answers, jobs start, and replays are
compared. Of the model's own are: the shadow that a start, a resume and JSTART capture at the first word (log entry 28);
the replay's signature as an input (log entry 18); a save in one step (log entry 70); the free context of the lowest
number (log entry 64); a job's start in one step (log entry 99). Copies of units that name host memory while a route waits
to take force are shut out (13 R349). -/
def Obligations.UnitSteps : Prop :=
  ∀ (s : State) (c lid u : Nat),
    -- a launch becomes ready where 12 R333 says so, and stays as it is where it does not
    (∀ (x : Context) (y : Launch), s.ctx c = some x → x.launch lid = some y → (∀ r ∈ s.units, r.prio ≠ 255) →
      let ready := y.ready = false ∧ y.status = 0 ∧ x.held = false ∧
        (∀ e ∈ y.edges, (s.item e.1).state = 4 ∨ e.2.toNat ≤ (s.item e.1).val.toNat) ∧
        ∀ e ∈ x.phases, y.phase ≤ e.1 ∨ e.2.status = 2 ∨ e.2.status = 3
      (ready → Completes (.launchReady c lid) s fun t => t.launchOf c lid = some { y with ready := true } ∧
        (∀ l, l ≠ lid → t.launchOf c l = s.launchOf c l) ∧ (∀ k, k ≠ c → t.ctx k = s.ctx k) ∧ { t with ctxs := s.ctxs } = s) ∧
      (¬ ready → Completes (.launchReady c lid) s fun t => t = s)) ∧
    -- a unit takes the slot that is offered to it: its record, its cores and its tiles once its copies are made
    (∀ (x : Context) (y : Launch) (w : Wait) (l : List Nat), s.ctx c = some x → s.launchOf c lid = some y →
      s.waiters.find? (fun w => w.ctx == c && w.lid == lid && w.u == u) = some w → s.takes w = some l →
      s.ctl.hnext = none → (s.findUnit c lid u = none → let p := s.placeUnit c y u l
        Completes (.unitStart c lid u) s fun t => t = s.startUnit c y u l ∧
          (∃ r : UnitRec, p.findUnit c lid u = some r ∧ r.members = l ∧ r.st = .running ∧ r.ucnt = 0 ∧
            r.mode = (if y.mode = 1 ∧ y.size = 1 then 0 else y.mode) ∧ r.size = y.size ∧ r.prio = y.prio ∧ r.slot = u % s.eOf y ∧
            r.tend = if y.prio = 255 then 0 else s.gtc.toNat + 1000 * x.slice - min x.owed (1000 * x.slice)) ∧
          p.launchOf c lid = some { y with status := 1, started := y.started + 1 } ∧
          (∀ q ∈ l, p.core q = { s.core q with unit := some (c, lid, u), idle := false }) ∧ (∀ q, q ∉ l → p.core q = s.core q) ∧
          (∀ a, p.byte a = s.byte a) ∧
          ∀ v : State, p.copyIn c y u l = (v, none) → (∀ r ∈ v.units, r.prio ≠ 255) →
            (∀ q ∈ l, (t.core q = let k := startCore q c y u (v.core q)
                { k with shadow := some k.capture, ckWord := k.pc, ckVc := k.vc }) ∧ t.tile q = (v.tile q).start y.live) ∧
            (∀ q, q ∉ l → t.core q = v.core q ∧ t.tile q = v.tile q) ∧
            (∀ r, v.findUnit c lid u = some r → t.findUnit c lid u = some { r with mem0 := v.mem, home := r.members }) ∧
            (∀ a, t.byte a = v.byte a) ∧
            { t with cores := v.cores, tiles := v.tiles, units := v.units, past := v.past, ctl := v.ctl } = v) ∧
      -- and a saved one goes on there, with what its record held
      ∀ r n, s.findUnit c lid u = some r → r.st = .saved n →
        Completes (.resume c lid u) s fun t => t = s.resumeUnit y r n l ∧
          ∀ (h : List Byte) (v w : State),
            (s.placeBack y r n l).hubClean c (l.headD 0) (s.recordAt x n).1 0 512 true = (v, .ok h) →
            v.copyBack y r (s.recordAt x n) h l = (w, none) → l.Nodup → (∀ q ∈ l, (w.core q).pendFault = none) →
            r.prio ≠ 255 → (∀ e ∈ w.units, e.prio ≠ 255) → ∀ z : UnitRec, w.findUnit c lid u = some z →
            (∀ m q, l[m]? = some q → (t.core q = let k := { w.core q with
                svec := y.svec, halted := nbit (fieldOf h 12 1) m,
                vc := if r.mode = 0 then fieldOf h (456 + 16 * m) 8 else fieldOf h 56 8 }
                { k with shadow := some k.capture, ckWord := k.pc, ckVc := k.vc }) ∧ t.tile q = (w.tile q).capture) ∧
            (∀ q, q ∉ l → t.core q = w.core q ∧ t.tile q = w.tile q) ∧
            t.findUnit c lid u = some { z with
              members := l, st := .running, tend := (s.slice c r.prio).2, ucnt := BitVec.ofNat 64 (fieldOf h 152 8),
              sliced := false, since := 0, boundary := false, abandoned := false } ∧
            t.ctxs = (w.freeRecord c n).ctxs ∧ ∀ a, t.byte a = w.byte a) ∧
    -- the state of a core at unit start
    (∀ (q : Nat) (y : Launch) (old : Core), y.args.length = 7 → y.aregs.length = 4 →
      let k := startCore q c y u old
      (∀ j : Nat, j < 7 → ∀ r : BitVec 5, r.toNat = j + 1 → k.gs r = (y.args[j]?).getD 0) ∧
      (∀ r : BitVec 5, 8 ≤ r.toNat → k.gs r = 0) ∧
      (∀ j : Nat, j < 4 → ∀ r : BitVec 4, r.toNat = j → k.ga r = (y.aregs[j]?).getD 0) ∧
      k.pc = target (y.entry.getLsbD 12) (y.entry.setWidth 12) ∧ k.svec = y.svec ∧ k.vc = 0 ∧ k.pend = [] ∧ k.gate = [] ∧
      k.loops = [] ∧ k.regions = [] ∧ k.idle = false ∧ k.unit = some (c, y.lid, u)) ∧
    -- retirement of a unit whose members have halted with nothing in flight
    (∀ r : UnitRec, s.findUnit c lid u = some r → AtRest s r → (∀ m ∈ r.members, (s.core m).halted = true) →
      (Completes (.unitRetire c lid u) s fun t =>
        let v := s.drainMembers r
        t = (v.keepAudit ((v.findUnit c lid u).getD r)).endUnit ((v.findUnit c lid u).getD r) true) ∧
      ∀ y : Launch, r.sampled = false → r.st = .running → Settled s → s.launchOf c lid = some y → y.status = 1 →
        (∀ x g, s.ctx c = some x → findGroup x.graphs (graphKey y.phase y.graph) = some g → g.sealed = false) →
        Completes (.unitRetire c lid u) s fun t => Ended s t r { y with
          gone := y.gone ++ [u], count := y.count + 1, status := if y.gone.length + 1 = y.units then 2 else 1 }) ∧
    -- the end of a slice: with nobody waiting it is renewed; else the unit yields to one of another launch
    (∀ (r : UnitRec) (x : Context), s.findUnit c lid u = some r → s.ctx c = some x → r.prio ≠ 255 → r.st = .running →
      (s.gtc.toNat + 1000 * x.drain < r.tend → Completes (.sliceCheck c lid u) s fun t => t = s) ∧
      (r.tend ≤ s.gtc.toNat + 1000 * x.drain →
        (s.waiters = [] → Completes (.sliceCheck c lid u) s fun t =>
          t.findUnit c lid u = some { r with tend := r.tend + 1000 * x.slice } ∧ { t with units := s.units } = s) ∧
        ∀ (w : Wait) (n : Nat), w ∈ s.waiters → rankOf r.prio ≤ rankOf w.prio → (w.ctx ≠ c ∨ w.lid ≠ lid) →
          w.needs r.members = true → x.freeRec = some n → (∀ m ∈ r.members, (s.core m).abandons = false) →
          Completes (.sliceCheck c lid u) s fun t =>
            t.findUnit c lid u = some { r with sliced := true, since := s.tick, st := .stopping n, cancel := false } ∧
            t.ctx c = some { x with used := x.used ++ [n] } ∧ (∀ m ∈ r.members, t.core m = { s.core m with stopReq := true }) ∧
            (∀ q, q ∉ r.members → t.core q = s.core q) ∧
            { t with cores := s.cores, units := s.units, ctxs := s.ctxs } = s)) ∧
    -- a stopped unit is saved, or ends where it is to be cancelled
    (∀ (r : UnitRec) (n : Nat), s.findUnit c lid u = some r → r.st = .stopping n → s.maySave r = true →
      (∃ m ∈ r.members, (s.core m).halted = false) →
      (r.cancel = false → s.ctl.hnext = none → Completes (.unitSave c lid u) s fun t => t = s.saveUnit r n ∧
        ∀ (x : Context) (y : Launch) (w : State), s.ctx c = some x → s.launchOf c lid = some y →
          let v := r.members.foldl (fun s m => ((s.finishAccesses m).drainStreams m).settleLate m) s
          let r' := { (v.findUnit c lid u).getD r with
            ucnt := r.ucnt + (if (v.core (r.members.headD 0)).partDone then 1 else 0) }
          v.saveParts x y r' (v.recordAt x n) (v.atBoundary y r') = (w, none) → (∀ e ∈ w.units, e.prio ≠ 255) → r.prio ≠ 255 →
          ∀ z : UnitRec, w.findUnit c lid u = some z →
          t.findUnit c lid u = some { z with
            ucnt := r'.ucnt, st := .saved n, members := [], boundary := v.atBoundary y r' } ∧
          (∀ m ∈ r.members, t.core m = (w.core m).leave) ∧ (∀ q, q ∉ r.members → t.core q = w.core q) ∧
          ∀ a, t.byte a = w.byte a) ∧
      ∀ y : Launch, r.cancel = true → r.sampled = false → 4096 + 36 ≤ n → AtRest s r → Settled s → s.launchOf c lid = some y →
        y.status = 4 → (∀ x g, s.ctx c = some x → findGroup x.graphs (graphKey y.phase y.graph) = some g → g.sealed = false) →
        Completes (.unitSave c lid u) s fun t => Ended s t r { y with
          gone := y.gone ++ [u], status := if s.units.any (fun e => e.ctx == c && e.lid == lid && e.u != u) then 4 else 3 }) ∧
    -- the answers to hsetc, hreadc and hwaitc
    (∀ (q : HubReq) (x : Context), s.hubq = [q] → Settled s → s.ctx (hCtx q.x) = some x → s.handleOk q q.x [0, 1, 2, 3, 4] = true →
      (s.core q.agent).nid = q.id → (s.core q.agent).stopped = false →
      (∀ r, s.unitOf q.agent = some r → r.sampled = false ∨ r.audited = false) →
      let lands := fun (v : Word) (t : State) => t.hubq = [] ∧ (t.core q.agent).hold = 0 ∧
        (∃ z : Pending, (t.core q.agent).pend = (s.core q.agent).pend ++ [z] ∧ z.dest = q.dest ∧ z.src = .word v ∧
          z.land = (s.core q.agent).vc + 1) ∧
        (∀ k, k ≠ q.agent → t.core k = s.core k) ∧ ∀ a, t.byte a = s.byte a
      (q.op = 0x33 → hLvl q.x = 0 → (s.core q.agent).hold = 1 → Completes (.hubAnswer 0) s fun t => lands 0 t ∧
        (t.item q.x).val = if q.func = 0 then q.y else (s.item q.x).val + q.y) ∧
      (q.op = 0x34 → (s.core q.agent).hold = 1 → Completes (.hubAnswer 0) s fun t => t.ctxs = s.ctxs ∧ lands
        (if q.func = 0 then (s.item q.x).val
         else BitVec.ofNat 64 ((s.item q.x).state + (s.item q.x).started % 2 ^ 32 * 2 ^ 32)) t) ∧
      (q.op = 0x31 → (s.core q.agent).hold = 8 →
        (q.y.toNat ≤ (s.item q.x).val.toNat ∨ (3 ≤ (s.item q.x).state ∧ (s.item q.x).state ≤ 5) →
          Completes (.hubAnswer 0) s fun t => t.ctxs = s.ctxs ∧ lands (s.item q.x).val t) ∧
        (∀ z : Context, s.ctx q.ctx = some z → z.cancelled = false → (s.item q.x).val.toNat < q.y.toNat →
          ((s.item q.x).state < 3 ∨ 5 < (s.item q.x).state) → Completes (.hubAnswer 0) s fun t => t = s))) ∧
    -- the auditor's replay
    (∀ (k : Nat) (sig : Word),
      (s.audits[k]? = none → Completes (.auditReplay k sig) s fun t => t = s) ∧
      ∀ a : Audit, s.audits[k]? = some a →
        let die := (((seqFrom 1 8).map fun k => (a.die + k) % 8).find? fun d =>
          (s.eligible (BitVec.ofNat 8 (2 ^ d)) a.size).any s.online).getD a.die
        let gone := { s with audits := s.audits.take k ++ s.audits.drop (k + 1),
                             err := { s.err with audused := s.err.audused - a.logn } }
        (sig = a.sig → Completes (.auditReplay k sig) s fun t =>
          t = { gone with err := { gone.err with mtch := satInc s.err.mtch } }) ∧
        (sig ≠ a.sig → Completes (.auditReplay k sig) s fun t =>
          t = { gone with err := { gone.err with mism := satInc s.err.mism } }.log {
            va := a.sig.toNat, pa := sig.toNat, launch := a.lid % 2 ^ 32, unit := a.u % 2 ^ 32, block := 576 + die, sev := 5,
            kind := 0x0B, ctxd := a.ctx, detail := die })) ∧
    -- JSTART
    (∀ (party : BitVec 2) (v : Word), let sem := v.toNat % 8
      (v.getLsbD 7 = false → Completes (.jstart party v) s fun t => t = s) ∧
      (v.getLsbD 7 = true →
        (party = 0 ∨ s.ctl.owner sem ≠ party.toNat ∨ s.ctl.jbusy = true ∨ s.xmask.getLsbD 0 = false ∨ s.freeCtx = none) →
        Completes (.jstart party v) s fun t => t = { s with ctl := { s.ctl with jrej := true } }) ∧
      ∀ (n : Nat) (h : List Byte) (u1 : State), v.getLsbD 7 = true → party ≠ 0 → s.ctl.owner sem = party.toNat →
        s.ctl.jbusy = false → s.xmask.getLsbD 0 = true → s.freeCtx = some n →
        ({ s with ctl := { s.ctl with jrej := false } } : State).readHbmRange s.ctl.jimg.toNat 64 = (u1, some h) →
        (jobHeaderOk h = false → Completes (.jstart party v) s fun t => t = { u1 with ctl := { u1.ctl with jrej := true } }) ∧
        ∀ (d k : List Byte) (u2 u3 : State), jobHeaderOk h = true → u1.readHbmRange (fieldOf h 16 8) 64 = (u2, some d) →
          u2.readHbmRange (fieldOf h 0 8) (fieldOf h 8 4) = (u3, some k) →
          Completes (.jstart party v) s fun t => t = u3.startJob n (contextOf d none) k ∧
            t.ctx n = some (contextOf d none) ∧ (∀ j, j ≠ n → t.ctx j = u3.ctx j) ∧
            (t.core (288 + n) = let z := { Core.resetOf (288 + n) with idle := false, pc := u3.ctl.entry }
              { z with shadow := some z.capture }) ∧
            (∀ q, q ≠ 288 + n → t.core q = u3.core q) ∧
            (∀ j, (g : j < k.length) → t.byte (ispAddr (288 + n) 0x4000 + j) = k[j]) ∧
            (∀ j, j < 0x40000 → t.byte (hubAddr n 0 + j) = 0) ∧ t.ctl.jctx = BitVec.ofNat 4 n ∧ SMap.get t.ctl.jcnt 0 n = 0)

/-! ### Steps of the tiles (07 R201 to R206; 08 R209, R210) -/

/-- The operand queue advances, operations complete, truing rounds come due, start and commit, and TRDATA is accessed. Of
the model's own are: an mtrue that starts on a withdrawn tile completes at once (log entry 61); a tile stands as not yet
trued from a cold reset to its first round's end (log entry 72); a routine may start before vc n + 18 while its core is held
or stands (log entry 103). -/
def Obligations.TileSteps : Prop :=
  ∀ (s : State) (q : Nat),
    let t := s.tile q
    let only := fun (i : Instr) (t' : Tile) => Completes i s fun v => v.tile q = t' ∧ (∀ k, k ≠ q → v.tile k = s.tile k) ∧
      (∀ k, v.core k = s.core k) ∧ ∀ a, v.byte a = s.byte a
    (∀ (o : TileOp) (r : List TileOp), t.busyOp = none → t.queue = o :: r →
      (o.kind = .mfence → only (.tileOpStart q) { t with
        queue := (match s.unitOf q with
          | none => r
          | some u => r.map fun o => { o with seen := o.seen.map fun _ => u.hist.length }),
        busyOp := some o, fin := true }) ∧
      (o.kind = .mtrue → only (.tileOpStart q) { t with queue := r, busyOp := some o, fin := t.wdrn }) ∧
      (o.kind = .capture → only (.tileOpStart q) (Tile.capture { t with queue := r })) ∧
      (o.kind = .restore → only (.tileOpStart q) (Tile.restore { t with queue := r })) ∧
      (∀ id clr, o.kind = .query id 1 clr → Completes (.tileOpStart q) s fun v =>
        v.tile q = { t with queue := r, sat := if clr then false else t.sat } ∧ v.core q = (s.core q).answer id t.trgtc) ∧
      (∀ k, o.kind = .mcall k → (s.core q).lets o = false ∨ t.lets o = false ∨ s.callOpen q o = true →
        Completes (.tileOpStart q) s fun v => v = s) ∧
      (∀ k, o.kind = .mcall k → o.vc + 18 ≤ (s.core q).vc → t.round = none → t.due = false → t.boot = false →
        s.callOpen q o = false → Undamaged s → s.stale = [] → o.mp.length = 8 →
        (s.entryWord q k).getLsbD 31 = true → ((s.entryWord q k).getLsbD 30 = true → o.sv = true) →
        Completes (.tileOpStart q) s fun v => ∃ R : Routine,
          v.tile q = { t with queue := r, busyOp := some o, run := some R } ∧ R.pc = (s.entryWord q k).toNat % 8192 ∧
          (∀ j : BitVec 4, R.gt j = if j.toNat < 8 then (o.mp[j.toNat]?).getD 0 else 0) ∧ R.sv = o.sv ∧ R.fmt = o.fmt ∧
          R.rnd = o.rnd ∧ R.sat = o.sat ∧ R.ftz = o.ftz ∧ R.info = o.info ∧ R.seed = o.seed ∧ R.loops = [] ∧ R.cells = [])) ∧
    (∀ o, t.busyOp = some o → t.fin = true → Completes (.tileOpComplete q) s fun v =>
      (∃ f, (∀ x ∈ f, x ∈ t.fetched) ∧ v.tile q = { t with busyOp := none, fin := false, fetched := f }) ∧
      (v.core q).gtl 2 = BitVec.ofNat 64 o.num ∧
      (∀ k, k ≠ 2 → (v.core q).gtl k = (s.core q).gtl k) ∧ ∀ a, v.byte a = s.byte a) ∧
    only (.truingIntervalExpiry q) (if t.wdrn = false ∧ t.round = none ∧ t.intv.toNat * 1000000 ≤ (s.gtc - t.trgtc).toNat
      then { t with due := true } else t) ∧
    (∀ x : BitVec 16,
      (t.inRound = false → t.wdrn = false →
        only (.tempUpdate q x) { t with tnow := x, due := t.due || decide (t.dtemp.toNat < (x.toInt - t.tlast.toInt).natAbs) }) ∧
      (t.inRound = true ∨ t.wdrn = true → only (.tempUpdate q x) { t with tnow := x })) ∧
    (t.inRound = true ↔ t.round ≠ none ∨ ∃ b, t.ballast = some b ∧ b.arrs ≠ 0) ∧
    (t.due = true ∨ t.boot = true ∨ t.asked = true → t.run = none → t.round = none →
      only (.truingRoundStart q) { t with
        due := false, round := some {
          arr := 0, held := (match t.ballast with | some b => !b.arrs.getLsbD 0 | none => true), temp := t.tnow, mt := t.asked } }) ∧
    (∀ r : Round, t.round = some r → r.held = true → t.ballast = none → r.arr < 4 →
      Completes (.truingRunEnd q true) s fun v =>
        (r.arr < 3 → ∃ h n, (v.tile q).round = some { r with arr := r.arr + 1, held := h, pass := n } ∧
          (t.run = none → h = true) ∧ (∀ o ∈ t.queue, o.num ≤ n)) ∧
        (r.arr = 3 → (v.tile q).round = none ∧ (v.tile q).tlast = r.temp ∧ (v.tile q).trgtc = s.gtc ∧ (v.tile q).wdrn = false ∧
          (v.tile q).boot = false ∧ (v.tile q).fin = (t.fin || r.mt) ∧ (v.tile q).due = (v.tile q).tempDue) ∧
        (v.tile q).done = t.done ||| (1#4 <<< r.arr) ∧ (v.tile q).acc = t.acc ∧
        (∀ w, w < 3584 → (v.tile q).trim r.arr w = Config.trimMeasured s.tick r.arr w) ∧
        (∀ k, k ≠ q → v.tile k = s.tile k) ∧ ∀ a, v.byte a = s.byte a) ∧
    (t.ainc = true → t.word.toNat < 3583 → only (.trdataRead q) { t with word := t.word + 1 }) ∧
    (t.ainc = false → only (.trdataRead q) t ∧
      ∀ x : BitVec 32, only (.trdataWrite q x) (t.setTrim t.arr.toNat t.word.toNat x))

/-! ### Engines, streams and memories (09 R254, R259, R263; 10 R269, R279, R287, R292, R294; 18 R428, R432) -/

/-- Engine operations, collectives, messages and signals complete; streams, lines, walks, memories and parity advance. That
a peer's posted contribution takes part as a local member's does, and is waited for, is the model's reading (DEDUCED, log
entry 57). -/
def Obligations.EngineAndMemorySteps : Prop :=
  ∀ (s : State) (p q i : Nat),
    let c := s.core p
    let x := c.port q
    let clean := Undamaged s ∧ s.torn = [] ∧ s.err.lost = 0
    -- an operation that has nothing left completes
    (∀ (e : Nat) (o : EngOp) (r : List EngOp), e = 0 ∨ e = 1 ∨ e = 3 → c.engOps e = o :: r → o.sub = 15 →
      Completes (.engineOpComplete p e) s fun t => (t.core p).engOps e = r ∧ (t.core p).gtl e = BitVec.ofNat 64 o.num ∧
        (∀ k, k ≠ p → t.core k = s.core k) ∧ ∀ a, t.byte a = s.byte a) ∧
    -- a collective
    (∀ z : Coll, s.colls[i]? = some z → z.peer = none →
      let g := s.colls.filter (s.sameColl z)
      let byRank := (seqFrom 0 z.nm).filterMap fun r => g.find? fun y => y.rank == r && s.collHome y == z.entry r
      (∀ y ∈ g, y.valid = true ∧ z.agrees y = true ∧ y.ceBad = false ∧ z.nm ≤ y.nm) →
      (g.length < z.nm → Completes (.collComplete i) s fun t => t = s) ∧
      (z.nm ≤ g.length → byRank.length = z.nm → s.ctl.hnext = none → Completes (.collComplete i) s fun t => t = byRank.foldl (fun s y =>
        if y.peer.isSome then s.endColl y else
        let r := (s.flush (.core y.agent) true).collWrite y (y.result byRank).1 (y.result byRank).2
        match r.2 with
        | some f => (r.1.endColl y).report y.agent ((r.1.endColl y).engRec y.agent y.sv f true 0)
        | none => r.1.endColl y) s)) ∧
    -- a message enters its target's queue
    (∀ m : InMesh, s.mesh = [m] → m.sender ≠ m.target → s.primary m.target ≠ m.sender → s.mayDeliver m = true →
      (s.core m.target).recvq.length < 16 → Completes (.messageDelivered 0) s fun t => t.mesh = [] ∧
        (t.core m.target).recvq = (s.core m.target).recvq ++ [{ sender := m.sender, bytes := m.bytes, cls := m.cls }] ∧
        { t.core m.target with recvq := (s.core m.target).recvq } = s.core m.target ∧ ∀ a, t.byte a = s.byte a) ∧
    -- a signal takes effect
    (∀ g : InSig, s.sigs = [g] → g.due = none → g.k = 8 ∨ s.maySignal g.sender g.pos none = true →
      Completes (.tlsigEffect 0) s fun t => t.sigs = [] ∧
        (∀ k, k ≠ g.target → { t.core k with released := (s.core k).released } = s.core k) ∧
        (∀ k, ((t.core k).released.map fun e => { e with passed := none }) =
          (s.core k).released.map fun e => { e with passed := none }) ∧
        (g.k = 8 → (t.core g.target).evt = (s.core g.target).evt ||| 0x10) ∧
        (g.k ≠ 8 → (t.core g.target).gtl g.k = if ((s.core g.target).gtl g.k).toNat < g.val.toNat then g.val else (s.core g.target).gtl g.k) ∧
        ∀ a, t.byte a = s.byte a) ∧
    -- lines and walks
    (NonePassed s → s.fillOf p (i / 64) ≠ 2 → Completes (.lineFill p i) s fun t => t = s) ∧
    (∀ w, NonePassed s → s.fillOf p (i / 64) = 2 → s.ctl.hnext = none →
      (s.fillLine p (i / 64) = (w, none) → Completes (.lineFill p i) s fun t => t = w ∧
        ((s.regionAt p (64 * (i / 64))).isSome = true → t.fillOf p (i / 64) = 1)) ∧
      ∀ f, s.fillLine p (i / 64) = (w, some f) →
        Completes (.lineFill p i) s fun t => t = w.setFill p (i / 64) 4 ∧ t.fillOf p (i / 64) = 4) ∧
    (∀ va : BitVec 56, Completes (.pageWalk i va) s fun t => t = (s.walk i va.toNat).1) ∧
    -- streams: some bytes of an element at a time (11 R302)
    (let a := x.addr (x.pos + x.ahead.length)
     let n : Nat := 2 ^ x.lsz
     x.bound = true → x.write = false → x.ahead.length < 512 → x.lsz < 3 → x.part.length < n → NonePassed s → 0 ≤ a → a + (n : Int) ≤ 0x800000 → a % (n : Int) = 0 →
     Undamaged s → p < 288 → s.vaultGone (vaultAddr p a.toNat) = false → (∀ l ∈ linesIn a.toNat n, s.unfilled p l = false) →
      Completes (.streamReadAhead p q) s fun t => ((t.core p).port q).pos = x.pos ∧ (∀ b, t.byte b = s.byte b) ∧
        ∃ k, 0 < k ∧ k ≤ n - x.part.length ∧
          let got := x.part ++ (s.bytes (vaultAddr p (a.toNat + x.part.length)) k).map fun b => (b, 0)
          (got.length < n → ((t.core p).port q).part = got ∧ ((t.core p).port q).ahead = x.ahead) ∧
          (got.length = n → ((t.core p).port q).part = [] ∧ ((t.core p).port q).ahead = x.ahead ++
            [(a.toNat, BitVec.ofNat 32 (leNat (got.map (·.1))), (got.map (·.2)).foldl max 0)])) ∧
    (∀ (a : Nat) (v : Lane) (k : Nat) (r : List (Nat × Lane × Nat)), let n : Nat := 2 ^ x.lsz
     x.bound = true → x.write = true → x.lsz < 3 → x.ahead = (a, v, k) :: r → a % n = 0 → a + n ≤ regionTable →
     x.part.length < n → c.late = [] → NonePassed s →
     Undamaged s → p < 288 → s.vaultGone (vaultAddr p a) = false → (∀ l ∈ linesIn a n, s.unfilled p l = false) →
      Completes (.streamWriteDrain p q) s fun t => ∃ k, 0 < k ∧ k ≤ n - x.part.length ∧
        let lo := x.part.length
        (lo + k < n → ((t.core p).port q).part = x.part ++ List.replicate k (0, 0) ∧ ((t.core p).port q).ahead = x.ahead) ∧
        (lo + k = n → ((t.core p).port q).part = [] ∧ ((t.core p).port q).ahead = r) ∧
        (∀ j, lo ≤ j → j < lo + k → t.byte (vaultAddr p a + j) = v.extractLsb' (8 * j) 8) ∧
        ∀ b, (b < vaultAddr p a + lo ∨ vaultAddr p a + lo + k ≤ b) → t.byte b = s.byte b) ∧
    -- HBM accesses of other parties
    (∀ (d : List Byte) (lc : Option (BitVec 4)), clean → d ≠ [] → s.inHbm (i + d.length - 1) = true →
      i / 64 = (i + d.length - 1) / 64 →
      let writes := fun (j : Instr) => Completes j s fun t => (∀ k, (h : k < d.length) → t.byte (i + k) = d[k]) ∧
        ∀ b, b < parityAddr 0 0 → (b < i ∨ i + d.length ≤ b) → t.byte b = s.byte b
      writes (.hbmWrite i d lc) ∧ writes (.hostMemAccess true i d) ∧
      Completes (.hbmRead i) s (fun t => ∀ b, t.byte b = s.byte b) ∧
      Completes (.hostMemAccess false i d) s (fun t => (∀ b, t.byte b = s.byte b) ∧
        t.ctl.answer = (s.bytes i d.length).map fun b => (b, if s.err.viral then 4 else 0))) ∧
    -- parity
    (∀ (e : JEntry) (r : List JEntry), SMap.get s.journal [] i = e :: r → e.delta.length = 64 →
      let a := parityAddr e.stripe (64 * e.sector)
      Completes (.parityUpdate i) s fun t => SMap.get t.journal [] i = r ∧
        (∀ k, (h : k < e.delta.length) → t.byte (a + k) = s.byte (a + k) ^^^ e.delta[k]) ∧
        ∀ b, (b < a ∨ a + 64 ≤ b) → t.byte b = s.byte b) ∧
    -- the loss of a stack
    (i < 12 → s.stackLost i = false → s.err.act = false → (∀ k, (s.core k).released = []) →
      Completes (.stackLost i) s fun t => t.stackLost i = true ∧ ∀ k, k ≠ i → t.stackLost k = s.stackLost k)

/-! ### The fabric and register writes (09 R257; 13 R345 to R361; 16 R409, R410; 19 R450, R457) -/

/-- Ports, links, flits and peers; and what a party's register writes do when the party may make them. Of the model's own
are: how many flits a good one acknowledges (log entry 74); the size of an incoming atomic (DESIGN CHOICE, log entry 48)
and the admission of a collective's contribution whatever its size (DEDUCED, log entry 57). Ports that make no link leave
VAL as it is (DEDUCED, log entry 131): nothing is said of them here. -/
def Obligations.FabricAndRegisterSteps : Prop :=
  ∀ (s : State) (party : BitVec 2) (k : Nat) (v : Word),
    let f := s.fab
    let onlyFab := fun (t : State) => { t with fab := s.fab } = s
    -- ports and links
    (∀ st : BitVec 2, k < 72 → s.portAbsent k = false → (f.port k).state ≠ st → st ≠ 3 → s.snap.evsel = 0 →
      Completes (.portStateChange k st) s fun t => (t.fab.port k) = { f.port k with state := st } ∧
        (∀ j, j ≠ k → t.fab.port j = f.port j) ∧ onlyFab t) ∧
    (k < 72 → (f.link k).val = true →
      Completes (.flitReceived k (f.link k).rx false) s (fun t =>
        (∃ n, t.fab.link k = { f.link k with
          kept := (f.link k).kept.drop n, rx := (f.link k).rx + 1, got := (f.link k).got + 1, ask := none }) ∧
        ∀ j, j ≠ k → t.fab.link j = f.link j) ∧
      ∀ n, Completes (.flitReceived k n true) s fun t => t.fab.link k = { f.link k with ask := some (f.link k).rx }) ∧
    (k < 72 → (f.port k).member = true →
      ((∃ i, i < 72 ∧ i ≠ k ∧ (f.port i).member = true ∧ (f.port i).link = (f.port k).link) ∨ NothingOut s) →
      Completes (.portShed k) s fun t =>
        t.fab.port k = { f.port k with state := 0, member := false } ∧ ∀ j, j ≠ k → t.fab.port j = f.port j) ∧
    (∀ key : BitVec 24, k < 511 → NothingOut s → Completes (.viralFlitReceived k key) s fun t => (t.fab.peer k).val = false ∧
      (∀ j, j ≠ k → t.fab.peer j = f.peer j) ∧
      ∀ j, j < 64 → t.fab.key j = if (f.key j).key = key then { f.key j with val := false } else f.key j) ∧
    -- an access of a peer that no key admits is logged; an admitted write is made
    (∀ (key : BitVec 24) (right : BitVec 2) (off : BitVec 41) (d : List Byte),
      let n := if right = 3 then 0 else if right = 2 then (incomingAtom d).size else d.length
      (f.admits key right.toNat off.toNat n = false → Completes (.incomingAccess k key right off d) s fun t =>
        t = s.log { kind := 0x0D, sev := 5, flags := flagHost, detail := linkDetail 0 (f.peer k).link.toNat k 3 }) ∧
      (right = 1 → f.admits key 1 off.toNat d.length = true → Undamaged s → s.torn = [] → s.err.lost = 0 → d ≠ [] →
        s.inHbm (off.toNat + d.length - 1) = true → off.toNat / 64 = (off.toNat + d.length - 1) / 64 →
        Completes (.incomingAccess k key right off d) s fun t =>
          (∀ j, (h : j < d.length) → t.byte (off.toNat + j) = d[j]) ∧
          ∀ b, b < parityAddr 0 0 → (b < off.toNat ∨ off.toNat + d.length ≤ b) → t.byte b = s.byte b)) ∧
    -- register writes
    (s.noParty party.toNat = false → s.rstBusy = false →
      (let j := v.toNat % 8
       let e := s.ctl.owner j
       let nw := v.toNat / 256 % 4
       let ok := e = v.toNat / 16 % 4 ∧ (nw = 0 ∨ nw = party.toNat)
       Completes (.semcas party v) s fun t => { t with ctl := s.ctl } = s ∧
         t.ctl.owner j = (if ok then nw else e) ∧ (∀ m, m ≠ j → t.ctl.owner m = s.ctl.owner m) ∧
         (t.ctl.res party.toNat).ok = decide ok ∧ (t.ctl.res party.toNat).seen.toNat = e) ∧
      (s.ctl.mayWrite party.toNat = true →
        (∀ m : BitVec 2, m ≠ 3 → (m = 0 ∨ s.xmask.getLsbD 1 = true) → Completes (.hrouteWrite party m) s fun t =>
          t.ctl.hnext = some m ∧ { t.ctl with hnext := s.ctl.hnext, hcuts := s.ctl.hcuts } = s.ctl ∧
          { t with ctl := s.ctl } = s) ∧
        (∀ b, k < 72 → s.snap.evsel = 0 →
          let mine := (List.range 72).filter fun j => !s.portAbsent j && (f.port j).link.toNat == k
          mine ≠ [] → (∀ j ∈ mine, 2 ≤ (f.port j).state.toNat) →
          b = false ∨ (mine.length ≤ 8 ∧ ((∀ j ∈ mine, j < 36) ∨ ∀ j ∈ mine, 36 ≤ j)) →
          Completes (.linkForm party k b) s fun t => (t.fab.link k).val = b ∧ (∀ j, j ≠ k → t.fab.link j = f.link j) ∧
            (∀ j, j < 72 → t.fab.port j = if j ∈ mine then { f.port j with member := b } else f.port j) ∧ onlyFab t) ∧
        (s.ctl.tigo = false → v.getLsbD 31 = true → Completes (.tictlGo party v) s fun t => t.ctl.tigo = true ∧
          t.ctl.tiall = v.getLsbD 16 ∧ t.ctl.tictx.toNat = v.toNat / 256 % 16 ∧
          (12 ≤ v.toNat % 64 → v.toNat % 64 ≤ 56 → t.ctl.tilsz.toNat = v.toNat % 64) ∧ { t with ctl := s.ctl } = s) ∧
        (∀ m : BitVec 12, k < 8 → 800 ≤ m.toNat → m.toNat ≤ 2200 → m.toNat % 100 = 0 →
          Completes (.freqSet party k m) s fun t => t.heat k = { s.heat k with setf := m, cur := m } ∧
            (∀ j, j ≠ k → t.heat j = s.heat j) ∧ ∀ a, t.byte a = s.byte a) ∧
        (s.ptp.pend = false → Completes (.ptpCommit party) s fun t => { t with ptp := s.ptp } = s ∧
          (s.gtc.toNat < s.ptp.sat.toNat → t.ptp = { s.ptp with pend := true }) ∧
          (s.ptp.sat.toNat ≤ s.gtc.toNat → t.ptp = { s.ptp with
            valid := true, gtcb := s.ptp.sgtcb, ptpb := s.ptp.sptpb, rate := s.ptp.srate })) ∧
        (∀ d : BitVec 3, s.offline d.toNat = false → (∀ r ∈ s.units, ∀ m ∈ r.members, m / 36 ≠ d.toNat) →
          Completes (.doffreq party d) s fun t => t.offline d.toNat = true ∧ t.err.dcause = 1 ∧
            t.err.dabr = s.err.dabr ∧ SameUnits s t) ∧
        (s.err.viral = false → Completes (.vforce party) s fun t => t.err.viral = true ∧ t.err.vsignal = true) ∧
        (s.ctl.jbusy = false → Completes (.registerWrite party 0x400000 (toBytes 8 v.toNat)) s fun t =>
          t = { s with ctl := { s.ctl with jimg := v &&& 0x000FFFFFFFFFFFC0 } })) ∧
      (s.snap.en.getLsbD 4 = true → s.snap.armed = true → Completes (.snaphwTrig party) s fun t =>
        t.snap.armed = false ∧ t.snap.trig = true ∧ t.snap.src = 4 ∧ t.snap.stamp = s.gtc))

/-! ### Time, power, heat and resets (05 R147; 13 R356 to R365; 19 R449 to R461) -/

/-- Time triggers, snapshots, power and heat, telemetry, invalidations, dies going offline, and the resets. Of the model's
own are: the sums of an interval are cleared with telemetry off as well (DEDUCED, log entry 90); the emergency goes on
lowering the clock between 2,200 and 2,400 W (DEDUCED, log entry 78); a step of CUR starts a dwell of its own, which is no
thermal change (log entry 87). -/
def Obligations.DeviceSteps : Prop :=
  ∀ (s : State) (party : BitVec 2) (d : Nat) (t16 : BitVec 16),
    let recorded := fun (src : BitVec 4) (t : State) =>
      t.snap.armed = false ∧ t.snap.trig = true ∧ t.snap.src = src ∧ t.snap.stamp = s.gtc ∧ ∀ a, t.byte a = s.byte a
    let h := s.heat d
    (∀ p, (s.core p).armed = true → (s.core p).evgtc.toNat ≤ s.gtc.toNat → Completes (.gtcMatch p) s fun t =>
      (t.core p).evt = (s.core p).evt ||| 2 ∧ (t.core p).armed = false ∧ (∀ q, q ≠ p → t.core q = s.core q) ∧
      { t.core p with evt := (s.core p).evt, armed := true } = s.core p) ∧
    (s.ptp.pend = true → s.ptp.sat.toNat ≤ s.gtc.toNat → Completes .ptpCommitApply s fun t =>
      t = { s with ptp := { s.ptp with
        valid := true, pend := false, gtcb := s.ptp.sgtcb, ptpb := s.ptp.sptpb, rate := s.ptp.srate } }) ∧
    (s.snap.armed = true → s.snap.en.getLsbD 2 = true → Completes .snapshotPin s (recorded 2)) ∧
    (s.snap.armed = true → s.snap.en.getLsbD 3 = true → s.snap.hit = false → s.snap.cmp.toNat ≤ s.gtc.toNat →
      Completes .snapshotGtcMatch s fun t => recorded 3 t ∧ t.snap.hit = true) ∧
    (s.snap.trig = true → Completes .snapshotLatch s fun t => t.snap.trig = false ∧ t.snap.fresh = true ∧
      t.snap.latch = s.gtc ∧
      (∀ k, k < 620 → ∀ j, (h : j < (s.snapRecord k).length) → t.byte (snapAddr (64 * k) + j) = (s.snapRecord k)[j]) ∧
      (∀ a, a < snapAddr 0 → t.byte a = s.byte a) ∧ ∀ q, t.core q = s.core q) ∧
    (Completes .powerEstimate s fun t => 80000 ≤ t.pow.pest ∧ t.pow.psum = s.pow.psum + t.pow.pest ∧ t.pow.nest = s.pow.nest + 1 ∧
      t.pow.pmax = max s.pow.pmax t.pow.pest ∧ t.pow.counts = [] ∧ t.pow.fillc = [] ∧ ∀ a, t.byte a = s.byte a) ∧
    (s.pow.emerg = true → (∀ k, k < 8 → 900 ≤ (s.heat k).cur.toNat) → Completes .powerEmergencyStep s fun t =>
      ∀ k, k < 8 → (t.heat k).cur = (s.heat k).cur - 100) ∧
    (Completes .telemetryRecord s fun t => t.pow.nest = 0 ∧ t.pow.psum = 0 ∧
      (s.pow.telen = false → t.pow.telhead = s.pow.telhead) ∧
      (s.pow.telen = true → s.ctl.hnext = none → t.pow.telhead = s.pow.telhead + 1)) ∧
    -- a reading of the hottest sensor: one gear, or at gear 3 one step of the clock, for each dwell of 2 ms
    (d < 8 → t16.toInt < 880 →
      let now := s.gtc.toNat
      let dwell := fun (l : Option Nat) => ∃ k, l = some k ∧ now - k < 2000000
      let x := { h with temp := t16 }
      let gives := fun (h' : Heat) => Completes (.thermalStep d t16) s fun t =>
        t.heat d = h' ∧ ∀ k, k ≠ d → t.heat k = s.heat k
      let hot := h.thi.toInt ≤ t16.toInt
      let cool := ¬ hot ∧ t16.toInt ≤ h.tlo.toInt
      let slow := h.thg = 3 ∧ h.cur.toNat < h.setf.toNat
      (dwell h.last → gives x) ∧
      (¬ dwell h.last →
        (hot → h.thg.toNat < 3 → gives { x with thg := h.thg + 1, last := some now }) ∧
        (hot → h.thg = 3 → dwell h.lastf → gives { x with thot := true }) ∧
        (hot → h.thg = 3 → ¬ dwell h.lastf → gives { x with
          thot := true, lastf := some now, cur := if 900 ≤ h.cur.toNat then h.cur - 100 else 800 }) ∧
        (¬ hot → ¬ cool → gives x) ∧
        (cool → slow → dwell h.lastf → gives x) ∧
        (cool → slow → ¬ dwell h.lastf →
          gives { x with cur := BitVec.ofNat 12 (min h.setf.toNat (h.cur.toNat + 100)), lastf := some now }) ∧
        (cool → ¬ slow → h.thg ≠ 0 → gives { x with thg := h.thg - 1, last := some now }) ∧
        (cool → h.thg = 0 → gives x))) ∧
    (s.ctl.tigo = true → s.tiQuiet = true → Completes .invalidationComplete s fun t => t.ctl.tigo = false ∧
      (∀ e, let b := e.base / 2 ^ e.pageLsz * 2 ^ e.pageLsz
        e ∈ t.tcache ↔ e ∈ s.tcache ∧ ¬ (s.ctl.tiNames e.ctx = true ∧ b < s.ctl.tiRange.1 + s.ctl.tiRange.2 ∧
          s.ctl.tiRange.1 < b + 2 ^ e.pageLsz)) ∧ { t with ctl := s.ctl, tcache := s.tcache } = s) ∧
    -- dies going offline: orderly from online, abruptly also from orderly offline
    (d < 8 → (∀ r ∈ s.units, ∀ m ∈ r.members, m / 36 ≠ d) → s.vwrites = [] →
      let off := fun (i : Instr) (cause : BitVec 4) (abrupt : Bool) => Completes i s fun t => t.offline d = true ∧
        t.err.dcause = cause ∧ t.err.dabr = (if abrupt then s.err.dabr ||| (1#8 <<< d) else s.err.dabr) ∧ SameUnits s t ∧
        t.err.viral = s.err.viral
      (s.offline d = false → off (.dieOfflineTimeout d false) 4 false ∧
        (880 ≤ t16.toInt → t16.toInt < 920 → off (.thermalStep d t16) 3 false)) ∧
      (s.err.dabr.getLsbD d = false → off (.dieOfflineTimeout d true) 5 true ∧ off (.railFault d) 6 true ∧
        (920 ≤ t16.toInt → off (.thermalStep d t16) 6 true))) ∧
    -- resets
    (let cold := fun (t : State) => t.units = [] ∧ t.ctxs = [] ∧ t.hubq = [] ∧ t.rstLast = 2 ∧ t.fuse = s.fuse ∧
       t.gtc = 0 ∧ ∀ p, (t.core p).pend = [] ∧ (∀ r, (t.core p).gs r = 0) ∧ (t.core p).unit = none
     Completes .resetPin s cold ∧ Completes .powerOn s cold ∧
     (s.noParty party.toNat = false → s.rstBusy = false → s.ctl.mayWrite party.toNat = true → Completes (.coldReset party) s cold ∧
       Completes (.warmReset party) s fun t => t.units = [] ∧ t.ctxs = [] ∧ t.hubq = [] ∧ t.rstLast = 1 ∧ t.fuse = s.fuse ∧
         t.gtc = s.gtc ∧ (∀ p, (t.core p).pend = [] ∧ (∀ r, (t.core p).gs r = 0)) ∧
         ∀ a, a < 0x10000000000000 → t.byte a = s.byte a))
end

