-- ==== Sys2Proof/Laws/Maps.lean ====
section
/-! SUPPORT. Laws of sparse maps and of stored bytes: reading after writing, and the canonical form that
every operation keeps. -/

namespace Sys2Proof.Machine

open Sys2Proof

variable {α : Type}

/-! ### Reading -/

@[simp] theorem SMap.get_nil (d : α) (k : Nat) : SMap.get ([] : SMap α) d k = d := rfl

@[simp] theorem SMap.get_cons (j : Nat) (x : α) (r : SMap α) (d : α) (k : Nat) :
    SMap.get ((j, x) :: r) d k = if j = k then x else SMap.get r d k := rfl

theorem SMap.get_filter_self (m : SMap α) (d : α) (k : Nat) : SMap.get (m.filter fun e => e.1 != k) d k = d := by
  induction m with
  | nil => rfl
  | cons e r ih =>
    obtain ⟨j, x⟩ := e
    by_cases h : j = k <;> simp [h, ih]

theorem SMap.get_filter_other (m : SMap α) (d : α) {j k : Nat} (h : j ≠ k) :
    SMap.get (m.filter fun e => e.1 != k) d j = SMap.get m d j := by
  induction m with
  | nil => rfl
  | cons e r ih =>
    obtain ⟨i, x⟩ := e
    by_cases hi : i = k
    · have : i ≠ j := fun e => h (by omega)
      simp [hi, ih]
      intro hk; exact absurd (by omega) h
    · simp [hi, ih]

theorem SMap.get_ins_other (m : SMap α) (d : α) (k : Nat) (x : α) {j : Nat} (h : j ≠ k) :
    SMap.get (SMap.ins m k x) d j = SMap.get m d j := by
  induction m with
  | nil => simp [SMap.ins, Ne.symm h]
  | cons e r ih =>
    obtain ⟨i, y⟩ := e
    by_cases hk : k < i <;> simp [SMap.ins, hk, ih, Ne.symm h]

theorem SMap.get_ins_self (m : SMap α) (d : α) (k : Nat) (x : α) (h : ∀ e ∈ m, e.1 ≠ k) :
    SMap.get (SMap.ins m k x) d k = x := by
  induction m with
  | nil => simp [SMap.ins]
  | cons e r ih =>
    obtain ⟨i, y⟩ := e
    have hi : i ≠ k := h (i, y) (by simp)
    have hr : ∀ e ∈ r, e.1 ≠ k := fun e he => h e (by simp [he])
    by_cases hk : k < i <;> simp [SMap.ins, hk, ih hr, hi]

variable [DecidableEq α]

/-- Reading the key just written. -/
@[simp] theorem SMap.get_put_self (m : SMap α) (d : α) (k : Nat) (x : α) : SMap.get (SMap.put m d k x) d k = x := by
  unfold SMap.put
  by_cases h : x = d
  · simp only [h, if_true]; exact SMap.get_filter_self m d k
  · simp only [h, if_false]
    exact SMap.get_ins_self _ d k x (by intro e he; simpa using (List.mem_filter.mp he).2)

/-- Writing one key leaves the others, whatever default they are read with. -/
theorem SMap.get_put_other (m : SMap α) (e d : α) {j k : Nat} (x : α) (h : j ≠ k) :
    SMap.get (SMap.put m e k x) d j = SMap.get m d j := by
  unfold SMap.put
  by_cases hx : x = e
  · simp only [hx, if_true]; exact SMap.get_filter_other m d h
  · simp only [hx, if_false]; rw [SMap.get_ins_other _ d k x h, SMap.get_filter_other m d h]

theorem SMap.get_put (m : SMap α) (d : α) (j k : Nat) (x : α) :
    SMap.get (SMap.put m d k x) d j = if j = k then x else SMap.get m d j := by
  by_cases h : j = k
  · subst h; simp
  · simp [h, SMap.get_put_other m d d x h]

/-! ### The canonical form -/

/-- The canonical form as a fact about the list: keys rise, and no entry is the default. -/
theorem SMap.canon_iff (d : α) (m : SMap α) :
    SMap.canon d m = true ↔ m.Pairwise (fun a b => a.1 < b.1) ∧ ∀ e ∈ m, e.2 ≠ d := by
  induction m with
  | nil => simp [SMap.canon]
  | cons e r ih =>
    obtain ⟨j, x⟩ := e
    cases r with
    | nil => simp [SMap.canon]
    | cons f r =>
      obtain ⟨k, y⟩ := f
      simp only [SMap.canon, Bool.and_eq_true, decide_eq_true_eq, ih, List.pairwise_cons, List.mem_cons,
        forall_eq_or_imp]
      constructor
      · rintro ⟨⟨h1, h2⟩, ⟨h3, h4⟩, h5, h6⟩
        exact ⟨⟨⟨h2, fun e he => lt_trans h2 (h3 e he)⟩, h3, h4⟩, h1, h5, h6⟩
      · rintro ⟨⟨⟨h2, _⟩, h3, h4⟩, h1, h5, h6⟩
        exact ⟨⟨h1, h2⟩, ⟨h3, h4⟩, h5, h6⟩

theorem SMap.mem_ins {m : SMap α} {k : Nat} {x : α} {e : Nat × α} :
    e ∈ SMap.ins m k x ↔ e = (k, x) ∨ e ∈ m := by
  induction m with
  | nil => simp [SMap.ins]
  | cons f r ih =>
    obtain ⟨i, y⟩ := f
    by_cases hk : k < i <;> simp [SMap.ins, hk, ih]
    tauto

/-- Removing entries keeps the form. -/
theorem SMap.canon_filter {d : α} {m : SMap α} (f : Nat × α → Bool) (h : SMap.canon d m = true) :
    SMap.canon d (m.filter f) = true := by
  rw [SMap.canon_iff] at h ⊢
  exact ⟨h.1.filter f, fun e he => h.2 e (List.mem_filter.mp he).1⟩

theorem SMap.canon_ins {d : α} {m : SMap α} {k : Nat} {x : α} (h : SMap.canon d m = true) (hx : x ≠ d)
    (hk : ∀ e ∈ m, e.1 ≠ k) : SMap.canon d (SMap.ins m k x) = true := by
  rw [SMap.canon_iff] at h ⊢
  refine ⟨?_, fun e he => ?_⟩
  · obtain ⟨hp, -⟩ := h
    induction m with
    | nil => simp [SMap.ins]
    | cons f r ih =>
      obtain ⟨i, y⟩ := f
      rw [List.pairwise_cons] at hp
      have hi : i ≠ k := hk (i, y) (by simp)
      by_cases hlt : k < i
      · simp only [SMap.ins, hlt, if_true, List.pairwise_cons]
        refine ⟨fun e he => ?_, hp⟩
        rcases List.mem_cons.mp he with rfl | he
        · exact hlt
        · exact lt_trans hlt (hp.1 e he)
      · simp only [SMap.ins, hlt, if_false, List.pairwise_cons]
        refine ⟨fun e he => ?_, ih (fun e he => hk e (by simp [he])) hp.2⟩
        rcases SMap.mem_ins.mp he with rfl | he
        · show i < k; omega
        · exact hp.1 e he
  · rcases SMap.mem_ins.mp he with rfl | he
    · exact hx
    · exact h.2 e he

/-- Writing keeps the form. -/
theorem SMap.canon_put {d : α} {m : SMap α} (k : Nat) (x : α) (h : SMap.canon d m = true) :
    SMap.canon d (SMap.put m d k x) = true := by
  unfold SMap.put
  by_cases hx : x = d
  · simp only [hx, if_true]; exact SMap.canon_filter _ h
  · simp only [hx, if_false]
    exact SMap.canon_ins (SMap.canon_filter _ h) hx (by intro e he; simpa using (List.mem_filter.mp he).2)

theorem SMap.canon_upd {d : α} {m : SMap α} (k : Nat) (f : α → α) (h : SMap.canon d m = true) :
    SMap.canon d (SMap.upd m d k f) = true := SMap.canon_put k _ h

/-! ### Stored bytes -/

@[simp] theorem State.byte_setByte_self (s : State) (a : Nat) (b : Byte) : (s.setByte a b).byte a = b := by
  simp [State.byte, State.setByte]

theorem State.byte_setByte_other (s : State) {a c : Nat} (b : Byte) (h : c ≠ a) : (s.setByte a b).byte c = s.byte c := by
  simp [State.byte, State.setByte, SMap.get_put_other, h]

/-- A store of bytes leaves every byte outside them. -/
theorem State.byte_setBytes_outside (s : State) (a : Nat) (d : List Byte) {c : Nat} (h : c < a ∨ a + d.length ≤ c) :
    (s.setBytes a d).byte c = s.byte c := by
  induction d generalizing s a with
  | nil => rfl
  | cons b r ih =>
    simp only [List.length_cons] at h
    rw [State.setBytes, ih _ _ (by omega), State.byte_setByte_other _ _ (by omega)]

/-- A store of bytes is read back. -/
theorem State.byte_setBytes_inside (s : State) (a i : Nat) (d : List Byte) (h : i < d.length) :
    (s.setBytes a d).byte (a + i) = d[i] := by
  induction d generalizing s a i with
  | nil => simp at h
  | cons b r ih =>
    rw [State.setBytes]
    cases i with
    | zero => rw [State.byte_setBytes_outside _ _ _ (by omega)]; simp
    | succ i =>
      have := ih (s.setByte a b) (a + 1) i (by simpa using h)
      rw [show a + (i + 1) = a + 1 + i by omega, this]
      simp

theorem State.setByte_wf {s : State} (a : Nat) (b : Byte) (h : Memory.wf s.mem = true) :
    Memory.wf (s.setByte a b).mem = true := SMap.canon_put a b h

theorem State.setBytes_wf {s : State} (a : Nat) (d : List Byte) (h : Memory.wf s.mem = true) :
    Memory.wf (s.setBytes a d).mem = true := by
  induction d generalizing s a with
  | nil => exact h
  | cons b r ih => exact ih (a + 1) (State.setByte_wf a b h)

theorem State.zeroBytes_wf {s : State} (a n : Nat) (h : Memory.wf s.mem = true) :
    Memory.wf (s.zeroBytes a n).mem = true := SMap.canon_filter _ h

theorem State.reset_wf : Memory.wf State.reset.mem = true := rfl

end Sys2Proof.Machine
end

