-- ==== Sys2Proof/Laws/State.lean ====
section
/-! SUPPORT. What each update of the state leaves: one lemma for each field, so that no proof unfolds a
record update; and what a core, a tile or a register reads as after a write. -/

namespace Sys2Proof.Machine

open Sys2Proof

/-! ### Updates of the state -/

@[simp] theorem State.setByte_agenda (s : State) (a : Nat) (b : Byte) : (s.setByte a b).agenda = s.agenda := rfl
@[simp] theorem State.setByte_cur (s : State) (a : Nat) (b : Byte) : (s.setByte a b).cur = s.cur := rfl
@[simp] theorem State.setByte_tick (s : State) (a : Nat) (b : Byte) : (s.setByte a b).tick = s.tick := rfl
@[simp] theorem State.setByte_gtc (s : State) (a : Nat) (b : Byte) : (s.setByte a b).gtc = s.gtc := rfl
@[simp] theorem State.setByte_sect (s : State) (a : Nat) (b : Byte) : (s.setByte a b).sect = s.sect := rfl
@[simp] theorem State.setByte_marks (s : State) (a : Nat) (b : Byte) : (s.setByte a b).marks = s.marks := rfl
@[simp] theorem State.setByte_stale (s : State) (a : Nat) (b : Byte) : (s.setByte a b).stale = s.stale := rfl
@[simp] theorem State.setByte_journal (s : State) (a : Nat) (b : Byte) : (s.setByte a b).journal = s.journal := rfl
@[simp] theorem State.setByte_torn (s : State) (a : Nat) (b : Byte) : (s.setByte a b).torn = s.torn := rfl
@[simp] theorem State.setByte_tcache (s : State) (a : Nat) (b : Byte) : (s.setByte a b).tcache = s.tcache := rfl
@[simp] theorem State.setByte_fuse (s : State) (a : Nat) (b : Byte) : (s.setByte a b).fuse = s.fuse := rfl
@[simp] theorem State.setByte_vmask (s : State) (a : Nat) (b : Byte) : (s.setByte a b).vmask = s.vmask := rfl
@[simp] theorem State.setByte_mmask (s : State) (a : Nat) (b : Byte) : (s.setByte a b).mmask = s.mmask := rfl
@[simp] theorem State.setByte_bmask (s : State) (a : Nat) (b : Byte) : (s.setByte a b).bmask = s.bmask := rfl
@[simp] theorem State.setByte_xmask (s : State) (a : Nat) (b : Byte) : (s.setByte a b).xmask = s.xmask := rfl
@[simp] theorem State.setByte_stepping (s : State) (a : Nat) (b : Byte) : (s.setByte a b).stepping = s.stepping := rfl
@[simp] theorem State.setByte_tandemCap (s : State) (a : Nat) (b : Byte) : (s.setByte a b).tandemCap = s.tandemCap := rfl
@[simp] theorem State.setByte_cores (s : State) (a : Nat) (b : Byte) : (s.setByte a b).cores = s.cores := rfl
@[simp] theorem State.setByte_tiles (s : State) (a : Nat) (b : Byte) : (s.setByte a b).tiles = s.tiles := rfl
@[simp] theorem State.setByte_units (s : State) (a : Nat) (b : Byte) : (s.setByte a b).units = s.units := rfl
@[simp] theorem State.setByte_ctxs (s : State) (a : Nat) (b : Byte) : (s.setByte a b).ctxs = s.ctxs := rfl
@[simp] theorem State.setByte_serial (s : State) (a : Nat) (b : Byte) : (s.setByte a b).serial = s.serial := rfl
@[simp] theorem State.setByte_hubq (s : State) (a : Nat) (b : Byte) : (s.setByte a b).hubq = s.hubq := rfl
@[simp] theorem State.setByte_mesh (s : State) (a : Nat) (b : Byte) : (s.setByte a b).mesh = s.mesh := rfl
@[simp] theorem State.setByte_sigs (s : State) (a : Nat) (b : Byte) : (s.setByte a b).sigs = s.sigs := rfl
@[simp] theorem State.setByte_colls (s : State) (a : Nat) (b : Byte) : (s.setByte a b).colls = s.colls := rfl
@[simp] theorem State.setByte_seqs (s : State) (a : Nat) (b : Byte) : (s.setByte a b).seqs = s.seqs := rfl
@[simp] theorem State.setByte_audits (s : State) (a : Nat) (b : Byte) : (s.setByte a b).audits = s.audits := rfl
@[simp] theorem State.setByte_ctl (s : State) (a : Nat) (b : Byte) : (s.setByte a b).ctl = s.ctl := rfl
@[simp] theorem State.setByte_fab (s : State) (a : Nat) (b : Byte) : (s.setByte a b).fab = s.fab := rfl
@[simp] theorem State.setByte_pow (s : State) (a : Nat) (b : Byte) : (s.setByte a b).pow = s.pow := rfl
@[simp] theorem State.setByte_ptp (s : State) (a : Nat) (b : Byte) : (s.setByte a b).ptp = s.ptp := rfl
@[simp] theorem State.setByte_snap (s : State) (a : Nat) (b : Byte) : (s.setByte a b).snap = s.snap := rfl
@[simp] theorem State.setByte_err (s : State) (a : Nat) (b : Byte) : (s.setByte a b).err = s.err := rfl
@[simp] theorem State.setByte_rstLast (s : State) (a : Nat) (b : Byte) : (s.setByte a b).rstLast = s.rstLast := rfl
@[simp] theorem State.setByte_rstBusy (s : State) (a : Nat) (b : Byte) : (s.setByte a b).rstBusy = s.rstBusy := rfl
@[simp] theorem State.setByte_vwrites (s : State) (a : Nat) (b : Byte) : (s.setByte a b).vwrites = s.vwrites := rfl
@[simp] theorem State.setByte_swr (s : State) (a : Nat) (b : Byte) : (s.setByte a b).swr = s.swr := rfl
@[simp] theorem State.setByte_srd (s : State) (a : Nat) (b : Byte) : (s.setByte a b).srd = s.srd := rfl
@[simp] theorem State.setByte_trial (s : State) (a : Nat) (b : Byte) : (s.setByte a b).trial = s.trial := rfl
@[simp] theorem State.setByte_held (s : State) (a : Nat) (b : Byte) : (s.setByte a b).held = s.held := rfl
@[simp] theorem State.setByte_past (s : State) (a : Nat) (b : Byte) : (s.setByte a b).past = s.past := rfl

@[simp] theorem State.setCore_agenda (s : State) (p : Nat) (c : Core) : (s.setCore p c).agenda = s.agenda := rfl
@[simp] theorem State.setCore_cur (s : State) (p : Nat) (c : Core) : (s.setCore p c).cur = s.cur := rfl
@[simp] theorem State.setCore_tick (s : State) (p : Nat) (c : Core) : (s.setCore p c).tick = s.tick := rfl
@[simp] theorem State.setCore_gtc (s : State) (p : Nat) (c : Core) : (s.setCore p c).gtc = s.gtc := rfl
@[simp] theorem State.setCore_mem (s : State) (p : Nat) (c : Core) : (s.setCore p c).mem = s.mem := rfl
@[simp] theorem State.setCore_sect (s : State) (p : Nat) (c : Core) : (s.setCore p c).sect = s.sect := rfl
@[simp] theorem State.setCore_marks (s : State) (p : Nat) (c : Core) : (s.setCore p c).marks = s.marks := rfl
@[simp] theorem State.setCore_stale (s : State) (p : Nat) (c : Core) : (s.setCore p c).stale = s.stale := rfl
@[simp] theorem State.setCore_journal (s : State) (p : Nat) (c : Core) : (s.setCore p c).journal = s.journal := rfl
@[simp] theorem State.setCore_torn (s : State) (p : Nat) (c : Core) : (s.setCore p c).torn = s.torn := rfl
@[simp] theorem State.setCore_tcache (s : State) (p : Nat) (c : Core) : (s.setCore p c).tcache = s.tcache := rfl
@[simp] theorem State.setCore_fuse (s : State) (p : Nat) (c : Core) : (s.setCore p c).fuse = s.fuse := rfl
@[simp] theorem State.setCore_vmask (s : State) (p : Nat) (c : Core) : (s.setCore p c).vmask = s.vmask := rfl
@[simp] theorem State.setCore_mmask (s : State) (p : Nat) (c : Core) : (s.setCore p c).mmask = s.mmask := rfl
@[simp] theorem State.setCore_bmask (s : State) (p : Nat) (c : Core) : (s.setCore p c).bmask = s.bmask := rfl
@[simp] theorem State.setCore_xmask (s : State) (p : Nat) (c : Core) : (s.setCore p c).xmask = s.xmask := rfl
@[simp] theorem State.setCore_stepping (s : State) (p : Nat) (c : Core) : (s.setCore p c).stepping = s.stepping := rfl
@[simp] theorem State.setCore_tandemCap (s : State) (p : Nat) (c : Core) : (s.setCore p c).tandemCap = s.tandemCap := rfl
@[simp] theorem State.setCore_tiles (s : State) (p : Nat) (c : Core) : (s.setCore p c).tiles = s.tiles := rfl
@[simp] theorem State.setCore_units (s : State) (p : Nat) (c : Core) : (s.setCore p c).units = s.units := rfl
@[simp] theorem State.setCore_ctxs (s : State) (p : Nat) (c : Core) : (s.setCore p c).ctxs = s.ctxs := rfl
@[simp] theorem State.setCore_serial (s : State) (p : Nat) (c : Core) : (s.setCore p c).serial = s.serial := rfl
@[simp] theorem State.setCore_hubq (s : State) (p : Nat) (c : Core) : (s.setCore p c).hubq = s.hubq := rfl
@[simp] theorem State.setCore_mesh (s : State) (p : Nat) (c : Core) : (s.setCore p c).mesh = s.mesh := rfl
@[simp] theorem State.setCore_sigs (s : State) (p : Nat) (c : Core) : (s.setCore p c).sigs = s.sigs := rfl
@[simp] theorem State.setCore_colls (s : State) (p : Nat) (c : Core) : (s.setCore p c).colls = s.colls := rfl
@[simp] theorem State.setCore_seqs (s : State) (p : Nat) (c : Core) : (s.setCore p c).seqs = s.seqs := rfl
@[simp] theorem State.setCore_audits (s : State) (p : Nat) (c : Core) : (s.setCore p c).audits = s.audits := rfl
@[simp] theorem State.setCore_ctl (s : State) (p : Nat) (c : Core) : (s.setCore p c).ctl = s.ctl := rfl
@[simp] theorem State.setCore_fab (s : State) (p : Nat) (c : Core) : (s.setCore p c).fab = s.fab := rfl
@[simp] theorem State.setCore_pow (s : State) (p : Nat) (c : Core) : (s.setCore p c).pow = s.pow := rfl
@[simp] theorem State.setCore_ptp (s : State) (p : Nat) (c : Core) : (s.setCore p c).ptp = s.ptp := rfl
@[simp] theorem State.setCore_snap (s : State) (p : Nat) (c : Core) : (s.setCore p c).snap = s.snap := rfl
@[simp] theorem State.setCore_err (s : State) (p : Nat) (c : Core) : (s.setCore p c).err = s.err := rfl
@[simp] theorem State.setCore_rstLast (s : State) (p : Nat) (c : Core) : (s.setCore p c).rstLast = s.rstLast := rfl
@[simp] theorem State.setCore_rstBusy (s : State) (p : Nat) (c : Core) : (s.setCore p c).rstBusy = s.rstBusy := rfl
@[simp] theorem State.setCore_vwrites (s : State) (p : Nat) (c : Core) : (s.setCore p c).vwrites = s.vwrites := rfl
@[simp] theorem State.setCore_swr (s : State) (p : Nat) (c : Core) : (s.setCore p c).swr = s.swr := rfl
@[simp] theorem State.setCore_srd (s : State) (p : Nat) (c : Core) : (s.setCore p c).srd = s.srd := rfl
@[simp] theorem State.setCore_trial (s : State) (p : Nat) (c : Core) : (s.setCore p c).trial = s.trial := rfl
@[simp] theorem State.setCore_held (s : State) (p : Nat) (c : Core) : (s.setCore p c).held = s.held := rfl
@[simp] theorem State.setCore_past (s : State) (p : Nat) (c : Core) : (s.setCore p c).past = s.past := rfl

@[simp] theorem State.updCore_agenda (s : State) (p : Nat) (f : Core → Core) : (s.updCore p f).agenda = s.agenda := rfl
@[simp] theorem State.updCore_cur (s : State) (p : Nat) (f : Core → Core) : (s.updCore p f).cur = s.cur := rfl
@[simp] theorem State.updCore_tick (s : State) (p : Nat) (f : Core → Core) : (s.updCore p f).tick = s.tick := rfl
@[simp] theorem State.updCore_gtc (s : State) (p : Nat) (f : Core → Core) : (s.updCore p f).gtc = s.gtc := rfl
@[simp] theorem State.updCore_mem (s : State) (p : Nat) (f : Core → Core) : (s.updCore p f).mem = s.mem := rfl
@[simp] theorem State.updCore_sect (s : State) (p : Nat) (f : Core → Core) : (s.updCore p f).sect = s.sect := rfl
@[simp] theorem State.updCore_marks (s : State) (p : Nat) (f : Core → Core) : (s.updCore p f).marks = s.marks := rfl
@[simp] theorem State.updCore_stale (s : State) (p : Nat) (f : Core → Core) : (s.updCore p f).stale = s.stale := rfl
@[simp] theorem State.updCore_journal (s : State) (p : Nat) (f : Core → Core) : (s.updCore p f).journal = s.journal := rfl
@[simp] theorem State.updCore_torn (s : State) (p : Nat) (f : Core → Core) : (s.updCore p f).torn = s.torn := rfl
@[simp] theorem State.updCore_tcache (s : State) (p : Nat) (f : Core → Core) : (s.updCore p f).tcache = s.tcache := rfl
@[simp] theorem State.updCore_fuse (s : State) (p : Nat) (f : Core → Core) : (s.updCore p f).fuse = s.fuse := rfl
@[simp] theorem State.updCore_vmask (s : State) (p : Nat) (f : Core → Core) : (s.updCore p f).vmask = s.vmask := rfl
@[simp] theorem State.updCore_mmask (s : State) (p : Nat) (f : Core → Core) : (s.updCore p f).mmask = s.mmask := rfl
@[simp] theorem State.updCore_bmask (s : State) (p : Nat) (f : Core → Core) : (s.updCore p f).bmask = s.bmask := rfl
@[simp] theorem State.updCore_xmask (s : State) (p : Nat) (f : Core → Core) : (s.updCore p f).xmask = s.xmask := rfl
@[simp] theorem State.updCore_stepping (s : State) (p : Nat) (f : Core → Core) : (s.updCore p f).stepping = s.stepping := rfl
@[simp] theorem State.updCore_tandemCap (s : State) (p : Nat) (f : Core → Core) : (s.updCore p f).tandemCap = s.tandemCap := rfl
@[simp] theorem State.updCore_tiles (s : State) (p : Nat) (f : Core → Core) : (s.updCore p f).tiles = s.tiles := rfl
@[simp] theorem State.updCore_units (s : State) (p : Nat) (f : Core → Core) : (s.updCore p f).units = s.units := rfl
@[simp] theorem State.updCore_ctxs (s : State) (p : Nat) (f : Core → Core) : (s.updCore p f).ctxs = s.ctxs := rfl
@[simp] theorem State.updCore_serial (s : State) (p : Nat) (f : Core → Core) : (s.updCore p f).serial = s.serial := rfl
@[simp] theorem State.updCore_hubq (s : State) (p : Nat) (f : Core → Core) : (s.updCore p f).hubq = s.hubq := rfl
@[simp] theorem State.updCore_mesh (s : State) (p : Nat) (f : Core → Core) : (s.updCore p f).mesh = s.mesh := rfl
@[simp] theorem State.updCore_sigs (s : State) (p : Nat) (f : Core → Core) : (s.updCore p f).sigs = s.sigs := rfl
@[simp] theorem State.updCore_colls (s : State) (p : Nat) (f : Core → Core) : (s.updCore p f).colls = s.colls := rfl
@[simp] theorem State.updCore_seqs (s : State) (p : Nat) (f : Core → Core) : (s.updCore p f).seqs = s.seqs := rfl
@[simp] theorem State.updCore_audits (s : State) (p : Nat) (f : Core → Core) : (s.updCore p f).audits = s.audits := rfl
@[simp] theorem State.updCore_ctl (s : State) (p : Nat) (f : Core → Core) : (s.updCore p f).ctl = s.ctl := rfl
@[simp] theorem State.updCore_fab (s : State) (p : Nat) (f : Core → Core) : (s.updCore p f).fab = s.fab := rfl
@[simp] theorem State.updCore_pow (s : State) (p : Nat) (f : Core → Core) : (s.updCore p f).pow = s.pow := rfl
@[simp] theorem State.updCore_ptp (s : State) (p : Nat) (f : Core → Core) : (s.updCore p f).ptp = s.ptp := rfl
@[simp] theorem State.updCore_snap (s : State) (p : Nat) (f : Core → Core) : (s.updCore p f).snap = s.snap := rfl
@[simp] theorem State.updCore_err (s : State) (p : Nat) (f : Core → Core) : (s.updCore p f).err = s.err := rfl
@[simp] theorem State.updCore_rstLast (s : State) (p : Nat) (f : Core → Core) : (s.updCore p f).rstLast = s.rstLast := rfl
@[simp] theorem State.updCore_rstBusy (s : State) (p : Nat) (f : Core → Core) : (s.updCore p f).rstBusy = s.rstBusy := rfl
@[simp] theorem State.updCore_vwrites (s : State) (p : Nat) (f : Core → Core) : (s.updCore p f).vwrites = s.vwrites := rfl
@[simp] theorem State.updCore_swr (s : State) (p : Nat) (f : Core → Core) : (s.updCore p f).swr = s.swr := rfl
@[simp] theorem State.updCore_srd (s : State) (p : Nat) (f : Core → Core) : (s.updCore p f).srd = s.srd := rfl
@[simp] theorem State.updCore_trial (s : State) (p : Nat) (f : Core → Core) : (s.updCore p f).trial = s.trial := rfl
@[simp] theorem State.updCore_held (s : State) (p : Nat) (f : Core → Core) : (s.updCore p f).held = s.held := rfl
@[simp] theorem State.updCore_past (s : State) (p : Nat) (f : Core → Core) : (s.updCore p f).past = s.past := rfl

@[simp] theorem State.upd_agenda (s : State) (f : Core → Core) : (s.upd f).agenda = s.agenda := rfl
@[simp] theorem State.upd_cur (s : State) (f : Core → Core) : (s.upd f).cur = s.cur := rfl
@[simp] theorem State.upd_tick (s : State) (f : Core → Core) : (s.upd f).tick = s.tick := rfl
@[simp] theorem State.upd_gtc (s : State) (f : Core → Core) : (s.upd f).gtc = s.gtc := rfl
@[simp] theorem State.upd_mem (s : State) (f : Core → Core) : (s.upd f).mem = s.mem := rfl
@[simp] theorem State.upd_sect (s : State) (f : Core → Core) : (s.upd f).sect = s.sect := rfl
@[simp] theorem State.upd_marks (s : State) (f : Core → Core) : (s.upd f).marks = s.marks := rfl
@[simp] theorem State.upd_stale (s : State) (f : Core → Core) : (s.upd f).stale = s.stale := rfl
@[simp] theorem State.upd_journal (s : State) (f : Core → Core) : (s.upd f).journal = s.journal := rfl
@[simp] theorem State.upd_torn (s : State) (f : Core → Core) : (s.upd f).torn = s.torn := rfl
@[simp] theorem State.upd_tcache (s : State) (f : Core → Core) : (s.upd f).tcache = s.tcache := rfl
@[simp] theorem State.upd_fuse (s : State) (f : Core → Core) : (s.upd f).fuse = s.fuse := rfl
@[simp] theorem State.upd_vmask (s : State) (f : Core → Core) : (s.upd f).vmask = s.vmask := rfl
@[simp] theorem State.upd_mmask (s : State) (f : Core → Core) : (s.upd f).mmask = s.mmask := rfl
@[simp] theorem State.upd_bmask (s : State) (f : Core → Core) : (s.upd f).bmask = s.bmask := rfl
@[simp] theorem State.upd_xmask (s : State) (f : Core → Core) : (s.upd f).xmask = s.xmask := rfl
@[simp] theorem State.upd_stepping (s : State) (f : Core → Core) : (s.upd f).stepping = s.stepping := rfl
@[simp] theorem State.upd_tandemCap (s : State) (f : Core → Core) : (s.upd f).tandemCap = s.tandemCap := rfl
@[simp] theorem State.upd_tiles (s : State) (f : Core → Core) : (s.upd f).tiles = s.tiles := rfl
@[simp] theorem State.upd_units (s : State) (f : Core → Core) : (s.upd f).units = s.units := rfl
@[simp] theorem State.upd_ctxs (s : State) (f : Core → Core) : (s.upd f).ctxs = s.ctxs := rfl
@[simp] theorem State.upd_serial (s : State) (f : Core → Core) : (s.upd f).serial = s.serial := rfl
@[simp] theorem State.upd_hubq (s : State) (f : Core → Core) : (s.upd f).hubq = s.hubq := rfl
@[simp] theorem State.upd_mesh (s : State) (f : Core → Core) : (s.upd f).mesh = s.mesh := rfl
@[simp] theorem State.upd_sigs (s : State) (f : Core → Core) : (s.upd f).sigs = s.sigs := rfl
@[simp] theorem State.upd_colls (s : State) (f : Core → Core) : (s.upd f).colls = s.colls := rfl
@[simp] theorem State.upd_seqs (s : State) (f : Core → Core) : (s.upd f).seqs = s.seqs := rfl
@[simp] theorem State.upd_audits (s : State) (f : Core → Core) : (s.upd f).audits = s.audits := rfl
@[simp] theorem State.upd_ctl (s : State) (f : Core → Core) : (s.upd f).ctl = s.ctl := rfl
@[simp] theorem State.upd_fab (s : State) (f : Core → Core) : (s.upd f).fab = s.fab := rfl
@[simp] theorem State.upd_pow (s : State) (f : Core → Core) : (s.upd f).pow = s.pow := rfl
@[simp] theorem State.upd_ptp (s : State) (f : Core → Core) : (s.upd f).ptp = s.ptp := rfl
@[simp] theorem State.upd_snap (s : State) (f : Core → Core) : (s.upd f).snap = s.snap := rfl
@[simp] theorem State.upd_err (s : State) (f : Core → Core) : (s.upd f).err = s.err := rfl
@[simp] theorem State.upd_rstLast (s : State) (f : Core → Core) : (s.upd f).rstLast = s.rstLast := rfl
@[simp] theorem State.upd_rstBusy (s : State) (f : Core → Core) : (s.upd f).rstBusy = s.rstBusy := rfl
@[simp] theorem State.upd_vwrites (s : State) (f : Core → Core) : (s.upd f).vwrites = s.vwrites := rfl
@[simp] theorem State.upd_swr (s : State) (f : Core → Core) : (s.upd f).swr = s.swr := rfl
@[simp] theorem State.upd_srd (s : State) (f : Core → Core) : (s.upd f).srd = s.srd := rfl
@[simp] theorem State.upd_trial (s : State) (f : Core → Core) : (s.upd f).trial = s.trial := rfl
@[simp] theorem State.upd_held (s : State) (f : Core → Core) : (s.upd f).held = s.held := rfl
@[simp] theorem State.upd_past (s : State) (f : Core → Core) : (s.upd f).past = s.past := rfl

@[simp] theorem State.setTile_agenda (s : State) (q : Nat) (t : Tile) : (s.setTile q t).agenda = s.agenda := rfl
@[simp] theorem State.setTile_cur (s : State) (q : Nat) (t : Tile) : (s.setTile q t).cur = s.cur := rfl
@[simp] theorem State.setTile_tick (s : State) (q : Nat) (t : Tile) : (s.setTile q t).tick = s.tick := rfl
@[simp] theorem State.setTile_gtc (s : State) (q : Nat) (t : Tile) : (s.setTile q t).gtc = s.gtc := rfl
@[simp] theorem State.setTile_mem (s : State) (q : Nat) (t : Tile) : (s.setTile q t).mem = s.mem := rfl
@[simp] theorem State.setTile_sect (s : State) (q : Nat) (t : Tile) : (s.setTile q t).sect = s.sect := rfl
@[simp] theorem State.setTile_marks (s : State) (q : Nat) (t : Tile) : (s.setTile q t).marks = s.marks := rfl
@[simp] theorem State.setTile_stale (s : State) (q : Nat) (t : Tile) : (s.setTile q t).stale = s.stale := rfl
@[simp] theorem State.setTile_journal (s : State) (q : Nat) (t : Tile) : (s.setTile q t).journal = s.journal := rfl
@[simp] theorem State.setTile_torn (s : State) (q : Nat) (t : Tile) : (s.setTile q t).torn = s.torn := rfl
@[simp] theorem State.setTile_tcache (s : State) (q : Nat) (t : Tile) : (s.setTile q t).tcache = s.tcache := rfl
@[simp] theorem State.setTile_fuse (s : State) (q : Nat) (t : Tile) : (s.setTile q t).fuse = s.fuse := rfl
@[simp] theorem State.setTile_vmask (s : State) (q : Nat) (t : Tile) : (s.setTile q t).vmask = s.vmask := rfl
@[simp] theorem State.setTile_mmask (s : State) (q : Nat) (t : Tile) : (s.setTile q t).mmask = s.mmask := rfl
@[simp] theorem State.setTile_bmask (s : State) (q : Nat) (t : Tile) : (s.setTile q t).bmask = s.bmask := rfl
@[simp] theorem State.setTile_xmask (s : State) (q : Nat) (t : Tile) : (s.setTile q t).xmask = s.xmask := rfl
@[simp] theorem State.setTile_stepping (s : State) (q : Nat) (t : Tile) : (s.setTile q t).stepping = s.stepping := rfl
@[simp] theorem State.setTile_tandemCap (s : State) (q : Nat) (t : Tile) : (s.setTile q t).tandemCap = s.tandemCap := rfl
@[simp] theorem State.setTile_cores (s : State) (q : Nat) (t : Tile) : (s.setTile q t).cores = s.cores := rfl
@[simp] theorem State.setTile_units (s : State) (q : Nat) (t : Tile) : (s.setTile q t).units = s.units := rfl
@[simp] theorem State.setTile_ctxs (s : State) (q : Nat) (t : Tile) : (s.setTile q t).ctxs = s.ctxs := rfl
@[simp] theorem State.setTile_serial (s : State) (q : Nat) (t : Tile) : (s.setTile q t).serial = s.serial := rfl
@[simp] theorem State.setTile_hubq (s : State) (q : Nat) (t : Tile) : (s.setTile q t).hubq = s.hubq := rfl
@[simp] theorem State.setTile_mesh (s : State) (q : Nat) (t : Tile) : (s.setTile q t).mesh = s.mesh := rfl
@[simp] theorem State.setTile_sigs (s : State) (q : Nat) (t : Tile) : (s.setTile q t).sigs = s.sigs := rfl
@[simp] theorem State.setTile_colls (s : State) (q : Nat) (t : Tile) : (s.setTile q t).colls = s.colls := rfl
@[simp] theorem State.setTile_seqs (s : State) (q : Nat) (t : Tile) : (s.setTile q t).seqs = s.seqs := rfl
@[simp] theorem State.setTile_audits (s : State) (q : Nat) (t : Tile) : (s.setTile q t).audits = s.audits := rfl
@[simp] theorem State.setTile_ctl (s : State) (q : Nat) (t : Tile) : (s.setTile q t).ctl = s.ctl := rfl
@[simp] theorem State.setTile_fab (s : State) (q : Nat) (t : Tile) : (s.setTile q t).fab = s.fab := rfl
@[simp] theorem State.setTile_pow (s : State) (q : Nat) (t : Tile) : (s.setTile q t).pow = s.pow := rfl
@[simp] theorem State.setTile_ptp (s : State) (q : Nat) (t : Tile) : (s.setTile q t).ptp = s.ptp := rfl
@[simp] theorem State.setTile_snap (s : State) (q : Nat) (t : Tile) : (s.setTile q t).snap = s.snap := rfl
@[simp] theorem State.setTile_err (s : State) (q : Nat) (t : Tile) : (s.setTile q t).err = s.err := rfl
@[simp] theorem State.setTile_rstLast (s : State) (q : Nat) (t : Tile) : (s.setTile q t).rstLast = s.rstLast := rfl
@[simp] theorem State.setTile_rstBusy (s : State) (q : Nat) (t : Tile) : (s.setTile q t).rstBusy = s.rstBusy := rfl
@[simp] theorem State.setTile_vwrites (s : State) (q : Nat) (t : Tile) : (s.setTile q t).vwrites = s.vwrites := rfl
@[simp] theorem State.setTile_swr (s : State) (q : Nat) (t : Tile) : (s.setTile q t).swr = s.swr := rfl
@[simp] theorem State.setTile_srd (s : State) (q : Nat) (t : Tile) : (s.setTile q t).srd = s.srd := rfl
@[simp] theorem State.setTile_trial (s : State) (q : Nat) (t : Tile) : (s.setTile q t).trial = s.trial := rfl
@[simp] theorem State.setTile_held (s : State) (q : Nat) (t : Tile) : (s.setTile q t).held = s.held := rfl
@[simp] theorem State.setTile_past (s : State) (q : Nat) (t : Tile) : (s.setTile q t).past = s.past := rfl

@[simp] theorem State.updTile_agenda (s : State) (q : Nat) (f : Tile → Tile) : (s.updTile q f).agenda = s.agenda := rfl
@[simp] theorem State.updTile_cur (s : State) (q : Nat) (f : Tile → Tile) : (s.updTile q f).cur = s.cur := rfl
@[simp] theorem State.updTile_tick (s : State) (q : Nat) (f : Tile → Tile) : (s.updTile q f).tick = s.tick := rfl
@[simp] theorem State.updTile_gtc (s : State) (q : Nat) (f : Tile → Tile) : (s.updTile q f).gtc = s.gtc := rfl
@[simp] theorem State.updTile_mem (s : State) (q : Nat) (f : Tile → Tile) : (s.updTile q f).mem = s.mem := rfl
@[simp] theorem State.updTile_sect (s : State) (q : Nat) (f : Tile → Tile) : (s.updTile q f).sect = s.sect := rfl
@[simp] theorem State.updTile_marks (s : State) (q : Nat) (f : Tile → Tile) : (s.updTile q f).marks = s.marks := rfl
@[simp] theorem State.updTile_stale (s : State) (q : Nat) (f : Tile → Tile) : (s.updTile q f).stale = s.stale := rfl
@[simp] theorem State.updTile_journal (s : State) (q : Nat) (f : Tile → Tile) : (s.updTile q f).journal = s.journal := rfl
@[simp] theorem State.updTile_torn (s : State) (q : Nat) (f : Tile → Tile) : (s.updTile q f).torn = s.torn := rfl
@[simp] theorem State.updTile_tcache (s : State) (q : Nat) (f : Tile → Tile) : (s.updTile q f).tcache = s.tcache := rfl
@[simp] theorem State.updTile_fuse (s : State) (q : Nat) (f : Tile → Tile) : (s.updTile q f).fuse = s.fuse := rfl
@[simp] theorem State.updTile_vmask (s : State) (q : Nat) (f : Tile → Tile) : (s.updTile q f).vmask = s.vmask := rfl
@[simp] theorem State.updTile_mmask (s : State) (q : Nat) (f : Tile → Tile) : (s.updTile q f).mmask = s.mmask := rfl
@[simp] theorem State.updTile_bmask (s : State) (q : Nat) (f : Tile → Tile) : (s.updTile q f).bmask = s.bmask := rfl
@[simp] theorem State.updTile_xmask (s : State) (q : Nat) (f : Tile → Tile) : (s.updTile q f).xmask = s.xmask := rfl
@[simp] theorem State.updTile_stepping (s : State) (q : Nat) (f : Tile → Tile) : (s.updTile q f).stepping = s.stepping := rfl
@[simp] theorem State.updTile_tandemCap (s : State) (q : Nat) (f : Tile → Tile) : (s.updTile q f).tandemCap = s.tandemCap := rfl
@[simp] theorem State.updTile_cores (s : State) (q : Nat) (f : Tile → Tile) : (s.updTile q f).cores = s.cores := rfl
@[simp] theorem State.updTile_units (s : State) (q : Nat) (f : Tile → Tile) : (s.updTile q f).units = s.units := rfl
@[simp] theorem State.updTile_ctxs (s : State) (q : Nat) (f : Tile → Tile) : (s.updTile q f).ctxs = s.ctxs := rfl
@[simp] theorem State.updTile_serial (s : State) (q : Nat) (f : Tile → Tile) : (s.updTile q f).serial = s.serial := rfl
@[simp] theorem State.updTile_hubq (s : State) (q : Nat) (f : Tile → Tile) : (s.updTile q f).hubq = s.hubq := rfl
@[simp] theorem State.updTile_mesh (s : State) (q : Nat) (f : Tile → Tile) : (s.updTile q f).mesh = s.mesh := rfl
@[simp] theorem State.updTile_sigs (s : State) (q : Nat) (f : Tile → Tile) : (s.updTile q f).sigs = s.sigs := rfl
@[simp] theorem State.updTile_colls (s : State) (q : Nat) (f : Tile → Tile) : (s.updTile q f).colls = s.colls := rfl
@[simp] theorem State.updTile_seqs (s : State) (q : Nat) (f : Tile → Tile) : (s.updTile q f).seqs = s.seqs := rfl
@[simp] theorem State.updTile_audits (s : State) (q : Nat) (f : Tile → Tile) : (s.updTile q f).audits = s.audits := rfl
@[simp] theorem State.updTile_ctl (s : State) (q : Nat) (f : Tile → Tile) : (s.updTile q f).ctl = s.ctl := rfl
@[simp] theorem State.updTile_fab (s : State) (q : Nat) (f : Tile → Tile) : (s.updTile q f).fab = s.fab := rfl
@[simp] theorem State.updTile_pow (s : State) (q : Nat) (f : Tile → Tile) : (s.updTile q f).pow = s.pow := rfl
@[simp] theorem State.updTile_ptp (s : State) (q : Nat) (f : Tile → Tile) : (s.updTile q f).ptp = s.ptp := rfl
@[simp] theorem State.updTile_snap (s : State) (q : Nat) (f : Tile → Tile) : (s.updTile q f).snap = s.snap := rfl
@[simp] theorem State.updTile_err (s : State) (q : Nat) (f : Tile → Tile) : (s.updTile q f).err = s.err := rfl
@[simp] theorem State.updTile_rstLast (s : State) (q : Nat) (f : Tile → Tile) : (s.updTile q f).rstLast = s.rstLast := rfl
@[simp] theorem State.updTile_rstBusy (s : State) (q : Nat) (f : Tile → Tile) : (s.updTile q f).rstBusy = s.rstBusy := rfl
@[simp] theorem State.updTile_vwrites (s : State) (q : Nat) (f : Tile → Tile) : (s.updTile q f).vwrites = s.vwrites := rfl
@[simp] theorem State.updTile_swr (s : State) (q : Nat) (f : Tile → Tile) : (s.updTile q f).swr = s.swr := rfl
@[simp] theorem State.updTile_srd (s : State) (q : Nat) (f : Tile → Tile) : (s.updTile q f).srd = s.srd := rfl
@[simp] theorem State.updTile_trial (s : State) (q : Nat) (f : Tile → Tile) : (s.updTile q f).trial = s.trial := rfl
@[simp] theorem State.updTile_held (s : State) (q : Nat) (f : Tile → Tile) : (s.updTile q f).held = s.held := rfl
@[simp] theorem State.updTile_past (s : State) (q : Nat) (f : Tile → Tile) : (s.updTile q f).past = s.past := rfl

@[simp] theorem State.setUnit_agenda (s : State) (r : UnitRec) : (s.setUnit r).agenda = s.agenda := rfl
@[simp] theorem State.setUnit_cur (s : State) (r : UnitRec) : (s.setUnit r).cur = s.cur := rfl
@[simp] theorem State.setUnit_tick (s : State) (r : UnitRec) : (s.setUnit r).tick = s.tick := rfl
@[simp] theorem State.setUnit_gtc (s : State) (r : UnitRec) : (s.setUnit r).gtc = s.gtc := rfl
@[simp] theorem State.setUnit_mem (s : State) (r : UnitRec) : (s.setUnit r).mem = s.mem := rfl
@[simp] theorem State.setUnit_sect (s : State) (r : UnitRec) : (s.setUnit r).sect = s.sect := rfl
@[simp] theorem State.setUnit_marks (s : State) (r : UnitRec) : (s.setUnit r).marks = s.marks := rfl
@[simp] theorem State.setUnit_stale (s : State) (r : UnitRec) : (s.setUnit r).stale = s.stale := rfl
@[simp] theorem State.setUnit_journal (s : State) (r : UnitRec) : (s.setUnit r).journal = s.journal := rfl
@[simp] theorem State.setUnit_torn (s : State) (r : UnitRec) : (s.setUnit r).torn = s.torn := rfl
@[simp] theorem State.setUnit_tcache (s : State) (r : UnitRec) : (s.setUnit r).tcache = s.tcache := rfl
@[simp] theorem State.setUnit_fuse (s : State) (r : UnitRec) : (s.setUnit r).fuse = s.fuse := rfl
@[simp] theorem State.setUnit_vmask (s : State) (r : UnitRec) : (s.setUnit r).vmask = s.vmask := rfl
@[simp] theorem State.setUnit_mmask (s : State) (r : UnitRec) : (s.setUnit r).mmask = s.mmask := rfl
@[simp] theorem State.setUnit_bmask (s : State) (r : UnitRec) : (s.setUnit r).bmask = s.bmask := rfl
@[simp] theorem State.setUnit_xmask (s : State) (r : UnitRec) : (s.setUnit r).xmask = s.xmask := rfl
@[simp] theorem State.setUnit_stepping (s : State) (r : UnitRec) : (s.setUnit r).stepping = s.stepping := rfl
@[simp] theorem State.setUnit_tandemCap (s : State) (r : UnitRec) : (s.setUnit r).tandemCap = s.tandemCap := rfl
@[simp] theorem State.setUnit_cores (s : State) (r : UnitRec) : (s.setUnit r).cores = s.cores := rfl
@[simp] theorem State.setUnit_tiles (s : State) (r : UnitRec) : (s.setUnit r).tiles = s.tiles := rfl
@[simp] theorem State.setUnit_ctxs (s : State) (r : UnitRec) : (s.setUnit r).ctxs = s.ctxs := rfl
@[simp] theorem State.setUnit_serial (s : State) (r : UnitRec) : (s.setUnit r).serial = s.serial := rfl
@[simp] theorem State.setUnit_hubq (s : State) (r : UnitRec) : (s.setUnit r).hubq = s.hubq := rfl
@[simp] theorem State.setUnit_mesh (s : State) (r : UnitRec) : (s.setUnit r).mesh = s.mesh := rfl
@[simp] theorem State.setUnit_sigs (s : State) (r : UnitRec) : (s.setUnit r).sigs = s.sigs := rfl
@[simp] theorem State.setUnit_colls (s : State) (r : UnitRec) : (s.setUnit r).colls = s.colls := rfl
@[simp] theorem State.setUnit_seqs (s : State) (r : UnitRec) : (s.setUnit r).seqs = s.seqs := rfl
@[simp] theorem State.setUnit_audits (s : State) (r : UnitRec) : (s.setUnit r).audits = s.audits := rfl
@[simp] theorem State.setUnit_ctl (s : State) (r : UnitRec) : (s.setUnit r).ctl = s.ctl := rfl
@[simp] theorem State.setUnit_fab (s : State) (r : UnitRec) : (s.setUnit r).fab = s.fab := rfl
@[simp] theorem State.setUnit_pow (s : State) (r : UnitRec) : (s.setUnit r).pow = s.pow := rfl
@[simp] theorem State.setUnit_ptp (s : State) (r : UnitRec) : (s.setUnit r).ptp = s.ptp := rfl
@[simp] theorem State.setUnit_snap (s : State) (r : UnitRec) : (s.setUnit r).snap = s.snap := rfl
@[simp] theorem State.setUnit_err (s : State) (r : UnitRec) : (s.setUnit r).err = s.err := rfl
@[simp] theorem State.setUnit_rstLast (s : State) (r : UnitRec) : (s.setUnit r).rstLast = s.rstLast := rfl
@[simp] theorem State.setUnit_rstBusy (s : State) (r : UnitRec) : (s.setUnit r).rstBusy = s.rstBusy := rfl
@[simp] theorem State.setUnit_vwrites (s : State) (r : UnitRec) : (s.setUnit r).vwrites = s.vwrites := rfl
@[simp] theorem State.setUnit_swr (s : State) (r : UnitRec) : (s.setUnit r).swr = s.swr := rfl
@[simp] theorem State.setUnit_srd (s : State) (r : UnitRec) : (s.setUnit r).srd = s.srd := rfl
@[simp] theorem State.setUnit_trial (s : State) (r : UnitRec) : (s.setUnit r).trial = s.trial := rfl
@[simp] theorem State.setUnit_held (s : State) (r : UnitRec) : (s.setUnit r).held = s.held := rfl
@[simp] theorem State.setUnit_past (s : State) (r : UnitRec) : (s.setUnit r).past = s.past := rfl

@[simp] theorem State.dropUnit_agenda (s : State) (c l u : Nat) : (s.dropUnit c l u).agenda = s.agenda := rfl
@[simp] theorem State.dropUnit_cur (s : State) (c l u : Nat) : (s.dropUnit c l u).cur = s.cur := rfl
@[simp] theorem State.dropUnit_tick (s : State) (c l u : Nat) : (s.dropUnit c l u).tick = s.tick := rfl
@[simp] theorem State.dropUnit_gtc (s : State) (c l u : Nat) : (s.dropUnit c l u).gtc = s.gtc := rfl
@[simp] theorem State.dropUnit_mem (s : State) (c l u : Nat) : (s.dropUnit c l u).mem = s.mem := rfl
@[simp] theorem State.dropUnit_sect (s : State) (c l u : Nat) : (s.dropUnit c l u).sect = s.sect := rfl
@[simp] theorem State.dropUnit_marks (s : State) (c l u : Nat) : (s.dropUnit c l u).marks = s.marks := rfl
@[simp] theorem State.dropUnit_stale (s : State) (c l u : Nat) : (s.dropUnit c l u).stale = s.stale := rfl
@[simp] theorem State.dropUnit_journal (s : State) (c l u : Nat) : (s.dropUnit c l u).journal = s.journal := rfl
@[simp] theorem State.dropUnit_torn (s : State) (c l u : Nat) : (s.dropUnit c l u).torn = s.torn := rfl
@[simp] theorem State.dropUnit_tcache (s : State) (c l u : Nat) : (s.dropUnit c l u).tcache = s.tcache := rfl
@[simp] theorem State.dropUnit_fuse (s : State) (c l u : Nat) : (s.dropUnit c l u).fuse = s.fuse := rfl
@[simp] theorem State.dropUnit_vmask (s : State) (c l u : Nat) : (s.dropUnit c l u).vmask = s.vmask := rfl
@[simp] theorem State.dropUnit_mmask (s : State) (c l u : Nat) : (s.dropUnit c l u).mmask = s.mmask := rfl
@[simp] theorem State.dropUnit_bmask (s : State) (c l u : Nat) : (s.dropUnit c l u).bmask = s.bmask := rfl
@[simp] theorem State.dropUnit_xmask (s : State) (c l u : Nat) : (s.dropUnit c l u).xmask = s.xmask := rfl
@[simp] theorem State.dropUnit_stepping (s : State) (c l u : Nat) : (s.dropUnit c l u).stepping = s.stepping := rfl
@[simp] theorem State.dropUnit_tandemCap (s : State) (c l u : Nat) : (s.dropUnit c l u).tandemCap = s.tandemCap := rfl
@[simp] theorem State.dropUnit_cores (s : State) (c l u : Nat) : (s.dropUnit c l u).cores = s.cores := rfl
@[simp] theorem State.dropUnit_tiles (s : State) (c l u : Nat) : (s.dropUnit c l u).tiles = s.tiles := rfl
@[simp] theorem State.dropUnit_ctxs (s : State) (c l u : Nat) : (s.dropUnit c l u).ctxs = s.ctxs := rfl
@[simp] theorem State.dropUnit_serial (s : State) (c l u : Nat) : (s.dropUnit c l u).serial = s.serial := rfl
@[simp] theorem State.dropUnit_hubq (s : State) (c l u : Nat) : (s.dropUnit c l u).hubq = s.hubq := rfl
@[simp] theorem State.dropUnit_mesh (s : State) (c l u : Nat) : (s.dropUnit c l u).mesh = s.mesh := rfl
@[simp] theorem State.dropUnit_sigs (s : State) (c l u : Nat) : (s.dropUnit c l u).sigs = s.sigs := rfl
@[simp] theorem State.dropUnit_colls (s : State) (c l u : Nat) : (s.dropUnit c l u).colls = s.colls := rfl
@[simp] theorem State.dropUnit_seqs (s : State) (c l u : Nat) : (s.dropUnit c l u).seqs = s.seqs := rfl
@[simp] theorem State.dropUnit_audits (s : State) (c l u : Nat) : (s.dropUnit c l u).audits = s.audits := rfl
@[simp] theorem State.dropUnit_ctl (s : State) (c l u : Nat) : (s.dropUnit c l u).ctl = s.ctl := rfl
@[simp] theorem State.dropUnit_fab (s : State) (c l u : Nat) : (s.dropUnit c l u).fab = s.fab := rfl
@[simp] theorem State.dropUnit_pow (s : State) (c l u : Nat) : (s.dropUnit c l u).pow = s.pow := rfl
@[simp] theorem State.dropUnit_ptp (s : State) (c l u : Nat) : (s.dropUnit c l u).ptp = s.ptp := rfl
@[simp] theorem State.dropUnit_snap (s : State) (c l u : Nat) : (s.dropUnit c l u).snap = s.snap := rfl
@[simp] theorem State.dropUnit_err (s : State) (c l u : Nat) : (s.dropUnit c l u).err = s.err := rfl
@[simp] theorem State.dropUnit_rstLast (s : State) (c l u : Nat) : (s.dropUnit c l u).rstLast = s.rstLast := rfl
@[simp] theorem State.dropUnit_rstBusy (s : State) (c l u : Nat) : (s.dropUnit c l u).rstBusy = s.rstBusy := rfl
@[simp] theorem State.dropUnit_vwrites (s : State) (c l u : Nat) : (s.dropUnit c l u).vwrites = s.vwrites := rfl
@[simp] theorem State.dropUnit_swr (s : State) (c l u : Nat) : (s.dropUnit c l u).swr = s.swr := rfl
@[simp] theorem State.dropUnit_srd (s : State) (c l u : Nat) : (s.dropUnit c l u).srd = s.srd := rfl
@[simp] theorem State.dropUnit_trial (s : State) (c l u : Nat) : (s.dropUnit c l u).trial = s.trial := rfl
@[simp] theorem State.dropUnit_held (s : State) (c l u : Nat) : (s.dropUnit c l u).held = s.held := rfl
@[simp] theorem State.dropUnit_past (s : State) (c l u : Nat) : (s.dropUnit c l u).past = s.past := rfl

@[simp] theorem State.setCtx_agenda (s : State) (c : Nat) (x : Context) : (s.setCtx c x).agenda = s.agenda := rfl
@[simp] theorem State.setCtx_cur (s : State) (c : Nat) (x : Context) : (s.setCtx c x).cur = s.cur := rfl
@[simp] theorem State.setCtx_tick (s : State) (c : Nat) (x : Context) : (s.setCtx c x).tick = s.tick := rfl
@[simp] theorem State.setCtx_gtc (s : State) (c : Nat) (x : Context) : (s.setCtx c x).gtc = s.gtc := rfl
@[simp] theorem State.setCtx_mem (s : State) (c : Nat) (x : Context) : (s.setCtx c x).mem = s.mem := rfl
@[simp] theorem State.setCtx_sect (s : State) (c : Nat) (x : Context) : (s.setCtx c x).sect = s.sect := rfl
@[simp] theorem State.setCtx_marks (s : State) (c : Nat) (x : Context) : (s.setCtx c x).marks = s.marks := rfl
@[simp] theorem State.setCtx_stale (s : State) (c : Nat) (x : Context) : (s.setCtx c x).stale = s.stale := rfl
@[simp] theorem State.setCtx_journal (s : State) (c : Nat) (x : Context) : (s.setCtx c x).journal = s.journal := rfl
@[simp] theorem State.setCtx_torn (s : State) (c : Nat) (x : Context) : (s.setCtx c x).torn = s.torn := rfl
@[simp] theorem State.setCtx_tcache (s : State) (c : Nat) (x : Context) : (s.setCtx c x).tcache = s.tcache := rfl
@[simp] theorem State.setCtx_fuse (s : State) (c : Nat) (x : Context) : (s.setCtx c x).fuse = s.fuse := rfl
@[simp] theorem State.setCtx_vmask (s : State) (c : Nat) (x : Context) : (s.setCtx c x).vmask = s.vmask := rfl
@[simp] theorem State.setCtx_mmask (s : State) (c : Nat) (x : Context) : (s.setCtx c x).mmask = s.mmask := rfl
@[simp] theorem State.setCtx_bmask (s : State) (c : Nat) (x : Context) : (s.setCtx c x).bmask = s.bmask := rfl
@[simp] theorem State.setCtx_xmask (s : State) (c : Nat) (x : Context) : (s.setCtx c x).xmask = s.xmask := rfl
@[simp] theorem State.setCtx_stepping (s : State) (c : Nat) (x : Context) : (s.setCtx c x).stepping = s.stepping := rfl
@[simp] theorem State.setCtx_tandemCap (s : State) (c : Nat) (x : Context) : (s.setCtx c x).tandemCap = s.tandemCap := rfl
@[simp] theorem State.setCtx_cores (s : State) (c : Nat) (x : Context) : (s.setCtx c x).cores = s.cores := rfl
@[simp] theorem State.setCtx_tiles (s : State) (c : Nat) (x : Context) : (s.setCtx c x).tiles = s.tiles := rfl
@[simp] theorem State.setCtx_units (s : State) (c : Nat) (x : Context) : (s.setCtx c x).units = s.units := rfl
@[simp] theorem State.setCtx_serial (s : State) (c : Nat) (x : Context) : (s.setCtx c x).serial = s.serial := rfl
@[simp] theorem State.setCtx_hubq (s : State) (c : Nat) (x : Context) : (s.setCtx c x).hubq = s.hubq := rfl
@[simp] theorem State.setCtx_mesh (s : State) (c : Nat) (x : Context) : (s.setCtx c x).mesh = s.mesh := rfl
@[simp] theorem State.setCtx_sigs (s : State) (c : Nat) (x : Context) : (s.setCtx c x).sigs = s.sigs := rfl
@[simp] theorem State.setCtx_colls (s : State) (c : Nat) (x : Context) : (s.setCtx c x).colls = s.colls := rfl
@[simp] theorem State.setCtx_seqs (s : State) (c : Nat) (x : Context) : (s.setCtx c x).seqs = s.seqs := rfl
@[simp] theorem State.setCtx_audits (s : State) (c : Nat) (x : Context) : (s.setCtx c x).audits = s.audits := rfl
@[simp] theorem State.setCtx_ctl (s : State) (c : Nat) (x : Context) : (s.setCtx c x).ctl = s.ctl := rfl
@[simp] theorem State.setCtx_fab (s : State) (c : Nat) (x : Context) : (s.setCtx c x).fab = s.fab := rfl
@[simp] theorem State.setCtx_pow (s : State) (c : Nat) (x : Context) : (s.setCtx c x).pow = s.pow := rfl
@[simp] theorem State.setCtx_ptp (s : State) (c : Nat) (x : Context) : (s.setCtx c x).ptp = s.ptp := rfl
@[simp] theorem State.setCtx_snap (s : State) (c : Nat) (x : Context) : (s.setCtx c x).snap = s.snap := rfl
@[simp] theorem State.setCtx_err (s : State) (c : Nat) (x : Context) : (s.setCtx c x).err = s.err := rfl
@[simp] theorem State.setCtx_rstLast (s : State) (c : Nat) (x : Context) : (s.setCtx c x).rstLast = s.rstLast := rfl
@[simp] theorem State.setCtx_rstBusy (s : State) (c : Nat) (x : Context) : (s.setCtx c x).rstBusy = s.rstBusy := rfl
@[simp] theorem State.setCtx_vwrites (s : State) (c : Nat) (x : Context) : (s.setCtx c x).vwrites = s.vwrites := rfl
@[simp] theorem State.setCtx_swr (s : State) (c : Nat) (x : Context) : (s.setCtx c x).swr = s.swr := rfl
@[simp] theorem State.setCtx_srd (s : State) (c : Nat) (x : Context) : (s.setCtx c x).srd = s.srd := rfl
@[simp] theorem State.setCtx_trial (s : State) (c : Nat) (x : Context) : (s.setCtx c x).trial = s.trial := rfl
@[simp] theorem State.setCtx_held (s : State) (c : Nat) (x : Context) : (s.setCtx c x).held = s.held := rfl
@[simp] theorem State.setCtx_past (s : State) (c : Nat) (x : Context) : (s.setCtx c x).past = s.past := rfl

@[simp] theorem State.dropCtx_agenda (s : State) (c : Nat) : (s.dropCtx c).agenda = s.agenda := rfl
@[simp] theorem State.dropCtx_cur (s : State) (c : Nat) : (s.dropCtx c).cur = s.cur := rfl
@[simp] theorem State.dropCtx_tick (s : State) (c : Nat) : (s.dropCtx c).tick = s.tick := rfl
@[simp] theorem State.dropCtx_gtc (s : State) (c : Nat) : (s.dropCtx c).gtc = s.gtc := rfl
@[simp] theorem State.dropCtx_mem (s : State) (c : Nat) : (s.dropCtx c).mem = s.mem := rfl
@[simp] theorem State.dropCtx_sect (s : State) (c : Nat) : (s.dropCtx c).sect = s.sect := rfl
@[simp] theorem State.dropCtx_marks (s : State) (c : Nat) : (s.dropCtx c).marks = s.marks := rfl
@[simp] theorem State.dropCtx_stale (s : State) (c : Nat) : (s.dropCtx c).stale = s.stale := rfl
@[simp] theorem State.dropCtx_journal (s : State) (c : Nat) : (s.dropCtx c).journal = s.journal := rfl
@[simp] theorem State.dropCtx_torn (s : State) (c : Nat) : (s.dropCtx c).torn = s.torn := rfl
@[simp] theorem State.dropCtx_tcache (s : State) (c : Nat) : (s.dropCtx c).tcache = s.tcache := rfl
@[simp] theorem State.dropCtx_fuse (s : State) (c : Nat) : (s.dropCtx c).fuse = s.fuse := rfl
@[simp] theorem State.dropCtx_vmask (s : State) (c : Nat) : (s.dropCtx c).vmask = s.vmask := rfl
@[simp] theorem State.dropCtx_mmask (s : State) (c : Nat) : (s.dropCtx c).mmask = s.mmask := rfl
@[simp] theorem State.dropCtx_bmask (s : State) (c : Nat) : (s.dropCtx c).bmask = s.bmask := rfl
@[simp] theorem State.dropCtx_xmask (s : State) (c : Nat) : (s.dropCtx c).xmask = s.xmask := rfl
@[simp] theorem State.dropCtx_stepping (s : State) (c : Nat) : (s.dropCtx c).stepping = s.stepping := rfl
@[simp] theorem State.dropCtx_tandemCap (s : State) (c : Nat) : (s.dropCtx c).tandemCap = s.tandemCap := rfl
@[simp] theorem State.dropCtx_cores (s : State) (c : Nat) : (s.dropCtx c).cores = s.cores := rfl
@[simp] theorem State.dropCtx_tiles (s : State) (c : Nat) : (s.dropCtx c).tiles = s.tiles := rfl
@[simp] theorem State.dropCtx_units (s : State) (c : Nat) : (s.dropCtx c).units = s.units := rfl
@[simp] theorem State.dropCtx_serial (s : State) (c : Nat) : (s.dropCtx c).serial = s.serial := rfl
@[simp] theorem State.dropCtx_hubq (s : State) (c : Nat) : (s.dropCtx c).hubq = s.hubq := rfl
@[simp] theorem State.dropCtx_mesh (s : State) (c : Nat) : (s.dropCtx c).mesh = s.mesh := rfl
@[simp] theorem State.dropCtx_sigs (s : State) (c : Nat) : (s.dropCtx c).sigs = s.sigs := rfl
@[simp] theorem State.dropCtx_colls (s : State) (c : Nat) : (s.dropCtx c).colls = s.colls := rfl
@[simp] theorem State.dropCtx_seqs (s : State) (c : Nat) : (s.dropCtx c).seqs = s.seqs := rfl
@[simp] theorem State.dropCtx_audits (s : State) (c : Nat) : (s.dropCtx c).audits = s.audits := rfl
@[simp] theorem State.dropCtx_ctl (s : State) (c : Nat) : (s.dropCtx c).ctl = s.ctl := rfl
@[simp] theorem State.dropCtx_fab (s : State) (c : Nat) : (s.dropCtx c).fab = s.fab := rfl
@[simp] theorem State.dropCtx_pow (s : State) (c : Nat) : (s.dropCtx c).pow = s.pow := rfl
@[simp] theorem State.dropCtx_ptp (s : State) (c : Nat) : (s.dropCtx c).ptp = s.ptp := rfl
@[simp] theorem State.dropCtx_snap (s : State) (c : Nat) : (s.dropCtx c).snap = s.snap := rfl
@[simp] theorem State.dropCtx_err (s : State) (c : Nat) : (s.dropCtx c).err = s.err := rfl
@[simp] theorem State.dropCtx_rstLast (s : State) (c : Nat) : (s.dropCtx c).rstLast = s.rstLast := rfl
@[simp] theorem State.dropCtx_rstBusy (s : State) (c : Nat) : (s.dropCtx c).rstBusy = s.rstBusy := rfl
@[simp] theorem State.dropCtx_vwrites (s : State) (c : Nat) : (s.dropCtx c).vwrites = s.vwrites := rfl
@[simp] theorem State.dropCtx_swr (s : State) (c : Nat) : (s.dropCtx c).swr = s.swr := rfl
@[simp] theorem State.dropCtx_srd (s : State) (c : Nat) : (s.dropCtx c).srd = s.srd := rfl
@[simp] theorem State.dropCtx_trial (s : State) (c : Nat) : (s.dropCtx c).trial = s.trial := rfl
@[simp] theorem State.dropCtx_held (s : State) (c : Nat) : (s.dropCtx c).held = s.held := rfl
@[simp] theorem State.dropCtx_past (s : State) (c : Nat) : (s.dropCtx c).past = s.past := rfl

@[simp] theorem State.pushTurns_cur (s : State) (l : List Turn) : (s.pushTurns l).cur = s.cur := rfl
@[simp] theorem State.pushTurns_tick (s : State) (l : List Turn) : (s.pushTurns l).tick = s.tick := rfl
@[simp] theorem State.pushTurns_gtc (s : State) (l : List Turn) : (s.pushTurns l).gtc = s.gtc := rfl
@[simp] theorem State.pushTurns_mem (s : State) (l : List Turn) : (s.pushTurns l).mem = s.mem := rfl
@[simp] theorem State.pushTurns_sect (s : State) (l : List Turn) : (s.pushTurns l).sect = s.sect := rfl
@[simp] theorem State.pushTurns_marks (s : State) (l : List Turn) : (s.pushTurns l).marks = s.marks := rfl
@[simp] theorem State.pushTurns_stale (s : State) (l : List Turn) : (s.pushTurns l).stale = s.stale := rfl
@[simp] theorem State.pushTurns_journal (s : State) (l : List Turn) : (s.pushTurns l).journal = s.journal := rfl
@[simp] theorem State.pushTurns_torn (s : State) (l : List Turn) : (s.pushTurns l).torn = s.torn := rfl
@[simp] theorem State.pushTurns_tcache (s : State) (l : List Turn) : (s.pushTurns l).tcache = s.tcache := rfl
@[simp] theorem State.pushTurns_fuse (s : State) (l : List Turn) : (s.pushTurns l).fuse = s.fuse := rfl
@[simp] theorem State.pushTurns_vmask (s : State) (l : List Turn) : (s.pushTurns l).vmask = s.vmask := rfl
@[simp] theorem State.pushTurns_mmask (s : State) (l : List Turn) : (s.pushTurns l).mmask = s.mmask := rfl
@[simp] theorem State.pushTurns_bmask (s : State) (l : List Turn) : (s.pushTurns l).bmask = s.bmask := rfl
@[simp] theorem State.pushTurns_xmask (s : State) (l : List Turn) : (s.pushTurns l).xmask = s.xmask := rfl
@[simp] theorem State.pushTurns_stepping (s : State) (l : List Turn) : (s.pushTurns l).stepping = s.stepping := rfl
@[simp] theorem State.pushTurns_tandemCap (s : State) (l : List Turn) : (s.pushTurns l).tandemCap = s.tandemCap := rfl
@[simp] theorem State.pushTurns_cores (s : State) (l : List Turn) : (s.pushTurns l).cores = s.cores := rfl
@[simp] theorem State.pushTurns_tiles (s : State) (l : List Turn) : (s.pushTurns l).tiles = s.tiles := rfl
@[simp] theorem State.pushTurns_units (s : State) (l : List Turn) : (s.pushTurns l).units = s.units := rfl
@[simp] theorem State.pushTurns_ctxs (s : State) (l : List Turn) : (s.pushTurns l).ctxs = s.ctxs := rfl
@[simp] theorem State.pushTurns_serial (s : State) (l : List Turn) : (s.pushTurns l).serial = s.serial := rfl
@[simp] theorem State.pushTurns_hubq (s : State) (l : List Turn) : (s.pushTurns l).hubq = s.hubq := rfl
@[simp] theorem State.pushTurns_mesh (s : State) (l : List Turn) : (s.pushTurns l).mesh = s.mesh := rfl
@[simp] theorem State.pushTurns_sigs (s : State) (l : List Turn) : (s.pushTurns l).sigs = s.sigs := rfl
@[simp] theorem State.pushTurns_colls (s : State) (l : List Turn) : (s.pushTurns l).colls = s.colls := rfl
@[simp] theorem State.pushTurns_seqs (s : State) (l : List Turn) : (s.pushTurns l).seqs = s.seqs := rfl
@[simp] theorem State.pushTurns_audits (s : State) (l : List Turn) : (s.pushTurns l).audits = s.audits := rfl
@[simp] theorem State.pushTurns_ctl (s : State) (l : List Turn) : (s.pushTurns l).ctl = s.ctl := rfl
@[simp] theorem State.pushTurns_fab (s : State) (l : List Turn) : (s.pushTurns l).fab = s.fab := rfl
@[simp] theorem State.pushTurns_pow (s : State) (l : List Turn) : (s.pushTurns l).pow = s.pow := rfl
@[simp] theorem State.pushTurns_ptp (s : State) (l : List Turn) : (s.pushTurns l).ptp = s.ptp := rfl
@[simp] theorem State.pushTurns_snap (s : State) (l : List Turn) : (s.pushTurns l).snap = s.snap := rfl
@[simp] theorem State.pushTurns_err (s : State) (l : List Turn) : (s.pushTurns l).err = s.err := rfl
@[simp] theorem State.pushTurns_rstLast (s : State) (l : List Turn) : (s.pushTurns l).rstLast = s.rstLast := rfl
@[simp] theorem State.pushTurns_rstBusy (s : State) (l : List Turn) : (s.pushTurns l).rstBusy = s.rstBusy := rfl
@[simp] theorem State.pushTurns_vwrites (s : State) (l : List Turn) : (s.pushTurns l).vwrites = s.vwrites := rfl
@[simp] theorem State.pushTurns_swr (s : State) (l : List Turn) : (s.pushTurns l).swr = s.swr := rfl
@[simp] theorem State.pushTurns_srd (s : State) (l : List Turn) : (s.pushTurns l).srd = s.srd := rfl
@[simp] theorem State.pushTurns_trial (s : State) (l : List Turn) : (s.pushTurns l).trial = s.trial := rfl
@[simp] theorem State.pushTurns_held (s : State) (l : List Turn) : (s.pushTurns l).held = s.held := rfl
@[simp] theorem State.pushTurns_past (s : State) (l : List Turn) : (s.pushTurns l).past = s.past := rfl

@[simp] theorem State.cancelTurns_cur (s : State) (l : List Nat) : (s.cancelTurns l).cur = s.cur := rfl
@[simp] theorem State.cancelTurns_tick (s : State) (l : List Nat) : (s.cancelTurns l).tick = s.tick := rfl
@[simp] theorem State.cancelTurns_gtc (s : State) (l : List Nat) : (s.cancelTurns l).gtc = s.gtc := rfl
@[simp] theorem State.cancelTurns_mem (s : State) (l : List Nat) : (s.cancelTurns l).mem = s.mem := rfl
@[simp] theorem State.cancelTurns_sect (s : State) (l : List Nat) : (s.cancelTurns l).sect = s.sect := rfl
@[simp] theorem State.cancelTurns_marks (s : State) (l : List Nat) : (s.cancelTurns l).marks = s.marks := rfl
@[simp] theorem State.cancelTurns_stale (s : State) (l : List Nat) : (s.cancelTurns l).stale = s.stale := rfl
@[simp] theorem State.cancelTurns_journal (s : State) (l : List Nat) : (s.cancelTurns l).journal = s.journal := rfl
@[simp] theorem State.cancelTurns_torn (s : State) (l : List Nat) : (s.cancelTurns l).torn = s.torn := rfl
@[simp] theorem State.cancelTurns_tcache (s : State) (l : List Nat) : (s.cancelTurns l).tcache = s.tcache := rfl
@[simp] theorem State.cancelTurns_fuse (s : State) (l : List Nat) : (s.cancelTurns l).fuse = s.fuse := rfl
@[simp] theorem State.cancelTurns_vmask (s : State) (l : List Nat) : (s.cancelTurns l).vmask = s.vmask := rfl
@[simp] theorem State.cancelTurns_mmask (s : State) (l : List Nat) : (s.cancelTurns l).mmask = s.mmask := rfl
@[simp] theorem State.cancelTurns_bmask (s : State) (l : List Nat) : (s.cancelTurns l).bmask = s.bmask := rfl
@[simp] theorem State.cancelTurns_xmask (s : State) (l : List Nat) : (s.cancelTurns l).xmask = s.xmask := rfl
@[simp] theorem State.cancelTurns_stepping (s : State) (l : List Nat) : (s.cancelTurns l).stepping = s.stepping := rfl
@[simp] theorem State.cancelTurns_tandemCap (s : State) (l : List Nat) : (s.cancelTurns l).tandemCap = s.tandemCap := rfl
@[simp] theorem State.cancelTurns_cores (s : State) (l : List Nat) : (s.cancelTurns l).cores = s.cores := rfl
@[simp] theorem State.cancelTurns_tiles (s : State) (l : List Nat) : (s.cancelTurns l).tiles = s.tiles := rfl
@[simp] theorem State.cancelTurns_units (s : State) (l : List Nat) : (s.cancelTurns l).units = s.units := rfl
@[simp] theorem State.cancelTurns_ctxs (s : State) (l : List Nat) : (s.cancelTurns l).ctxs = s.ctxs := rfl
@[simp] theorem State.cancelTurns_serial (s : State) (l : List Nat) : (s.cancelTurns l).serial = s.serial := rfl
@[simp] theorem State.cancelTurns_hubq (s : State) (l : List Nat) : (s.cancelTurns l).hubq = s.hubq := rfl
@[simp] theorem State.cancelTurns_mesh (s : State) (l : List Nat) : (s.cancelTurns l).mesh = s.mesh := rfl
@[simp] theorem State.cancelTurns_sigs (s : State) (l : List Nat) : (s.cancelTurns l).sigs = s.sigs := rfl
@[simp] theorem State.cancelTurns_colls (s : State) (l : List Nat) : (s.cancelTurns l).colls = s.colls := rfl
@[simp] theorem State.cancelTurns_seqs (s : State) (l : List Nat) : (s.cancelTurns l).seqs = s.seqs := rfl
@[simp] theorem State.cancelTurns_audits (s : State) (l : List Nat) : (s.cancelTurns l).audits = s.audits := rfl
@[simp] theorem State.cancelTurns_ctl (s : State) (l : List Nat) : (s.cancelTurns l).ctl = s.ctl := rfl
@[simp] theorem State.cancelTurns_fab (s : State) (l : List Nat) : (s.cancelTurns l).fab = s.fab := rfl
@[simp] theorem State.cancelTurns_pow (s : State) (l : List Nat) : (s.cancelTurns l).pow = s.pow := rfl
@[simp] theorem State.cancelTurns_ptp (s : State) (l : List Nat) : (s.cancelTurns l).ptp = s.ptp := rfl
@[simp] theorem State.cancelTurns_snap (s : State) (l : List Nat) : (s.cancelTurns l).snap = s.snap := rfl
@[simp] theorem State.cancelTurns_err (s : State) (l : List Nat) : (s.cancelTurns l).err = s.err := rfl
@[simp] theorem State.cancelTurns_rstLast (s : State) (l : List Nat) : (s.cancelTurns l).rstLast = s.rstLast := rfl
@[simp] theorem State.cancelTurns_rstBusy (s : State) (l : List Nat) : (s.cancelTurns l).rstBusy = s.rstBusy := rfl
@[simp] theorem State.cancelTurns_vwrites (s : State) (l : List Nat) : (s.cancelTurns l).vwrites = s.vwrites := rfl
@[simp] theorem State.cancelTurns_swr (s : State) (l : List Nat) : (s.cancelTurns l).swr = s.swr := rfl
@[simp] theorem State.cancelTurns_srd (s : State) (l : List Nat) : (s.cancelTurns l).srd = s.srd := rfl
@[simp] theorem State.cancelTurns_trial (s : State) (l : List Nat) : (s.cancelTurns l).trial = s.trial := rfl
@[simp] theorem State.cancelTurns_held (s : State) (l : List Nat) : (s.cancelTurns l).held = s.held := rfl
@[simp] theorem State.cancelTurns_past (s : State) (l : List Nat) : (s.cancelTurns l).past = s.past := rfl

@[simp] theorem State.tally_agenda (s : State) (k n : Nat) : (s.tally k n).agenda = s.agenda := rfl
@[simp] theorem State.tally_cur (s : State) (k n : Nat) : (s.tally k n).cur = s.cur := rfl
@[simp] theorem State.tally_tick (s : State) (k n : Nat) : (s.tally k n).tick = s.tick := rfl
@[simp] theorem State.tally_gtc (s : State) (k n : Nat) : (s.tally k n).gtc = s.gtc := rfl
@[simp] theorem State.tally_mem (s : State) (k n : Nat) : (s.tally k n).mem = s.mem := rfl
@[simp] theorem State.tally_sect (s : State) (k n : Nat) : (s.tally k n).sect = s.sect := rfl
@[simp] theorem State.tally_marks (s : State) (k n : Nat) : (s.tally k n).marks = s.marks := rfl
@[simp] theorem State.tally_stale (s : State) (k n : Nat) : (s.tally k n).stale = s.stale := rfl
@[simp] theorem State.tally_journal (s : State) (k n : Nat) : (s.tally k n).journal = s.journal := rfl
@[simp] theorem State.tally_torn (s : State) (k n : Nat) : (s.tally k n).torn = s.torn := rfl
@[simp] theorem State.tally_tcache (s : State) (k n : Nat) : (s.tally k n).tcache = s.tcache := rfl
@[simp] theorem State.tally_fuse (s : State) (k n : Nat) : (s.tally k n).fuse = s.fuse := rfl
@[simp] theorem State.tally_vmask (s : State) (k n : Nat) : (s.tally k n).vmask = s.vmask := rfl
@[simp] theorem State.tally_mmask (s : State) (k n : Nat) : (s.tally k n).mmask = s.mmask := rfl
@[simp] theorem State.tally_bmask (s : State) (k n : Nat) : (s.tally k n).bmask = s.bmask := rfl
@[simp] theorem State.tally_xmask (s : State) (k n : Nat) : (s.tally k n).xmask = s.xmask := rfl
@[simp] theorem State.tally_stepping (s : State) (k n : Nat) : (s.tally k n).stepping = s.stepping := rfl
@[simp] theorem State.tally_tandemCap (s : State) (k n : Nat) : (s.tally k n).tandemCap = s.tandemCap := rfl
@[simp] theorem State.tally_cores (s : State) (k n : Nat) : (s.tally k n).cores = s.cores := rfl
@[simp] theorem State.tally_tiles (s : State) (k n : Nat) : (s.tally k n).tiles = s.tiles := rfl
@[simp] theorem State.tally_units (s : State) (k n : Nat) : (s.tally k n).units = s.units := rfl
@[simp] theorem State.tally_ctxs (s : State) (k n : Nat) : (s.tally k n).ctxs = s.ctxs := rfl
@[simp] theorem State.tally_serial (s : State) (k n : Nat) : (s.tally k n).serial = s.serial := rfl
@[simp] theorem State.tally_hubq (s : State) (k n : Nat) : (s.tally k n).hubq = s.hubq := rfl
@[simp] theorem State.tally_mesh (s : State) (k n : Nat) : (s.tally k n).mesh = s.mesh := rfl
@[simp] theorem State.tally_sigs (s : State) (k n : Nat) : (s.tally k n).sigs = s.sigs := rfl
@[simp] theorem State.tally_colls (s : State) (k n : Nat) : (s.tally k n).colls = s.colls := rfl
@[simp] theorem State.tally_seqs (s : State) (k n : Nat) : (s.tally k n).seqs = s.seqs := rfl
@[simp] theorem State.tally_audits (s : State) (k n : Nat) : (s.tally k n).audits = s.audits := rfl
@[simp] theorem State.tally_ctl (s : State) (k n : Nat) : (s.tally k n).ctl = s.ctl := rfl
@[simp] theorem State.tally_fab (s : State) (k n : Nat) : (s.tally k n).fab = s.fab := rfl
@[simp] theorem State.tally_ptp (s : State) (k n : Nat) : (s.tally k n).ptp = s.ptp := rfl
@[simp] theorem State.tally_snap (s : State) (k n : Nat) : (s.tally k n).snap = s.snap := rfl
@[simp] theorem State.tally_err (s : State) (k n : Nat) : (s.tally k n).err = s.err := rfl
@[simp] theorem State.tally_rstLast (s : State) (k n : Nat) : (s.tally k n).rstLast = s.rstLast := rfl
@[simp] theorem State.tally_rstBusy (s : State) (k n : Nat) : (s.tally k n).rstBusy = s.rstBusy := rfl
@[simp] theorem State.tally_vwrites (s : State) (k n : Nat) : (s.tally k n).vwrites = s.vwrites := rfl
@[simp] theorem State.tally_swr (s : State) (k n : Nat) : (s.tally k n).swr = s.swr := rfl
@[simp] theorem State.tally_srd (s : State) (k n : Nat) : (s.tally k n).srd = s.srd := rfl
@[simp] theorem State.tally_trial (s : State) (k n : Nat) : (s.tally k n).trial = s.trial := rfl
@[simp] theorem State.tally_held (s : State) (k n : Nat) : (s.tally k n).held = s.held := rfl
@[simp] theorem State.tally_past (s : State) (k n : Nat) : (s.tally k n).past = s.past := rfl

/-! ### Updates of a core -/

@[simp] theorem Core.setS_a (c : Core) (r : Nat) (w : Word) : (c.setS r w).a = c.a := by unfold Core.setS; split <;> rfl
@[simp] theorem Core.setS_p (c : Core) (r : Nat) (w : Word) : (c.setS r w).p = c.p := by unfold Core.setS; split <;> rfl
@[simp] theorem Core.setS_v (c : Core) (r : Nat) (w : Word) : (c.setS r w).v = c.v := by unfold Core.setS; split <;> rfl
@[simp] theorem Core.setS_k (c : Core) (r : Nat) (w : Word) : (c.setS r w).k = c.k := by unfold Core.setS; split <;> rfl
@[simp] theorem Core.setS_mp (c : Core) (r : Nat) (w : Word) : (c.setS r w).mp = c.mp := by unfold Core.setS; split <;> rfl
@[simp] theorem Core.setS_fmt (c : Core) (r : Nat) (w : Word) : (c.setS r w).fmt = c.fmt := by unfold Core.setS; split <;> rfl
@[simp] theorem Core.setS_mpc (c : Core) (r : Nat) (w : Word) : (c.setS r w).mpc = c.mpc := by unfold Core.setS; split <;> rfl
@[simp] theorem Core.setS_pc (c : Core) (r : Nat) (w : Word) : (c.setS r w).pc = c.pc := by unfold Core.setS; split <;> rfl
@[simp] theorem Core.setS_ispsel (c : Core) (r : Nat) (w : Word) : (c.setS r w).ispsel = c.ispsel := by unfold Core.setS; split <;> rfl
@[simp] theorem Core.setS_loops (c : Core) (r : Nat) (w : Word) : (c.setS r w).loops = c.loops := by unfold Core.setS; split <;> rfl
@[simp] theorem Core.setS_tl (c : Core) (r : Nat) (w : Word) : (c.setS r w).tl = c.tl := by unfold Core.setS; split <;> rfl
@[simp] theorem Core.setS_n0 (c : Core) (r : Nat) (w : Word) : (c.setS r w).n0 = c.n0 := by unfold Core.setS; split <;> rfl
@[simp] theorem Core.setS_n1 (c : Core) (r : Nat) (w : Word) : (c.setS r w).n1 = c.n1 := by unfold Core.setS; split <;> rfl
@[simp] theorem Core.setS_n3 (c : Core) (r : Nat) (w : Word) : (c.setS r w).n3 = c.n3 := by unfold Core.setS; split <;> rfl
@[simp] theorem Core.setS_ni (c : Core) (r : Nat) (w : Word) : (c.setS r w).ni = c.ni := by unfold Core.setS; split <;> rfl
@[simp] theorem Core.setS_rnd (c : Core) (r : Nat) (w : Word) : (c.setS r w).rnd = c.rnd := by unfold Core.setS; split <;> rfl
@[simp] theorem Core.setS_ports (c : Core) (r : Nat) (w : Word) : (c.setS r w).ports = c.ports := by unfold Core.setS; split <;> rfl
@[simp] theorem Core.setS_gate (c : Core) (r : Nat) (w : Word) : (c.setS r w).gate = c.gate := by unfold Core.setS; split <;> rfl
@[simp] theorem Core.setS_released (c : Core) (r : Nat) (w : Word) : (c.setS r w).released = c.released := by unfold Core.setS; split <;> rfl
@[simp] theorem Core.setS_pend (c : Core) (r : Nat) (w : Word) : (c.setS r w).pend = c.pend := by unfold Core.setS; split <;> rfl
@[simp] theorem Core.setS_recs (c : Core) (r : Nat) (w : Word) : (c.setS r w).recs = c.recs := by unfold Core.setS; split <;> rfl
@[simp] theorem Core.setS_shadow (c : Core) (r : Nat) (w : Word) : (c.setS r w).shadow = c.shadow := by unfold Core.setS; split <;> rfl
@[simp] theorem Core.setS_irrev (c : Core) (r : Nat) (w : Word) : (c.setS r w).irrev = c.irrev := by unfold Core.setS; split <;> rfl
@[simp] theorem Core.setS_irrevNew (c : Core) (r : Nat) (w : Word) : (c.setS r w).irrevNew = c.irrevNew := by unfold Core.setS; split <;> rfl
@[simp] theorem Core.setS_replay (c : Core) (r : Nat) (w : Word) : (c.setS r w).replay = c.replay := by unfold Core.setS; split <;> rfl
@[simp] theorem Core.setS_regions (c : Core) (r : Nat) (w : Word) : (c.setS r w).regions = c.regions := by unfold Core.setS; split <;> rfl
@[simp] theorem Core.setS_recvq (c : Core) (r : Nat) (w : Word) : (c.setS r w).recvq = c.recvq := by unfold Core.setS; split <;> rfl
@[simp] theorem Core.setS_errq (c : Core) (r : Nat) (w : Word) : (c.setS r w).errq = c.errq := by unfold Core.setS; split <;> rfl
@[simp] theorem Core.setS_sv (c : Core) (r : Nat) (w : Word) : (c.setS r w).sv = c.sv := by unfold Core.setS; split <;> rfl
@[simp] theorem Core.setS_snapen (c : Core) (r : Nat) (w : Word) : (c.setS r w).snapen = c.snapen := by unfold Core.setS; split <;> rfl
@[simp] theorem Core.setS_epc (c : Core) (r : Nat) (w : Word) : (c.setS r w).epc = c.epc := by unfold Core.setS; split <;> rfl
@[simp] theorem Core.setS_psv (c : Core) (r : Nat) (w : Word) : (c.setS r w).psv = c.psv := by unfold Core.setS; split <;> rfl
@[simp] theorem Core.setS_ecode (c : Core) (r : Nat) (w : Word) : (c.setS r w).ecode = c.ecode := by unfold Core.setS; split <;> rfl
@[simp] theorem Core.setS_svec (c : Core) (r : Nat) (w : Word) : (c.setS r w).svec = c.svec := by unfold Core.setS; split <;> rfl
@[simp] theorem Core.setS_evt (c : Core) (r : Nat) (w : Word) : (c.setS r w).evt = c.evt := by unfold Core.setS; split <;> rfl
@[simp] theorem Core.setS_evmask (c : Core) (r : Nat) (w : Word) : (c.setS r w).evmask = c.evmask := by unfold Core.setS; split <;> rfl
@[simp] theorem Core.setS_evgtc (c : Core) (r : Nat) (w : Word) : (c.setS r w).evgtc = c.evgtc := by unfold Core.setS; split <;> rfl
@[simp] theorem Core.setS_armed (c : Core) (r : Nat) (w : Word) : (c.setS r w).armed = c.armed := by unfold Core.setS; split <;> rfl
@[simp] theorem Core.setS_vc (c : Core) (r : Nat) (w : Word) : (c.setS r w).vc = c.vc := by unfold Core.setS; split <;> rfl
@[simp] theorem Core.setS_hold (c : Core) (r : Nat) (w : Word) : (c.setS r w).hold = c.hold := by unfold Core.setS; split <;> rfl
@[simp] theorem Core.setS_holdAt (c : Core) (r : Nat) (w : Word) : (c.setS r w).holdAt = c.holdAt := by unfold Core.setS; split <;> rfl
@[simp] theorem Core.setS_halted (c : Core) (r : Nat) (w : Word) : (c.setS r w).halted = c.halted := by unfold Core.setS; split <;> rfl
@[simp] theorem Core.setS_stopped (c : Core) (r : Nat) (w : Word) : (c.setS r w).stopped = c.stopped := by unfold Core.setS; split <;> rfl
@[simp] theorem Core.setS_idle (c : Core) (r : Nat) (w : Word) : (c.setS r w).idle = c.idle := by unfold Core.setS; split <;> rfl
@[simp] theorem Core.setS_stopReq (c : Core) (r : Nat) (w : Word) : (c.setS r w).stopReq = c.stopReq := by unfold Core.setS; split <;> rfl
@[simp] theorem Core.setS_inIssue (c : Core) (r : Nat) (w : Word) : (c.setS r w).inIssue = c.inIssue := by unfold Core.setS; split <;> rfl
@[simp] theorem Core.setS_taken (c : Core) (r : Nat) (w : Word) : (c.setS r w).taken = c.taken := by unfold Core.setS; split <;> rfl
@[simp] theorem Core.setS_loopPush (c : Core) (r : Nat) (w : Word) : (c.setS r w).loopPush = c.loopPush := by unfold Core.setS; split <;> rfl
@[simp] theorem Core.setS_ckWord (c : Core) (r : Nat) (w : Word) : (c.setS r w).ckWord = c.ckWord := by unfold Core.setS; split <;> rfl
@[simp] theorem Core.setS_ckVc (c : Core) (r : Nat) (w : Word) : (c.setS r w).ckVc = c.ckVc := by unfold Core.setS; split <;> rfl
@[simp] theorem Core.setS_ckQp (c : Core) (r : Nat) (w : Word) : (c.setS r w).ckQp = c.ckQp := by unfold Core.setS; split <;> rfl
@[simp] theorem Core.setS_ckDone (c : Core) (r : Nat) (w : Word) : (c.setS r w).ckDone = c.ckDone := by unfold Core.setS; split <;> rfl
@[simp] theorem Core.setS_again (c : Core) (r : Nat) (w : Word) : (c.setS r w).again = c.again := by unfold Core.setS; split <;> rfl
@[simp] theorem Core.setS_needCk (c : Core) (r : Nat) (w : Word) : (c.setS r w).needCk = c.needCk := by unfold Core.setS; split <;> rfl
@[simp] theorem Core.setS_gatherAt (c : Core) (r : Nat) (w : Word) : (c.setS r w).gatherAt = c.gatherAt := by unfold Core.setS; split <;> rfl
@[simp] theorem Core.setS_rest (c : Core) (r : Nat) (w : Word) : (c.setS r w).rest = c.rest := by unfold Core.setS; split <;> rfl
@[simp] theorem Core.setS_late (c : Core) (r : Nat) (w : Word) : (c.setS r w).late = c.late := by unfold Core.setS; split <;> rfl
@[simp] theorem Core.setS_pendFault (c : Core) (r : Nat) (w : Word) : (c.setS r w).pendFault = c.pendFault := by unfold Core.setS; split <;> rfl
@[simp] theorem Core.setS_eng0 (c : Core) (r : Nat) (w : Word) : (c.setS r w).eng0 = c.eng0 := by unfold Core.setS; split <;> rfl
@[simp] theorem Core.setS_eng1 (c : Core) (r : Nat) (w : Word) : (c.setS r w).eng1 = c.eng1 := by unfold Core.setS; split <;> rfl
@[simp] theorem Core.setS_eng3 (c : Core) (r : Nat) (w : Word) : (c.setS r w).eng3 = c.eng3 := by unfold Core.setS; split <;> rfl
@[simp] theorem Core.setS_nid (c : Core) (r : Nat) (w : Word) : (c.setS r w).nid = c.nid := by unfold Core.setS; split <;> rfl
@[simp] theorem Core.setS_marks (c : Core) (r : Nat) (w : Word) : (c.setS r w).marks = c.marks := by unfold Core.setS; split <;> rfl
@[simp] theorem Core.setS_tchecks (c : Core) (r : Nat) (w : Word) : (c.setS r w).tchecks = c.tchecks := by unfold Core.setS; split <;> rfl
@[simp] theorem Core.setS_fills (c : Core) (r : Nat) (w : Word) : (c.setS r w).fills = c.fills := by unfold Core.setS; split <;> rfl
@[simp] theorem Core.setS_fences (c : Core) (r : Nat) (w : Word) : (c.setS r w).fences = c.fences := by unfold Core.setS; split <;> rfl
@[simp] theorem Core.setS_ckRegions (c : Core) (r : Nat) (w : Word) : (c.setS r w).ckRegions = c.ckRegions := by unfold Core.setS; split <;> rfl
@[simp] theorem Core.setS_stopVc (c : Core) (r : Nat) (w : Word) : (c.setS r w).stopVc = c.stopVc := by unfold Core.setS; split <;> rfl
@[simp] theorem Core.setS_unit (c : Core) (r : Nat) (w : Word) : (c.setS r w).unit = c.unit := by unfold Core.setS; split <;> rfl
@[simp] theorem Core.setS_lastUnit (c : Core) (r : Nat) (w : Word) : (c.setS r w).lastUnit = c.lastUnit := by unfold Core.setS; split <;> rfl

@[simp] theorem Core.setA_s (c : Core) (r : Nat) (w : Word) : (c.setA r w).s = c.s := rfl
@[simp] theorem Core.setA_p (c : Core) (r : Nat) (w : Word) : (c.setA r w).p = c.p := rfl
@[simp] theorem Core.setA_v (c : Core) (r : Nat) (w : Word) : (c.setA r w).v = c.v := rfl
@[simp] theorem Core.setA_k (c : Core) (r : Nat) (w : Word) : (c.setA r w).k = c.k := rfl
@[simp] theorem Core.setA_mp (c : Core) (r : Nat) (w : Word) : (c.setA r w).mp = c.mp := rfl
@[simp] theorem Core.setA_fmt (c : Core) (r : Nat) (w : Word) : (c.setA r w).fmt = c.fmt := rfl
@[simp] theorem Core.setA_mpc (c : Core) (r : Nat) (w : Word) : (c.setA r w).mpc = c.mpc := rfl
@[simp] theorem Core.setA_pc (c : Core) (r : Nat) (w : Word) : (c.setA r w).pc = c.pc := rfl
@[simp] theorem Core.setA_ispsel (c : Core) (r : Nat) (w : Word) : (c.setA r w).ispsel = c.ispsel := rfl
@[simp] theorem Core.setA_loops (c : Core) (r : Nat) (w : Word) : (c.setA r w).loops = c.loops := rfl
@[simp] theorem Core.setA_tl (c : Core) (r : Nat) (w : Word) : (c.setA r w).tl = c.tl := rfl
@[simp] theorem Core.setA_n0 (c : Core) (r : Nat) (w : Word) : (c.setA r w).n0 = c.n0 := rfl
@[simp] theorem Core.setA_n1 (c : Core) (r : Nat) (w : Word) : (c.setA r w).n1 = c.n1 := rfl
@[simp] theorem Core.setA_n3 (c : Core) (r : Nat) (w : Word) : (c.setA r w).n3 = c.n3 := rfl
@[simp] theorem Core.setA_ni (c : Core) (r : Nat) (w : Word) : (c.setA r w).ni = c.ni := rfl
@[simp] theorem Core.setA_rnd (c : Core) (r : Nat) (w : Word) : (c.setA r w).rnd = c.rnd := rfl
@[simp] theorem Core.setA_ports (c : Core) (r : Nat) (w : Word) : (c.setA r w).ports = c.ports := rfl
@[simp] theorem Core.setA_gate (c : Core) (r : Nat) (w : Word) : (c.setA r w).gate = c.gate := rfl
@[simp] theorem Core.setA_released (c : Core) (r : Nat) (w : Word) : (c.setA r w).released = c.released := rfl
@[simp] theorem Core.setA_pend (c : Core) (r : Nat) (w : Word) : (c.setA r w).pend = c.pend := rfl
@[simp] theorem Core.setA_recs (c : Core) (r : Nat) (w : Word) : (c.setA r w).recs = c.recs := rfl
@[simp] theorem Core.setA_shadow (c : Core) (r : Nat) (w : Word) : (c.setA r w).shadow = c.shadow := rfl
@[simp] theorem Core.setA_irrev (c : Core) (r : Nat) (w : Word) : (c.setA r w).irrev = c.irrev := rfl
@[simp] theorem Core.setA_irrevNew (c : Core) (r : Nat) (w : Word) : (c.setA r w).irrevNew = c.irrevNew := rfl
@[simp] theorem Core.setA_replay (c : Core) (r : Nat) (w : Word) : (c.setA r w).replay = c.replay := rfl
@[simp] theorem Core.setA_regions (c : Core) (r : Nat) (w : Word) : (c.setA r w).regions = c.regions := rfl
@[simp] theorem Core.setA_recvq (c : Core) (r : Nat) (w : Word) : (c.setA r w).recvq = c.recvq := rfl
@[simp] theorem Core.setA_sv (c : Core) (r : Nat) (w : Word) : (c.setA r w).sv = c.sv := rfl
@[simp] theorem Core.setA_snapen (c : Core) (r : Nat) (w : Word) : (c.setA r w).snapen = c.snapen := rfl
@[simp] theorem Core.setA_epc (c : Core) (r : Nat) (w : Word) : (c.setA r w).epc = c.epc := rfl
@[simp] theorem Core.setA_psv (c : Core) (r : Nat) (w : Word) : (c.setA r w).psv = c.psv := rfl
@[simp] theorem Core.setA_ecode (c : Core) (r : Nat) (w : Word) : (c.setA r w).ecode = c.ecode := rfl
@[simp] theorem Core.setA_svec (c : Core) (r : Nat) (w : Word) : (c.setA r w).svec = c.svec := rfl
@[simp] theorem Core.setA_evt (c : Core) (r : Nat) (w : Word) : (c.setA r w).evt = c.evt := rfl
@[simp] theorem Core.setA_evmask (c : Core) (r : Nat) (w : Word) : (c.setA r w).evmask = c.evmask := rfl
@[simp] theorem Core.setA_evgtc (c : Core) (r : Nat) (w : Word) : (c.setA r w).evgtc = c.evgtc := rfl
@[simp] theorem Core.setA_armed (c : Core) (r : Nat) (w : Word) : (c.setA r w).armed = c.armed := rfl
@[simp] theorem Core.setA_vc (c : Core) (r : Nat) (w : Word) : (c.setA r w).vc = c.vc := rfl
@[simp] theorem Core.setA_hold (c : Core) (r : Nat) (w : Word) : (c.setA r w).hold = c.hold := rfl
@[simp] theorem Core.setA_holdAt (c : Core) (r : Nat) (w : Word) : (c.setA r w).holdAt = c.holdAt := rfl
@[simp] theorem Core.setA_halted (c : Core) (r : Nat) (w : Word) : (c.setA r w).halted = c.halted := rfl
@[simp] theorem Core.setA_stopped (c : Core) (r : Nat) (w : Word) : (c.setA r w).stopped = c.stopped := rfl
@[simp] theorem Core.setA_idle (c : Core) (r : Nat) (w : Word) : (c.setA r w).idle = c.idle := rfl
@[simp] theorem Core.setA_stopReq (c : Core) (r : Nat) (w : Word) : (c.setA r w).stopReq = c.stopReq := rfl
@[simp] theorem Core.setA_inIssue (c : Core) (r : Nat) (w : Word) : (c.setA r w).inIssue = c.inIssue := rfl
@[simp] theorem Core.setA_taken (c : Core) (r : Nat) (w : Word) : (c.setA r w).taken = c.taken := rfl
@[simp] theorem Core.setA_loopPush (c : Core) (r : Nat) (w : Word) : (c.setA r w).loopPush = c.loopPush := rfl
@[simp] theorem Core.setA_ckWord (c : Core) (r : Nat) (w : Word) : (c.setA r w).ckWord = c.ckWord := rfl
@[simp] theorem Core.setA_ckVc (c : Core) (r : Nat) (w : Word) : (c.setA r w).ckVc = c.ckVc := rfl
@[simp] theorem Core.setA_ckQp (c : Core) (r : Nat) (w : Word) : (c.setA r w).ckQp = c.ckQp := rfl
@[simp] theorem Core.setA_ckDone (c : Core) (r : Nat) (w : Word) : (c.setA r w).ckDone = c.ckDone := rfl
@[simp] theorem Core.setA_again (c : Core) (r : Nat) (w : Word) : (c.setA r w).again = c.again := rfl
@[simp] theorem Core.setA_needCk (c : Core) (r : Nat) (w : Word) : (c.setA r w).needCk = c.needCk := rfl
@[simp] theorem Core.setA_gatherAt (c : Core) (r : Nat) (w : Word) : (c.setA r w).gatherAt = c.gatherAt := rfl
@[simp] theorem Core.setA_rest (c : Core) (r : Nat) (w : Word) : (c.setA r w).rest = c.rest := rfl
@[simp] theorem Core.setA_late (c : Core) (r : Nat) (w : Word) : (c.setA r w).late = c.late := rfl
@[simp] theorem Core.setA_pendFault (c : Core) (r : Nat) (w : Word) : (c.setA r w).pendFault = c.pendFault := rfl
@[simp] theorem Core.setA_eng0 (c : Core) (r : Nat) (w : Word) : (c.setA r w).eng0 = c.eng0 := rfl
@[simp] theorem Core.setA_eng1 (c : Core) (r : Nat) (w : Word) : (c.setA r w).eng1 = c.eng1 := rfl
@[simp] theorem Core.setA_eng3 (c : Core) (r : Nat) (w : Word) : (c.setA r w).eng3 = c.eng3 := rfl
@[simp] theorem Core.setA_nid (c : Core) (r : Nat) (w : Word) : (c.setA r w).nid = c.nid := rfl
@[simp] theorem Core.setA_marks (c : Core) (r : Nat) (w : Word) : (c.setA r w).marks = c.marks := rfl
@[simp] theorem Core.setA_tchecks (c : Core) (r : Nat) (w : Word) : (c.setA r w).tchecks = c.tchecks := rfl
@[simp] theorem Core.setA_fills (c : Core) (r : Nat) (w : Word) : (c.setA r w).fills = c.fills := rfl
@[simp] theorem Core.setA_unit (c : Core) (r : Nat) (w : Word) : (c.setA r w).unit = c.unit := rfl
@[simp] theorem Core.setA_lastUnit (c : Core) (r : Nat) (w : Word) : (c.setA r w).lastUnit = c.lastUnit := rfl
@[simp] theorem Core.setA_errq (c : Core) (r : Nat) (w : Word) : (c.setA r w).errq = c.errq := rfl
@[simp] theorem Core.setA_stopVc (c : Core) (r : Nat) (w : Word) : (c.setA r w).stopVc = c.stopVc := rfl
@[simp] theorem Core.setA_fences (c : Core) (r : Nat) (w : Word) : (c.setA r w).fences = c.fences := rfl
@[simp] theorem Core.setA_ckRegions (c : Core) (r : Nat) (w : Word) : (c.setA r w).ckRegions = c.ckRegions := rfl

@[simp] theorem Core.setP_s (c : Core) (r : Nat) (b : Bool) : (c.setP r b).s = c.s := rfl
@[simp] theorem Core.setP_a (c : Core) (r : Nat) (b : Bool) : (c.setP r b).a = c.a := rfl
@[simp] theorem Core.setP_v (c : Core) (r : Nat) (b : Bool) : (c.setP r b).v = c.v := rfl
@[simp] theorem Core.setP_k (c : Core) (r : Nat) (b : Bool) : (c.setP r b).k = c.k := rfl
@[simp] theorem Core.setP_mp (c : Core) (r : Nat) (b : Bool) : (c.setP r b).mp = c.mp := rfl
@[simp] theorem Core.setP_fmt (c : Core) (r : Nat) (b : Bool) : (c.setP r b).fmt = c.fmt := rfl
@[simp] theorem Core.setP_mpc (c : Core) (r : Nat) (b : Bool) : (c.setP r b).mpc = c.mpc := rfl
@[simp] theorem Core.setP_pc (c : Core) (r : Nat) (b : Bool) : (c.setP r b).pc = c.pc := rfl
@[simp] theorem Core.setP_ispsel (c : Core) (r : Nat) (b : Bool) : (c.setP r b).ispsel = c.ispsel := rfl
@[simp] theorem Core.setP_loops (c : Core) (r : Nat) (b : Bool) : (c.setP r b).loops = c.loops := rfl
@[simp] theorem Core.setP_tl (c : Core) (r : Nat) (b : Bool) : (c.setP r b).tl = c.tl := rfl
@[simp] theorem Core.setP_n0 (c : Core) (r : Nat) (b : Bool) : (c.setP r b).n0 = c.n0 := rfl
@[simp] theorem Core.setP_n1 (c : Core) (r : Nat) (b : Bool) : (c.setP r b).n1 = c.n1 := rfl
@[simp] theorem Core.setP_n3 (c : Core) (r : Nat) (b : Bool) : (c.setP r b).n3 = c.n3 := rfl
@[simp] theorem Core.setP_ni (c : Core) (r : Nat) (b : Bool) : (c.setP r b).ni = c.ni := rfl
@[simp] theorem Core.setP_rnd (c : Core) (r : Nat) (b : Bool) : (c.setP r b).rnd = c.rnd := rfl
@[simp] theorem Core.setP_ports (c : Core) (r : Nat) (b : Bool) : (c.setP r b).ports = c.ports := rfl
@[simp] theorem Core.setP_gate (c : Core) (r : Nat) (b : Bool) : (c.setP r b).gate = c.gate := rfl
@[simp] theorem Core.setP_released (c : Core) (r : Nat) (b : Bool) : (c.setP r b).released = c.released := rfl
@[simp] theorem Core.setP_pend (c : Core) (r : Nat) (b : Bool) : (c.setP r b).pend = c.pend := rfl
@[simp] theorem Core.setP_recs (c : Core) (r : Nat) (b : Bool) : (c.setP r b).recs = c.recs := rfl
@[simp] theorem Core.setP_shadow (c : Core) (r : Nat) (b : Bool) : (c.setP r b).shadow = c.shadow := rfl
@[simp] theorem Core.setP_irrev (c : Core) (r : Nat) (b : Bool) : (c.setP r b).irrev = c.irrev := rfl
@[simp] theorem Core.setP_irrevNew (c : Core) (r : Nat) (b : Bool) : (c.setP r b).irrevNew = c.irrevNew := rfl
@[simp] theorem Core.setP_replay (c : Core) (r : Nat) (b : Bool) : (c.setP r b).replay = c.replay := rfl
@[simp] theorem Core.setP_regions (c : Core) (r : Nat) (b : Bool) : (c.setP r b).regions = c.regions := rfl
@[simp] theorem Core.setP_recvq (c : Core) (r : Nat) (b : Bool) : (c.setP r b).recvq = c.recvq := rfl
@[simp] theorem Core.setP_sv (c : Core) (r : Nat) (b : Bool) : (c.setP r b).sv = c.sv := rfl
@[simp] theorem Core.setP_snapen (c : Core) (r : Nat) (b : Bool) : (c.setP r b).snapen = c.snapen := rfl
@[simp] theorem Core.setP_epc (c : Core) (r : Nat) (b : Bool) : (c.setP r b).epc = c.epc := rfl
@[simp] theorem Core.setP_psv (c : Core) (r : Nat) (b : Bool) : (c.setP r b).psv = c.psv := rfl
@[simp] theorem Core.setP_ecode (c : Core) (r : Nat) (b : Bool) : (c.setP r b).ecode = c.ecode := rfl
@[simp] theorem Core.setP_svec (c : Core) (r : Nat) (b : Bool) : (c.setP r b).svec = c.svec := rfl
@[simp] theorem Core.setP_evt (c : Core) (r : Nat) (b : Bool) : (c.setP r b).evt = c.evt := rfl
@[simp] theorem Core.setP_evmask (c : Core) (r : Nat) (b : Bool) : (c.setP r b).evmask = c.evmask := rfl
@[simp] theorem Core.setP_evgtc (c : Core) (r : Nat) (b : Bool) : (c.setP r b).evgtc = c.evgtc := rfl
@[simp] theorem Core.setP_armed (c : Core) (r : Nat) (b : Bool) : (c.setP r b).armed = c.armed := rfl
@[simp] theorem Core.setP_vc (c : Core) (r : Nat) (b : Bool) : (c.setP r b).vc = c.vc := rfl
@[simp] theorem Core.setP_hold (c : Core) (r : Nat) (b : Bool) : (c.setP r b).hold = c.hold := rfl
@[simp] theorem Core.setP_holdAt (c : Core) (r : Nat) (b : Bool) : (c.setP r b).holdAt = c.holdAt := rfl
@[simp] theorem Core.setP_halted (c : Core) (r : Nat) (b : Bool) : (c.setP r b).halted = c.halted := rfl
@[simp] theorem Core.setP_stopped (c : Core) (r : Nat) (b : Bool) : (c.setP r b).stopped = c.stopped := rfl
@[simp] theorem Core.setP_idle (c : Core) (r : Nat) (b : Bool) : (c.setP r b).idle = c.idle := rfl
@[simp] theorem Core.setP_stopReq (c : Core) (r : Nat) (b : Bool) : (c.setP r b).stopReq = c.stopReq := rfl
@[simp] theorem Core.setP_inIssue (c : Core) (r : Nat) (b : Bool) : (c.setP r b).inIssue = c.inIssue := rfl
@[simp] theorem Core.setP_taken (c : Core) (r : Nat) (b : Bool) : (c.setP r b).taken = c.taken := rfl
@[simp] theorem Core.setP_loopPush (c : Core) (r : Nat) (b : Bool) : (c.setP r b).loopPush = c.loopPush := rfl
@[simp] theorem Core.setP_ckWord (c : Core) (r : Nat) (b : Bool) : (c.setP r b).ckWord = c.ckWord := rfl
@[simp] theorem Core.setP_ckVc (c : Core) (r : Nat) (b : Bool) : (c.setP r b).ckVc = c.ckVc := rfl
@[simp] theorem Core.setP_ckQp (c : Core) (r : Nat) (b : Bool) : (c.setP r b).ckQp = c.ckQp := rfl
@[simp] theorem Core.setP_ckDone (c : Core) (r : Nat) (b : Bool) : (c.setP r b).ckDone = c.ckDone := rfl
@[simp] theorem Core.setP_again (c : Core) (r : Nat) (b : Bool) : (c.setP r b).again = c.again := rfl
@[simp] theorem Core.setP_needCk (c : Core) (r : Nat) (b : Bool) : (c.setP r b).needCk = c.needCk := rfl
@[simp] theorem Core.setP_gatherAt (c : Core) (r : Nat) (b : Bool) : (c.setP r b).gatherAt = c.gatherAt := rfl
@[simp] theorem Core.setP_rest (c : Core) (r : Nat) (b : Bool) : (c.setP r b).rest = c.rest := rfl
@[simp] theorem Core.setP_late (c : Core) (r : Nat) (b : Bool) : (c.setP r b).late = c.late := rfl
@[simp] theorem Core.setP_pendFault (c : Core) (r : Nat) (b : Bool) : (c.setP r b).pendFault = c.pendFault := rfl
@[simp] theorem Core.setP_eng0 (c : Core) (r : Nat) (b : Bool) : (c.setP r b).eng0 = c.eng0 := rfl
@[simp] theorem Core.setP_eng1 (c : Core) (r : Nat) (b : Bool) : (c.setP r b).eng1 = c.eng1 := rfl
@[simp] theorem Core.setP_eng3 (c : Core) (r : Nat) (b : Bool) : (c.setP r b).eng3 = c.eng3 := rfl
@[simp] theorem Core.setP_nid (c : Core) (r : Nat) (b : Bool) : (c.setP r b).nid = c.nid := rfl
@[simp] theorem Core.setP_marks (c : Core) (r : Nat) (b : Bool) : (c.setP r b).marks = c.marks := rfl
@[simp] theorem Core.setP_tchecks (c : Core) (r : Nat) (b : Bool) : (c.setP r b).tchecks = c.tchecks := rfl
@[simp] theorem Core.setP_fills (c : Core) (r : Nat) (b : Bool) : (c.setP r b).fills = c.fills := rfl
@[simp] theorem Core.setP_unit (c : Core) (r : Nat) (b : Bool) : (c.setP r b).unit = c.unit := rfl
@[simp] theorem Core.setP_lastUnit (c : Core) (r : Nat) (b : Bool) : (c.setP r b).lastUnit = c.lastUnit := rfl
@[simp] theorem Core.setP_errq (c : Core) (r : Nat) (b : Bool) : (c.setP r b).errq = c.errq := rfl
@[simp] theorem Core.setP_stopVc (c : Core) (r : Nat) (b : Bool) : (c.setP r b).stopVc = c.stopVc := rfl
@[simp] theorem Core.setP_fences (c : Core) (r : Nat) (b : Bool) : (c.setP r b).fences = c.fences := rfl
@[simp] theorem Core.setP_ckRegions (c : Core) (r : Nat) (b : Bool) : (c.setP r b).ckRegions = c.ckRegions := rfl

@[simp] theorem Core.setTl_s (c : Core) (k : Nat) (w : Word) : (c.setTl k w).s = c.s := rfl
@[simp] theorem Core.setTl_a (c : Core) (k : Nat) (w : Word) : (c.setTl k w).a = c.a := rfl
@[simp] theorem Core.setTl_p (c : Core) (k : Nat) (w : Word) : (c.setTl k w).p = c.p := rfl
@[simp] theorem Core.setTl_v (c : Core) (k : Nat) (w : Word) : (c.setTl k w).v = c.v := rfl
@[simp] theorem Core.setTl_k (c : Core) (k : Nat) (w : Word) : (c.setTl k w).k = c.k := rfl
@[simp] theorem Core.setTl_mp (c : Core) (k : Nat) (w : Word) : (c.setTl k w).mp = c.mp := rfl
@[simp] theorem Core.setTl_fmt (c : Core) (k : Nat) (w : Word) : (c.setTl k w).fmt = c.fmt := rfl
@[simp] theorem Core.setTl_mpc (c : Core) (k : Nat) (w : Word) : (c.setTl k w).mpc = c.mpc := rfl
@[simp] theorem Core.setTl_pc (c : Core) (k : Nat) (w : Word) : (c.setTl k w).pc = c.pc := rfl
@[simp] theorem Core.setTl_ispsel (c : Core) (k : Nat) (w : Word) : (c.setTl k w).ispsel = c.ispsel := rfl
@[simp] theorem Core.setTl_loops (c : Core) (k : Nat) (w : Word) : (c.setTl k w).loops = c.loops := rfl
@[simp] theorem Core.setTl_n0 (c : Core) (k : Nat) (w : Word) : (c.setTl k w).n0 = c.n0 := rfl
@[simp] theorem Core.setTl_n1 (c : Core) (k : Nat) (w : Word) : (c.setTl k w).n1 = c.n1 := rfl
@[simp] theorem Core.setTl_n3 (c : Core) (k : Nat) (w : Word) : (c.setTl k w).n3 = c.n3 := rfl
@[simp] theorem Core.setTl_ni (c : Core) (k : Nat) (w : Word) : (c.setTl k w).ni = c.ni := rfl
@[simp] theorem Core.setTl_rnd (c : Core) (k : Nat) (w : Word) : (c.setTl k w).rnd = c.rnd := rfl
@[simp] theorem Core.setTl_ports (c : Core) (k : Nat) (w : Word) : (c.setTl k w).ports = c.ports := rfl
@[simp] theorem Core.setTl_gate (c : Core) (k : Nat) (w : Word) : (c.setTl k w).gate = c.gate := rfl
@[simp] theorem Core.setTl_released (c : Core) (k : Nat) (w : Word) : (c.setTl k w).released = c.released := rfl
@[simp] theorem Core.setTl_pend (c : Core) (k : Nat) (w : Word) : (c.setTl k w).pend = c.pend := rfl
@[simp] theorem Core.setTl_recs (c : Core) (k : Nat) (w : Word) : (c.setTl k w).recs = c.recs := rfl
@[simp] theorem Core.setTl_shadow (c : Core) (k : Nat) (w : Word) : (c.setTl k w).shadow = c.shadow := rfl
@[simp] theorem Core.setTl_irrev (c : Core) (k : Nat) (w : Word) : (c.setTl k w).irrev = c.irrev := rfl
@[simp] theorem Core.setTl_irrevNew (c : Core) (k : Nat) (w : Word) : (c.setTl k w).irrevNew = c.irrevNew := rfl
@[simp] theorem Core.setTl_replay (c : Core) (k : Nat) (w : Word) : (c.setTl k w).replay = c.replay := rfl
@[simp] theorem Core.setTl_regions (c : Core) (k : Nat) (w : Word) : (c.setTl k w).regions = c.regions := rfl
@[simp] theorem Core.setTl_recvq (c : Core) (k : Nat) (w : Word) : (c.setTl k w).recvq = c.recvq := rfl
@[simp] theorem Core.setTl_sv (c : Core) (k : Nat) (w : Word) : (c.setTl k w).sv = c.sv := rfl
@[simp] theorem Core.setTl_snapen (c : Core) (k : Nat) (w : Word) : (c.setTl k w).snapen = c.snapen := rfl
@[simp] theorem Core.setTl_epc (c : Core) (k : Nat) (w : Word) : (c.setTl k w).epc = c.epc := rfl
@[simp] theorem Core.setTl_psv (c : Core) (k : Nat) (w : Word) : (c.setTl k w).psv = c.psv := rfl
@[simp] theorem Core.setTl_ecode (c : Core) (k : Nat) (w : Word) : (c.setTl k w).ecode = c.ecode := rfl
@[simp] theorem Core.setTl_svec (c : Core) (k : Nat) (w : Word) : (c.setTl k w).svec = c.svec := rfl
@[simp] theorem Core.setTl_evt (c : Core) (k : Nat) (w : Word) : (c.setTl k w).evt = c.evt := rfl
@[simp] theorem Core.setTl_evmask (c : Core) (k : Nat) (w : Word) : (c.setTl k w).evmask = c.evmask := rfl
@[simp] theorem Core.setTl_evgtc (c : Core) (k : Nat) (w : Word) : (c.setTl k w).evgtc = c.evgtc := rfl
@[simp] theorem Core.setTl_armed (c : Core) (k : Nat) (w : Word) : (c.setTl k w).armed = c.armed := rfl
@[simp] theorem Core.setTl_vc (c : Core) (k : Nat) (w : Word) : (c.setTl k w).vc = c.vc := rfl
@[simp] theorem Core.setTl_hold (c : Core) (k : Nat) (w : Word) : (c.setTl k w).hold = c.hold := rfl
@[simp] theorem Core.setTl_holdAt (c : Core) (k : Nat) (w : Word) : (c.setTl k w).holdAt = c.holdAt := rfl
@[simp] theorem Core.setTl_halted (c : Core) (k : Nat) (w : Word) : (c.setTl k w).halted = c.halted := rfl
@[simp] theorem Core.setTl_stopped (c : Core) (k : Nat) (w : Word) : (c.setTl k w).stopped = c.stopped := rfl
@[simp] theorem Core.setTl_idle (c : Core) (k : Nat) (w : Word) : (c.setTl k w).idle = c.idle := rfl
@[simp] theorem Core.setTl_stopReq (c : Core) (k : Nat) (w : Word) : (c.setTl k w).stopReq = c.stopReq := rfl
@[simp] theorem Core.setTl_inIssue (c : Core) (k : Nat) (w : Word) : (c.setTl k w).inIssue = c.inIssue := rfl
@[simp] theorem Core.setTl_taken (c : Core) (k : Nat) (w : Word) : (c.setTl k w).taken = c.taken := rfl
@[simp] theorem Core.setTl_loopPush (c : Core) (k : Nat) (w : Word) : (c.setTl k w).loopPush = c.loopPush := rfl
@[simp] theorem Core.setTl_ckWord (c : Core) (k : Nat) (w : Word) : (c.setTl k w).ckWord = c.ckWord := rfl
@[simp] theorem Core.setTl_ckVc (c : Core) (k : Nat) (w : Word) : (c.setTl k w).ckVc = c.ckVc := rfl
@[simp] theorem Core.setTl_ckQp (c : Core) (k : Nat) (w : Word) : (c.setTl k w).ckQp = c.ckQp := rfl
@[simp] theorem Core.setTl_ckDone (c : Core) (k : Nat) (w : Word) : (c.setTl k w).ckDone = c.ckDone := rfl
@[simp] theorem Core.setTl_again (c : Core) (k : Nat) (w : Word) : (c.setTl k w).again = c.again := rfl
@[simp] theorem Core.setTl_needCk (c : Core) (k : Nat) (w : Word) : (c.setTl k w).needCk = c.needCk := rfl
@[simp] theorem Core.setTl_gatherAt (c : Core) (k : Nat) (w : Word) : (c.setTl k w).gatherAt = c.gatherAt := rfl
@[simp] theorem Core.setTl_rest (c : Core) (k : Nat) (w : Word) : (c.setTl k w).rest = c.rest := rfl
@[simp] theorem Core.setTl_late (c : Core) (k : Nat) (w : Word) : (c.setTl k w).late = c.late := rfl
@[simp] theorem Core.setTl_pendFault (c : Core) (k : Nat) (w : Word) : (c.setTl k w).pendFault = c.pendFault := rfl
@[simp] theorem Core.setTl_eng0 (c : Core) (k : Nat) (w : Word) : (c.setTl k w).eng0 = c.eng0 := rfl
@[simp] theorem Core.setTl_eng1 (c : Core) (k : Nat) (w : Word) : (c.setTl k w).eng1 = c.eng1 := rfl
@[simp] theorem Core.setTl_eng3 (c : Core) (k : Nat) (w : Word) : (c.setTl k w).eng3 = c.eng3 := rfl
@[simp] theorem Core.setTl_nid (c : Core) (k : Nat) (w : Word) : (c.setTl k w).nid = c.nid := rfl
@[simp] theorem Core.setTl_marks (c : Core) (k : Nat) (w : Word) : (c.setTl k w).marks = c.marks := rfl
@[simp] theorem Core.setTl_tchecks (c : Core) (k : Nat) (w : Word) : (c.setTl k w).tchecks = c.tchecks := rfl
@[simp] theorem Core.setTl_fills (c : Core) (k : Nat) (w : Word) : (c.setTl k w).fills = c.fills := rfl
@[simp] theorem Core.setTl_unit (c : Core) (k : Nat) (w : Word) : (c.setTl k w).unit = c.unit := rfl
@[simp] theorem Core.setTl_lastUnit (c : Core) (k : Nat) (w : Word) : (c.setTl k w).lastUnit = c.lastUnit := rfl
@[simp] theorem Core.setTl_errq (c : Core) (k : Nat) (w : Word) : (c.setTl k w).errq = c.errq := rfl
@[simp] theorem Core.setTl_stopVc (c : Core) (k : Nat) (w : Word) : (c.setTl k w).stopVc = c.stopVc := rfl
@[simp] theorem Core.setTl_fences (c : Core) (k : Nat) (w : Word) : (c.setTl k w).fences = c.fences := rfl
@[simp] theorem Core.setTl_ckRegions (c : Core) (k : Nat) (w : Word) : (c.setTl k w).ckRegions = c.ckRegions := rfl

@[simp] theorem Core.setRnd_s (c : Core) (g : Nat) (w : Word) : (c.setRnd g w).s = c.s := rfl
@[simp] theorem Core.setRnd_a (c : Core) (g : Nat) (w : Word) : (c.setRnd g w).a = c.a := rfl
@[simp] theorem Core.setRnd_p (c : Core) (g : Nat) (w : Word) : (c.setRnd g w).p = c.p := rfl
@[simp] theorem Core.setRnd_v (c : Core) (g : Nat) (w : Word) : (c.setRnd g w).v = c.v := rfl
@[simp] theorem Core.setRnd_k (c : Core) (g : Nat) (w : Word) : (c.setRnd g w).k = c.k := rfl
@[simp] theorem Core.setRnd_mp (c : Core) (g : Nat) (w : Word) : (c.setRnd g w).mp = c.mp := rfl
@[simp] theorem Core.setRnd_fmt (c : Core) (g : Nat) (w : Word) : (c.setRnd g w).fmt = c.fmt := rfl
@[simp] theorem Core.setRnd_mpc (c : Core) (g : Nat) (w : Word) : (c.setRnd g w).mpc = c.mpc := rfl
@[simp] theorem Core.setRnd_pc (c : Core) (g : Nat) (w : Word) : (c.setRnd g w).pc = c.pc := rfl
@[simp] theorem Core.setRnd_ispsel (c : Core) (g : Nat) (w : Word) : (c.setRnd g w).ispsel = c.ispsel := rfl
@[simp] theorem Core.setRnd_loops (c : Core) (g : Nat) (w : Word) : (c.setRnd g w).loops = c.loops := rfl
@[simp] theorem Core.setRnd_tl (c : Core) (g : Nat) (w : Word) : (c.setRnd g w).tl = c.tl := rfl
@[simp] theorem Core.setRnd_n0 (c : Core) (g : Nat) (w : Word) : (c.setRnd g w).n0 = c.n0 := rfl
@[simp] theorem Core.setRnd_n1 (c : Core) (g : Nat) (w : Word) : (c.setRnd g w).n1 = c.n1 := rfl
@[simp] theorem Core.setRnd_n3 (c : Core) (g : Nat) (w : Word) : (c.setRnd g w).n3 = c.n3 := rfl
@[simp] theorem Core.setRnd_ni (c : Core) (g : Nat) (w : Word) : (c.setRnd g w).ni = c.ni := rfl
@[simp] theorem Core.setRnd_ports (c : Core) (g : Nat) (w : Word) : (c.setRnd g w).ports = c.ports := rfl
@[simp] theorem Core.setRnd_gate (c : Core) (g : Nat) (w : Word) : (c.setRnd g w).gate = c.gate := rfl
@[simp] theorem Core.setRnd_released (c : Core) (g : Nat) (w : Word) : (c.setRnd g w).released = c.released := rfl
@[simp] theorem Core.setRnd_pend (c : Core) (g : Nat) (w : Word) : (c.setRnd g w).pend = c.pend := rfl
@[simp] theorem Core.setRnd_recs (c : Core) (g : Nat) (w : Word) : (c.setRnd g w).recs = c.recs := rfl
@[simp] theorem Core.setRnd_shadow (c : Core) (g : Nat) (w : Word) : (c.setRnd g w).shadow = c.shadow := rfl
@[simp] theorem Core.setRnd_irrev (c : Core) (g : Nat) (w : Word) : (c.setRnd g w).irrev = c.irrev := rfl
@[simp] theorem Core.setRnd_irrevNew (c : Core) (g : Nat) (w : Word) : (c.setRnd g w).irrevNew = c.irrevNew := rfl
@[simp] theorem Core.setRnd_replay (c : Core) (g : Nat) (w : Word) : (c.setRnd g w).replay = c.replay := rfl
@[simp] theorem Core.setRnd_regions (c : Core) (g : Nat) (w : Word) : (c.setRnd g w).regions = c.regions := rfl
@[simp] theorem Core.setRnd_recvq (c : Core) (g : Nat) (w : Word) : (c.setRnd g w).recvq = c.recvq := rfl
@[simp] theorem Core.setRnd_sv (c : Core) (g : Nat) (w : Word) : (c.setRnd g w).sv = c.sv := rfl
@[simp] theorem Core.setRnd_snapen (c : Core) (g : Nat) (w : Word) : (c.setRnd g w).snapen = c.snapen := rfl
@[simp] theorem Core.setRnd_epc (c : Core) (g : Nat) (w : Word) : (c.setRnd g w).epc = c.epc := rfl
@[simp] theorem Core.setRnd_psv (c : Core) (g : Nat) (w : Word) : (c.setRnd g w).psv = c.psv := rfl
@[simp] theorem Core.setRnd_ecode (c : Core) (g : Nat) (w : Word) : (c.setRnd g w).ecode = c.ecode := rfl
@[simp] theorem Core.setRnd_svec (c : Core) (g : Nat) (w : Word) : (c.setRnd g w).svec = c.svec := rfl
@[simp] theorem Core.setRnd_evt (c : Core) (g : Nat) (w : Word) : (c.setRnd g w).evt = c.evt := rfl
@[simp] theorem Core.setRnd_evmask (c : Core) (g : Nat) (w : Word) : (c.setRnd g w).evmask = c.evmask := rfl
@[simp] theorem Core.setRnd_evgtc (c : Core) (g : Nat) (w : Word) : (c.setRnd g w).evgtc = c.evgtc := rfl
@[simp] theorem Core.setRnd_armed (c : Core) (g : Nat) (w : Word) : (c.setRnd g w).armed = c.armed := rfl
@[simp] theorem Core.setRnd_vc (c : Core) (g : Nat) (w : Word) : (c.setRnd g w).vc = c.vc := rfl
@[simp] theorem Core.setRnd_hold (c : Core) (g : Nat) (w : Word) : (c.setRnd g w).hold = c.hold := rfl
@[simp] theorem Core.setRnd_holdAt (c : Core) (g : Nat) (w : Word) : (c.setRnd g w).holdAt = c.holdAt := rfl
@[simp] theorem Core.setRnd_halted (c : Core) (g : Nat) (w : Word) : (c.setRnd g w).halted = c.halted := rfl
@[simp] theorem Core.setRnd_stopped (c : Core) (g : Nat) (w : Word) : (c.setRnd g w).stopped = c.stopped := rfl
@[simp] theorem Core.setRnd_idle (c : Core) (g : Nat) (w : Word) : (c.setRnd g w).idle = c.idle := rfl
@[simp] theorem Core.setRnd_stopReq (c : Core) (g : Nat) (w : Word) : (c.setRnd g w).stopReq = c.stopReq := rfl
@[simp] theorem Core.setRnd_inIssue (c : Core) (g : Nat) (w : Word) : (c.setRnd g w).inIssue = c.inIssue := rfl
@[simp] theorem Core.setRnd_taken (c : Core) (g : Nat) (w : Word) : (c.setRnd g w).taken = c.taken := rfl
@[simp] theorem Core.setRnd_loopPush (c : Core) (g : Nat) (w : Word) : (c.setRnd g w).loopPush = c.loopPush := rfl
@[simp] theorem Core.setRnd_ckWord (c : Core) (g : Nat) (w : Word) : (c.setRnd g w).ckWord = c.ckWord := rfl
@[simp] theorem Core.setRnd_ckVc (c : Core) (g : Nat) (w : Word) : (c.setRnd g w).ckVc = c.ckVc := rfl
@[simp] theorem Core.setRnd_ckQp (c : Core) (g : Nat) (w : Word) : (c.setRnd g w).ckQp = c.ckQp := rfl
@[simp] theorem Core.setRnd_ckDone (c : Core) (g : Nat) (w : Word) : (c.setRnd g w).ckDone = c.ckDone := rfl
@[simp] theorem Core.setRnd_again (c : Core) (g : Nat) (w : Word) : (c.setRnd g w).again = c.again := rfl
@[simp] theorem Core.setRnd_needCk (c : Core) (g : Nat) (w : Word) : (c.setRnd g w).needCk = c.needCk := rfl
@[simp] theorem Core.setRnd_gatherAt (c : Core) (g : Nat) (w : Word) : (c.setRnd g w).gatherAt = c.gatherAt := rfl
@[simp] theorem Core.setRnd_rest (c : Core) (g : Nat) (w : Word) : (c.setRnd g w).rest = c.rest := rfl
@[simp] theorem Core.setRnd_late (c : Core) (g : Nat) (w : Word) : (c.setRnd g w).late = c.late := rfl
@[simp] theorem Core.setRnd_pendFault (c : Core) (g : Nat) (w : Word) : (c.setRnd g w).pendFault = c.pendFault := rfl
@[simp] theorem Core.setRnd_eng0 (c : Core) (g : Nat) (w : Word) : (c.setRnd g w).eng0 = c.eng0 := rfl
@[simp] theorem Core.setRnd_eng1 (c : Core) (g : Nat) (w : Word) : (c.setRnd g w).eng1 = c.eng1 := rfl
@[simp] theorem Core.setRnd_eng3 (c : Core) (g : Nat) (w : Word) : (c.setRnd g w).eng3 = c.eng3 := rfl
@[simp] theorem Core.setRnd_nid (c : Core) (g : Nat) (w : Word) : (c.setRnd g w).nid = c.nid := rfl
@[simp] theorem Core.setRnd_marks (c : Core) (g : Nat) (w : Word) : (c.setRnd g w).marks = c.marks := rfl
@[simp] theorem Core.setRnd_tchecks (c : Core) (g : Nat) (w : Word) : (c.setRnd g w).tchecks = c.tchecks := rfl
@[simp] theorem Core.setRnd_fills (c : Core) (g : Nat) (w : Word) : (c.setRnd g w).fills = c.fills := rfl
@[simp] theorem Core.setRnd_unit (c : Core) (g : Nat) (w : Word) : (c.setRnd g w).unit = c.unit := rfl
@[simp] theorem Core.setRnd_lastUnit (c : Core) (g : Nat) (w : Word) : (c.setRnd g w).lastUnit = c.lastUnit := rfl
@[simp] theorem Core.setRnd_errq (c : Core) (g : Nat) (w : Word) : (c.setRnd g w).errq = c.errq := rfl
@[simp] theorem Core.setRnd_stopVc (c : Core) (g : Nat) (w : Word) : (c.setRnd g w).stopVc = c.stopVc := rfl
@[simp] theorem Core.setRnd_fences (c : Core) (g : Nat) (w : Word) : (c.setRnd g w).fences = c.fences := rfl
@[simp] theorem Core.setRnd_ckRegions (c : Core) (g : Nat) (w : Word) : (c.setRnd g w).ckRegions = c.ckRegions := rfl

@[simp] theorem Core.setPort_s (c : Core) (q : Nat) (x : Port) : (c.setPort q x).s = c.s := rfl
@[simp] theorem Core.setPort_a (c : Core) (q : Nat) (x : Port) : (c.setPort q x).a = c.a := rfl
@[simp] theorem Core.setPort_p (c : Core) (q : Nat) (x : Port) : (c.setPort q x).p = c.p := rfl
@[simp] theorem Core.setPort_v (c : Core) (q : Nat) (x : Port) : (c.setPort q x).v = c.v := rfl
@[simp] theorem Core.setPort_k (c : Core) (q : Nat) (x : Port) : (c.setPort q x).k = c.k := rfl
@[simp] theorem Core.setPort_mp (c : Core) (q : Nat) (x : Port) : (c.setPort q x).mp = c.mp := rfl
@[simp] theorem Core.setPort_fmt (c : Core) (q : Nat) (x : Port) : (c.setPort q x).fmt = c.fmt := rfl
@[simp] theorem Core.setPort_mpc (c : Core) (q : Nat) (x : Port) : (c.setPort q x).mpc = c.mpc := rfl
@[simp] theorem Core.setPort_pc (c : Core) (q : Nat) (x : Port) : (c.setPort q x).pc = c.pc := rfl
@[simp] theorem Core.setPort_ispsel (c : Core) (q : Nat) (x : Port) : (c.setPort q x).ispsel = c.ispsel := rfl
@[simp] theorem Core.setPort_loops (c : Core) (q : Nat) (x : Port) : (c.setPort q x).loops = c.loops := rfl
@[simp] theorem Core.setPort_tl (c : Core) (q : Nat) (x : Port) : (c.setPort q x).tl = c.tl := rfl
@[simp] theorem Core.setPort_n0 (c : Core) (q : Nat) (x : Port) : (c.setPort q x).n0 = c.n0 := rfl
@[simp] theorem Core.setPort_n1 (c : Core) (q : Nat) (x : Port) : (c.setPort q x).n1 = c.n1 := rfl
@[simp] theorem Core.setPort_n3 (c : Core) (q : Nat) (x : Port) : (c.setPort q x).n3 = c.n3 := rfl
@[simp] theorem Core.setPort_ni (c : Core) (q : Nat) (x : Port) : (c.setPort q x).ni = c.ni := rfl
@[simp] theorem Core.setPort_rnd (c : Core) (q : Nat) (x : Port) : (c.setPort q x).rnd = c.rnd := rfl
@[simp] theorem Core.setPort_gate (c : Core) (q : Nat) (x : Port) : (c.setPort q x).gate = c.gate := rfl
@[simp] theorem Core.setPort_released (c : Core) (q : Nat) (x : Port) : (c.setPort q x).released = c.released := rfl
@[simp] theorem Core.setPort_pend (c : Core) (q : Nat) (x : Port) : (c.setPort q x).pend = c.pend := rfl
@[simp] theorem Core.setPort_recs (c : Core) (q : Nat) (x : Port) : (c.setPort q x).recs = c.recs := rfl
@[simp] theorem Core.setPort_shadow (c : Core) (q : Nat) (x : Port) : (c.setPort q x).shadow = c.shadow := rfl
@[simp] theorem Core.setPort_irrev (c : Core) (q : Nat) (x : Port) : (c.setPort q x).irrev = c.irrev := rfl
@[simp] theorem Core.setPort_irrevNew (c : Core) (q : Nat) (x : Port) : (c.setPort q x).irrevNew = c.irrevNew := rfl
@[simp] theorem Core.setPort_replay (c : Core) (q : Nat) (x : Port) : (c.setPort q x).replay = c.replay := rfl
@[simp] theorem Core.setPort_regions (c : Core) (q : Nat) (x : Port) : (c.setPort q x).regions = c.regions := rfl
@[simp] theorem Core.setPort_recvq (c : Core) (q : Nat) (x : Port) : (c.setPort q x).recvq = c.recvq := rfl
@[simp] theorem Core.setPort_sv (c : Core) (q : Nat) (x : Port) : (c.setPort q x).sv = c.sv := rfl
@[simp] theorem Core.setPort_snapen (c : Core) (q : Nat) (x : Port) : (c.setPort q x).snapen = c.snapen := rfl
@[simp] theorem Core.setPort_epc (c : Core) (q : Nat) (x : Port) : (c.setPort q x).epc = c.epc := rfl
@[simp] theorem Core.setPort_psv (c : Core) (q : Nat) (x : Port) : (c.setPort q x).psv = c.psv := rfl
@[simp] theorem Core.setPort_ecode (c : Core) (q : Nat) (x : Port) : (c.setPort q x).ecode = c.ecode := rfl
@[simp] theorem Core.setPort_svec (c : Core) (q : Nat) (x : Port) : (c.setPort q x).svec = c.svec := rfl
@[simp] theorem Core.setPort_evt (c : Core) (q : Nat) (x : Port) : (c.setPort q x).evt = c.evt := rfl
@[simp] theorem Core.setPort_evmask (c : Core) (q : Nat) (x : Port) : (c.setPort q x).evmask = c.evmask := rfl
@[simp] theorem Core.setPort_evgtc (c : Core) (q : Nat) (x : Port) : (c.setPort q x).evgtc = c.evgtc := rfl
@[simp] theorem Core.setPort_armed (c : Core) (q : Nat) (x : Port) : (c.setPort q x).armed = c.armed := rfl
@[simp] theorem Core.setPort_vc (c : Core) (q : Nat) (x : Port) : (c.setPort q x).vc = c.vc := rfl
@[simp] theorem Core.setPort_hold (c : Core) (q : Nat) (x : Port) : (c.setPort q x).hold = c.hold := rfl
@[simp] theorem Core.setPort_holdAt (c : Core) (q : Nat) (x : Port) : (c.setPort q x).holdAt = c.holdAt := rfl
@[simp] theorem Core.setPort_halted (c : Core) (q : Nat) (x : Port) : (c.setPort q x).halted = c.halted := rfl
@[simp] theorem Core.setPort_stopped (c : Core) (q : Nat) (x : Port) : (c.setPort q x).stopped = c.stopped := rfl
@[simp] theorem Core.setPort_idle (c : Core) (q : Nat) (x : Port) : (c.setPort q x).idle = c.idle := rfl
@[simp] theorem Core.setPort_stopReq (c : Core) (q : Nat) (x : Port) : (c.setPort q x).stopReq = c.stopReq := rfl
@[simp] theorem Core.setPort_inIssue (c : Core) (q : Nat) (x : Port) : (c.setPort q x).inIssue = c.inIssue := rfl
@[simp] theorem Core.setPort_taken (c : Core) (q : Nat) (x : Port) : (c.setPort q x).taken = c.taken := rfl
@[simp] theorem Core.setPort_loopPush (c : Core) (q : Nat) (x : Port) : (c.setPort q x).loopPush = c.loopPush := rfl
@[simp] theorem Core.setPort_ckWord (c : Core) (q : Nat) (x : Port) : (c.setPort q x).ckWord = c.ckWord := rfl
@[simp] theorem Core.setPort_ckVc (c : Core) (q : Nat) (x : Port) : (c.setPort q x).ckVc = c.ckVc := rfl
@[simp] theorem Core.setPort_ckQp (c : Core) (q : Nat) (x : Port) : (c.setPort q x).ckQp = c.ckQp := rfl
@[simp] theorem Core.setPort_ckDone (c : Core) (q : Nat) (x : Port) : (c.setPort q x).ckDone = c.ckDone := rfl
@[simp] theorem Core.setPort_again (c : Core) (q : Nat) (x : Port) : (c.setPort q x).again = c.again := rfl
@[simp] theorem Core.setPort_needCk (c : Core) (q : Nat) (x : Port) : (c.setPort q x).needCk = c.needCk := rfl
@[simp] theorem Core.setPort_gatherAt (c : Core) (q : Nat) (x : Port) : (c.setPort q x).gatherAt = c.gatherAt := rfl
@[simp] theorem Core.setPort_rest (c : Core) (q : Nat) (x : Port) : (c.setPort q x).rest = c.rest := rfl
@[simp] theorem Core.setPort_late (c : Core) (q : Nat) (x : Port) : (c.setPort q x).late = c.late := rfl
@[simp] theorem Core.setPort_pendFault (c : Core) (q : Nat) (x : Port) : (c.setPort q x).pendFault = c.pendFault := rfl
@[simp] theorem Core.setPort_eng0 (c : Core) (q : Nat) (x : Port) : (c.setPort q x).eng0 = c.eng0 := rfl
@[simp] theorem Core.setPort_eng1 (c : Core) (q : Nat) (x : Port) : (c.setPort q x).eng1 = c.eng1 := rfl
@[simp] theorem Core.setPort_eng3 (c : Core) (q : Nat) (x : Port) : (c.setPort q x).eng3 = c.eng3 := rfl
@[simp] theorem Core.setPort_nid (c : Core) (q : Nat) (x : Port) : (c.setPort q x).nid = c.nid := rfl
@[simp] theorem Core.setPort_marks (c : Core) (q : Nat) (x : Port) : (c.setPort q x).marks = c.marks := rfl
@[simp] theorem Core.setPort_tchecks (c : Core) (q : Nat) (x : Port) : (c.setPort q x).tchecks = c.tchecks := rfl
@[simp] theorem Core.setPort_fills (c : Core) (q : Nat) (x : Port) : (c.setPort q x).fills = c.fills := rfl
@[simp] theorem Core.setPort_unit (c : Core) (q : Nat) (x : Port) : (c.setPort q x).unit = c.unit := rfl
@[simp] theorem Core.setPort_lastUnit (c : Core) (q : Nat) (x : Port) : (c.setPort q x).lastUnit = c.lastUnit := rfl
@[simp] theorem Core.setPort_errq (c : Core) (q : Nat) (x : Port) : (c.setPort q x).errq = c.errq := rfl
@[simp] theorem Core.setPort_stopVc (c : Core) (q : Nat) (x : Port) : (c.setPort q x).stopVc = c.stopVc := rfl
@[simp] theorem Core.setPort_fences (c : Core) (q : Nat) (x : Port) : (c.setPort q x).fences = c.fences := rfl
@[simp] theorem Core.setPort_ckRegions (c : Core) (q : Nat) (x : Port) : (c.setPort q x).ckRegions = c.ckRegions := rfl

@[simp] theorem Core.land_s (c : Core) (o : BitVec 4) (d : Dest) (x : Src) (n : Nat) : (c.land o d x n).s = c.s := rfl
@[simp] theorem Core.land_a (c : Core) (o : BitVec 4) (d : Dest) (x : Src) (n : Nat) : (c.land o d x n).a = c.a := rfl
@[simp] theorem Core.land_p (c : Core) (o : BitVec 4) (d : Dest) (x : Src) (n : Nat) : (c.land o d x n).p = c.p := rfl
@[simp] theorem Core.land_v (c : Core) (o : BitVec 4) (d : Dest) (x : Src) (n : Nat) : (c.land o d x n).v = c.v := rfl
@[simp] theorem Core.land_k (c : Core) (o : BitVec 4) (d : Dest) (x : Src) (n : Nat) : (c.land o d x n).k = c.k := rfl
@[simp] theorem Core.land_mp (c : Core) (o : BitVec 4) (d : Dest) (x : Src) (n : Nat) : (c.land o d x n).mp = c.mp := rfl
@[simp] theorem Core.land_fmt (c : Core) (o : BitVec 4) (d : Dest) (x : Src) (n : Nat) : (c.land o d x n).fmt = c.fmt := rfl
@[simp] theorem Core.land_mpc (c : Core) (o : BitVec 4) (d : Dest) (x : Src) (n : Nat) : (c.land o d x n).mpc = c.mpc := rfl
@[simp] theorem Core.land_pc (c : Core) (o : BitVec 4) (d : Dest) (x : Src) (n : Nat) : (c.land o d x n).pc = c.pc := rfl
@[simp] theorem Core.land_ispsel (c : Core) (o : BitVec 4) (d : Dest) (x : Src) (n : Nat) : (c.land o d x n).ispsel = c.ispsel := rfl
@[simp] theorem Core.land_loops (c : Core) (o : BitVec 4) (d : Dest) (x : Src) (n : Nat) : (c.land o d x n).loops = c.loops := rfl
@[simp] theorem Core.land_tl (c : Core) (o : BitVec 4) (d : Dest) (x : Src) (n : Nat) : (c.land o d x n).tl = c.tl := rfl
@[simp] theorem Core.land_n0 (c : Core) (o : BitVec 4) (d : Dest) (x : Src) (n : Nat) : (c.land o d x n).n0 = c.n0 := rfl
@[simp] theorem Core.land_n1 (c : Core) (o : BitVec 4) (d : Dest) (x : Src) (n : Nat) : (c.land o d x n).n1 = c.n1 := rfl
@[simp] theorem Core.land_n3 (c : Core) (o : BitVec 4) (d : Dest) (x : Src) (n : Nat) : (c.land o d x n).n3 = c.n3 := rfl
@[simp] theorem Core.land_ni (c : Core) (o : BitVec 4) (d : Dest) (x : Src) (n : Nat) : (c.land o d x n).ni = c.ni := rfl
@[simp] theorem Core.land_rnd (c : Core) (o : BitVec 4) (d : Dest) (x : Src) (n : Nat) : (c.land o d x n).rnd = c.rnd := rfl
@[simp] theorem Core.land_ports (c : Core) (o : BitVec 4) (d : Dest) (x : Src) (n : Nat) : (c.land o d x n).ports = c.ports := rfl
@[simp] theorem Core.land_gate (c : Core) (o : BitVec 4) (d : Dest) (x : Src) (n : Nat) : (c.land o d x n).gate = c.gate := rfl
@[simp] theorem Core.land_released (c : Core) (o : BitVec 4) (d : Dest) (x : Src) (n : Nat) : (c.land o d x n).released = c.released := rfl
@[simp] theorem Core.land_recs (c : Core) (o : BitVec 4) (d : Dest) (x : Src) (n : Nat) : (c.land o d x n).recs = c.recs := rfl
@[simp] theorem Core.land_shadow (c : Core) (o : BitVec 4) (d : Dest) (x : Src) (n : Nat) : (c.land o d x n).shadow = c.shadow := rfl
@[simp] theorem Core.land_irrev (c : Core) (o : BitVec 4) (d : Dest) (x : Src) (n : Nat) : (c.land o d x n).irrev = c.irrev := rfl
@[simp] theorem Core.land_irrevNew (c : Core) (o : BitVec 4) (d : Dest) (x : Src) (n : Nat) : (c.land o d x n).irrevNew = c.irrevNew := rfl
@[simp] theorem Core.land_replay (c : Core) (o : BitVec 4) (d : Dest) (x : Src) (n : Nat) : (c.land o d x n).replay = c.replay := rfl
@[simp] theorem Core.land_regions (c : Core) (o : BitVec 4) (d : Dest) (x : Src) (n : Nat) : (c.land o d x n).regions = c.regions := rfl
@[simp] theorem Core.land_recvq (c : Core) (o : BitVec 4) (d : Dest) (x : Src) (n : Nat) : (c.land o d x n).recvq = c.recvq := rfl
@[simp] theorem Core.land_sv (c : Core) (o : BitVec 4) (d : Dest) (x : Src) (n : Nat) : (c.land o d x n).sv = c.sv := rfl
@[simp] theorem Core.land_snapen (c : Core) (o : BitVec 4) (d : Dest) (x : Src) (n : Nat) : (c.land o d x n).snapen = c.snapen := rfl
@[simp] theorem Core.land_epc (c : Core) (o : BitVec 4) (d : Dest) (x : Src) (n : Nat) : (c.land o d x n).epc = c.epc := rfl
@[simp] theorem Core.land_psv (c : Core) (o : BitVec 4) (d : Dest) (x : Src) (n : Nat) : (c.land o d x n).psv = c.psv := rfl
@[simp] theorem Core.land_ecode (c : Core) (o : BitVec 4) (d : Dest) (x : Src) (n : Nat) : (c.land o d x n).ecode = c.ecode := rfl
@[simp] theorem Core.land_svec (c : Core) (o : BitVec 4) (d : Dest) (x : Src) (n : Nat) : (c.land o d x n).svec = c.svec := rfl
@[simp] theorem Core.land_evt (c : Core) (o : BitVec 4) (d : Dest) (x : Src) (n : Nat) : (c.land o d x n).evt = c.evt := rfl
@[simp] theorem Core.land_evmask (c : Core) (o : BitVec 4) (d : Dest) (x : Src) (n : Nat) : (c.land o d x n).evmask = c.evmask := rfl
@[simp] theorem Core.land_evgtc (c : Core) (o : BitVec 4) (d : Dest) (x : Src) (n : Nat) : (c.land o d x n).evgtc = c.evgtc := rfl
@[simp] theorem Core.land_armed (c : Core) (o : BitVec 4) (d : Dest) (x : Src) (n : Nat) : (c.land o d x n).armed = c.armed := rfl
@[simp] theorem Core.land_vc (c : Core) (o : BitVec 4) (d : Dest) (x : Src) (n : Nat) : (c.land o d x n).vc = c.vc := rfl
@[simp] theorem Core.land_hold (c : Core) (o : BitVec 4) (d : Dest) (x : Src) (n : Nat) : (c.land o d x n).hold = c.hold := rfl
@[simp] theorem Core.land_holdAt (c : Core) (o : BitVec 4) (d : Dest) (x : Src) (n : Nat) : (c.land o d x n).holdAt = c.holdAt := rfl
@[simp] theorem Core.land_halted (c : Core) (o : BitVec 4) (d : Dest) (x : Src) (n : Nat) : (c.land o d x n).halted = c.halted := rfl
@[simp] theorem Core.land_stopped (c : Core) (o : BitVec 4) (d : Dest) (x : Src) (n : Nat) : (c.land o d x n).stopped = c.stopped := rfl
@[simp] theorem Core.land_idle (c : Core) (o : BitVec 4) (d : Dest) (x : Src) (n : Nat) : (c.land o d x n).idle = c.idle := rfl
@[simp] theorem Core.land_stopReq (c : Core) (o : BitVec 4) (d : Dest) (x : Src) (n : Nat) : (c.land o d x n).stopReq = c.stopReq := rfl
@[simp] theorem Core.land_inIssue (c : Core) (o : BitVec 4) (d : Dest) (x : Src) (n : Nat) : (c.land o d x n).inIssue = c.inIssue := rfl
@[simp] theorem Core.land_taken (c : Core) (o : BitVec 4) (d : Dest) (x : Src) (n : Nat) : (c.land o d x n).taken = c.taken := rfl
@[simp] theorem Core.land_loopPush (c : Core) (o : BitVec 4) (d : Dest) (x : Src) (n : Nat) : (c.land o d x n).loopPush = c.loopPush := rfl
@[simp] theorem Core.land_ckWord (c : Core) (o : BitVec 4) (d : Dest) (x : Src) (n : Nat) : (c.land o d x n).ckWord = c.ckWord := rfl
@[simp] theorem Core.land_ckVc (c : Core) (o : BitVec 4) (d : Dest) (x : Src) (n : Nat) : (c.land o d x n).ckVc = c.ckVc := rfl
@[simp] theorem Core.land_ckQp (c : Core) (o : BitVec 4) (d : Dest) (x : Src) (n : Nat) : (c.land o d x n).ckQp = c.ckQp := rfl
@[simp] theorem Core.land_ckDone (c : Core) (o : BitVec 4) (d : Dest) (x : Src) (n : Nat) : (c.land o d x n).ckDone = c.ckDone := rfl
@[simp] theorem Core.land_again (c : Core) (o : BitVec 4) (d : Dest) (x : Src) (n : Nat) : (c.land o d x n).again = c.again := rfl
@[simp] theorem Core.land_needCk (c : Core) (o : BitVec 4) (d : Dest) (x : Src) (n : Nat) : (c.land o d x n).needCk = c.needCk := rfl
@[simp] theorem Core.land_gatherAt (c : Core) (o : BitVec 4) (d : Dest) (x : Src) (n : Nat) : (c.land o d x n).gatherAt = c.gatherAt := rfl
@[simp] theorem Core.land_rest (c : Core) (o : BitVec 4) (d : Dest) (x : Src) (n : Nat) : (c.land o d x n).rest = c.rest := rfl
@[simp] theorem Core.land_late (c : Core) (o : BitVec 4) (d : Dest) (x : Src) (n : Nat) : (c.land o d x n).late = c.late := rfl
@[simp] theorem Core.land_pendFault (c : Core) (o : BitVec 4) (d : Dest) (x : Src) (n : Nat) : (c.land o d x n).pendFault = c.pendFault := rfl
@[simp] theorem Core.land_eng0 (c : Core) (o : BitVec 4) (d : Dest) (x : Src) (n : Nat) : (c.land o d x n).eng0 = c.eng0 := rfl
@[simp] theorem Core.land_eng1 (c : Core) (o : BitVec 4) (d : Dest) (x : Src) (n : Nat) : (c.land o d x n).eng1 = c.eng1 := rfl
@[simp] theorem Core.land_eng3 (c : Core) (o : BitVec 4) (d : Dest) (x : Src) (n : Nat) : (c.land o d x n).eng3 = c.eng3 := rfl
@[simp] theorem Core.land_nid (c : Core) (o : BitVec 4) (d : Dest) (x : Src) (n : Nat) : (c.land o d x n).nid = c.nid := rfl
@[simp] theorem Core.land_marks (c : Core) (o : BitVec 4) (d : Dest) (x : Src) (n : Nat) : (c.land o d x n).marks = c.marks := rfl
@[simp] theorem Core.land_tchecks (c : Core) (o : BitVec 4) (d : Dest) (x : Src) (n : Nat) : (c.land o d x n).tchecks = c.tchecks := rfl
@[simp] theorem Core.land_fills (c : Core) (o : BitVec 4) (d : Dest) (x : Src) (n : Nat) : (c.land o d x n).fills = c.fills := rfl
@[simp] theorem Core.land_unit (c : Core) (o : BitVec 4) (d : Dest) (x : Src) (n : Nat) : (c.land o d x n).unit = c.unit := rfl
@[simp] theorem Core.land_lastUnit (c : Core) (o : BitVec 4) (d : Dest) (x : Src) (n : Nat) : (c.land o d x n).lastUnit = c.lastUnit := rfl
@[simp] theorem Core.land_errq (c : Core) (o : BitVec 4) (d : Dest) (x : Src) (n : Nat) : (c.land o d x n).errq = c.errq := rfl
@[simp] theorem Core.land_stopVc (c : Core) (o : BitVec 4) (d : Dest) (x : Src) (n : Nat) : (c.land o d x n).stopVc = c.stopVc := rfl
@[simp] theorem Core.land_fences (c : Core) (o : BitVec 4) (d : Dest) (x : Src) (n : Nat) : (c.land o d x n).fences = c.fences := rfl
@[simp] theorem Core.land_ckRegions (c : Core) (o : BitVec 4) (d : Dest) (x : Src) (n : Nat) : (c.land o d x n).ckRegions = c.ckRegions := rfl

@[simp] theorem Core.enterTrap_s (c : Core) (w : Word) (x : BitVec 16) : (c.enterTrap w x).s = c.s := rfl
@[simp] theorem Core.enterTrap_a (c : Core) (w : Word) (x : BitVec 16) : (c.enterTrap w x).a = c.a := rfl
@[simp] theorem Core.enterTrap_p (c : Core) (w : Word) (x : BitVec 16) : (c.enterTrap w x).p = c.p := rfl
@[simp] theorem Core.enterTrap_v (c : Core) (w : Word) (x : BitVec 16) : (c.enterTrap w x).v = c.v := rfl
@[simp] theorem Core.enterTrap_k (c : Core) (w : Word) (x : BitVec 16) : (c.enterTrap w x).k = c.k := rfl
@[simp] theorem Core.enterTrap_mp (c : Core) (w : Word) (x : BitVec 16) : (c.enterTrap w x).mp = c.mp := rfl
@[simp] theorem Core.enterTrap_fmt (c : Core) (w : Word) (x : BitVec 16) : (c.enterTrap w x).fmt = c.fmt := rfl
@[simp] theorem Core.enterTrap_mpc (c : Core) (w : Word) (x : BitVec 16) : (c.enterTrap w x).mpc = c.mpc := rfl
@[simp] theorem Core.enterTrap_pc (c : Core) (w : Word) (x : BitVec 16) : (c.enterTrap w x).pc = c.pc := rfl
@[simp] theorem Core.enterTrap_ispsel (c : Core) (w : Word) (x : BitVec 16) : (c.enterTrap w x).ispsel = c.ispsel := rfl
@[simp] theorem Core.enterTrap_loops (c : Core) (w : Word) (x : BitVec 16) : (c.enterTrap w x).loops = c.loops := rfl
@[simp] theorem Core.enterTrap_tl (c : Core) (w : Word) (x : BitVec 16) : (c.enterTrap w x).tl = c.tl := rfl
@[simp] theorem Core.enterTrap_n0 (c : Core) (w : Word) (x : BitVec 16) : (c.enterTrap w x).n0 = c.n0 := rfl
@[simp] theorem Core.enterTrap_n1 (c : Core) (w : Word) (x : BitVec 16) : (c.enterTrap w x).n1 = c.n1 := rfl
@[simp] theorem Core.enterTrap_n3 (c : Core) (w : Word) (x : BitVec 16) : (c.enterTrap w x).n3 = c.n3 := rfl
@[simp] theorem Core.enterTrap_ni (c : Core) (w : Word) (x : BitVec 16) : (c.enterTrap w x).ni = c.ni := rfl
@[simp] theorem Core.enterTrap_rnd (c : Core) (w : Word) (x : BitVec 16) : (c.enterTrap w x).rnd = c.rnd := rfl
@[simp] theorem Core.enterTrap_ports (c : Core) (w : Word) (x : BitVec 16) : (c.enterTrap w x).ports = c.ports := rfl
@[simp] theorem Core.enterTrap_gate (c : Core) (w : Word) (x : BitVec 16) : (c.enterTrap w x).gate = c.gate := rfl
@[simp] theorem Core.enterTrap_released (c : Core) (w : Word) (x : BitVec 16) : (c.enterTrap w x).released = c.released := rfl
@[simp] theorem Core.enterTrap_pend (c : Core) (w : Word) (x : BitVec 16) : (c.enterTrap w x).pend = c.pend := rfl
@[simp] theorem Core.enterTrap_recs (c : Core) (w : Word) (x : BitVec 16) : (c.enterTrap w x).recs = c.recs := rfl
@[simp] theorem Core.enterTrap_shadow (c : Core) (w : Word) (x : BitVec 16) : (c.enterTrap w x).shadow = c.shadow := rfl
@[simp] theorem Core.enterTrap_irrev (c : Core) (w : Word) (x : BitVec 16) : (c.enterTrap w x).irrev = c.irrev := rfl
@[simp] theorem Core.enterTrap_irrevNew (c : Core) (w : Word) (x : BitVec 16) : (c.enterTrap w x).irrevNew = c.irrevNew := rfl
@[simp] theorem Core.enterTrap_replay (c : Core) (w : Word) (x : BitVec 16) : (c.enterTrap w x).replay = c.replay := rfl
@[simp] theorem Core.enterTrap_regions (c : Core) (w : Word) (x : BitVec 16) : (c.enterTrap w x).regions = c.regions := rfl
@[simp] theorem Core.enterTrap_recvq (c : Core) (w : Word) (x : BitVec 16) : (c.enterTrap w x).recvq = c.recvq := rfl
@[simp] theorem Core.enterTrap_snapen (c : Core) (w : Word) (x : BitVec 16) : (c.enterTrap w x).snapen = c.snapen := rfl
@[simp] theorem Core.enterTrap_svec (c : Core) (w : Word) (x : BitVec 16) : (c.enterTrap w x).svec = c.svec := rfl
@[simp] theorem Core.enterTrap_evt (c : Core) (w : Word) (x : BitVec 16) : (c.enterTrap w x).evt = c.evt := rfl
@[simp] theorem Core.enterTrap_evmask (c : Core) (w : Word) (x : BitVec 16) : (c.enterTrap w x).evmask = c.evmask := rfl
@[simp] theorem Core.enterTrap_evgtc (c : Core) (w : Word) (x : BitVec 16) : (c.enterTrap w x).evgtc = c.evgtc := rfl
@[simp] theorem Core.enterTrap_armed (c : Core) (w : Word) (x : BitVec 16) : (c.enterTrap w x).armed = c.armed := rfl
@[simp] theorem Core.enterTrap_vc (c : Core) (w : Word) (x : BitVec 16) : (c.enterTrap w x).vc = c.vc := rfl
@[simp] theorem Core.enterTrap_hold (c : Core) (w : Word) (x : BitVec 16) : (c.enterTrap w x).hold = c.hold := rfl
@[simp] theorem Core.enterTrap_holdAt (c : Core) (w : Word) (x : BitVec 16) : (c.enterTrap w x).holdAt = c.holdAt := rfl
@[simp] theorem Core.enterTrap_halted (c : Core) (w : Word) (x : BitVec 16) : (c.enterTrap w x).halted = c.halted := rfl
@[simp] theorem Core.enterTrap_stopped (c : Core) (w : Word) (x : BitVec 16) : (c.enterTrap w x).stopped = c.stopped := rfl
@[simp] theorem Core.enterTrap_idle (c : Core) (w : Word) (x : BitVec 16) : (c.enterTrap w x).idle = c.idle := rfl
@[simp] theorem Core.enterTrap_stopReq (c : Core) (w : Word) (x : BitVec 16) : (c.enterTrap w x).stopReq = c.stopReq := rfl
@[simp] theorem Core.enterTrap_inIssue (c : Core) (w : Word) (x : BitVec 16) : (c.enterTrap w x).inIssue = c.inIssue := rfl
@[simp] theorem Core.enterTrap_taken (c : Core) (w : Word) (x : BitVec 16) : (c.enterTrap w x).taken = c.taken := rfl
@[simp] theorem Core.enterTrap_loopPush (c : Core) (w : Word) (x : BitVec 16) : (c.enterTrap w x).loopPush = c.loopPush := rfl
@[simp] theorem Core.enterTrap_ckWord (c : Core) (w : Word) (x : BitVec 16) : (c.enterTrap w x).ckWord = c.ckWord := rfl
@[simp] theorem Core.enterTrap_ckVc (c : Core) (w : Word) (x : BitVec 16) : (c.enterTrap w x).ckVc = c.ckVc := rfl
@[simp] theorem Core.enterTrap_ckQp (c : Core) (w : Word) (x : BitVec 16) : (c.enterTrap w x).ckQp = c.ckQp := rfl
@[simp] theorem Core.enterTrap_ckDone (c : Core) (w : Word) (x : BitVec 16) : (c.enterTrap w x).ckDone = c.ckDone := rfl
@[simp] theorem Core.enterTrap_again (c : Core) (w : Word) (x : BitVec 16) : (c.enterTrap w x).again = c.again := rfl
@[simp] theorem Core.enterTrap_needCk (c : Core) (w : Word) (x : BitVec 16) : (c.enterTrap w x).needCk = c.needCk := rfl
@[simp] theorem Core.enterTrap_gatherAt (c : Core) (w : Word) (x : BitVec 16) : (c.enterTrap w x).gatherAt = c.gatherAt := rfl
@[simp] theorem Core.enterTrap_rest (c : Core) (w : Word) (x : BitVec 16) : (c.enterTrap w x).rest = c.rest := rfl
@[simp] theorem Core.enterTrap_late (c : Core) (w : Word) (x : BitVec 16) : (c.enterTrap w x).late = c.late := rfl
@[simp] theorem Core.enterTrap_pendFault (c : Core) (w : Word) (x : BitVec 16) : (c.enterTrap w x).pendFault = c.pendFault := rfl
@[simp] theorem Core.enterTrap_eng0 (c : Core) (w : Word) (x : BitVec 16) : (c.enterTrap w x).eng0 = c.eng0 := rfl
@[simp] theorem Core.enterTrap_eng1 (c : Core) (w : Word) (x : BitVec 16) : (c.enterTrap w x).eng1 = c.eng1 := rfl
@[simp] theorem Core.enterTrap_eng3 (c : Core) (w : Word) (x : BitVec 16) : (c.enterTrap w x).eng3 = c.eng3 := rfl
@[simp] theorem Core.enterTrap_nid (c : Core) (w : Word) (x : BitVec 16) : (c.enterTrap w x).nid = c.nid := rfl
@[simp] theorem Core.enterTrap_marks (c : Core) (w : Word) (x : BitVec 16) : (c.enterTrap w x).marks = c.marks := rfl
@[simp] theorem Core.enterTrap_tchecks (c : Core) (w : Word) (x : BitVec 16) : (c.enterTrap w x).tchecks = c.tchecks := rfl
@[simp] theorem Core.enterTrap_fills (c : Core) (w : Word) (x : BitVec 16) : (c.enterTrap w x).fills = c.fills := rfl
@[simp] theorem Core.enterTrap_unit (c : Core) (w : Word) (x : BitVec 16) : (c.enterTrap w x).unit = c.unit := rfl
@[simp] theorem Core.enterTrap_lastUnit (c : Core) (w : Word) (x : BitVec 16) : (c.enterTrap w x).lastUnit = c.lastUnit := rfl
@[simp] theorem Core.enterTrap_errq (c : Core) (w : Word) (x : BitVec 16) : (c.enterTrap w x).errq = c.errq := rfl
@[simp] theorem Core.enterTrap_stopVc (c : Core) (w : Word) (x : BitVec 16) : (c.enterTrap w x).stopVc = c.stopVc := rfl
@[simp] theorem Core.enterTrap_fences (c : Core) (w : Word) (x : BitVec 16) : (c.enterTrap w x).fences = c.fences := rfl
@[simp] theorem Core.enterTrap_ckRegions (c : Core) (w : Word) (x : BitVec 16) : (c.enterTrap w x).ckRegions = c.ckRegions := rfl

@[simp] theorem Core.leaveTrap_s (c : Core) : (c.leaveTrap).s = c.s := rfl
@[simp] theorem Core.leaveTrap_a (c : Core) : (c.leaveTrap).a = c.a := rfl
@[simp] theorem Core.leaveTrap_p (c : Core) : (c.leaveTrap).p = c.p := rfl
@[simp] theorem Core.leaveTrap_v (c : Core) : (c.leaveTrap).v = c.v := rfl
@[simp] theorem Core.leaveTrap_k (c : Core) : (c.leaveTrap).k = c.k := rfl
@[simp] theorem Core.leaveTrap_mp (c : Core) : (c.leaveTrap).mp = c.mp := rfl
@[simp] theorem Core.leaveTrap_fmt (c : Core) : (c.leaveTrap).fmt = c.fmt := rfl
@[simp] theorem Core.leaveTrap_mpc (c : Core) : (c.leaveTrap).mpc = c.mpc := rfl
@[simp] theorem Core.leaveTrap_pc (c : Core) : (c.leaveTrap).pc = c.pc := rfl
@[simp] theorem Core.leaveTrap_ispsel (c : Core) : (c.leaveTrap).ispsel = c.ispsel := rfl
@[simp] theorem Core.leaveTrap_loops (c : Core) : (c.leaveTrap).loops = c.loops := rfl
@[simp] theorem Core.leaveTrap_tl (c : Core) : (c.leaveTrap).tl = c.tl := rfl
@[simp] theorem Core.leaveTrap_n0 (c : Core) : (c.leaveTrap).n0 = c.n0 := rfl
@[simp] theorem Core.leaveTrap_n1 (c : Core) : (c.leaveTrap).n1 = c.n1 := rfl
@[simp] theorem Core.leaveTrap_n3 (c : Core) : (c.leaveTrap).n3 = c.n3 := rfl
@[simp] theorem Core.leaveTrap_ni (c : Core) : (c.leaveTrap).ni = c.ni := rfl
@[simp] theorem Core.leaveTrap_rnd (c : Core) : (c.leaveTrap).rnd = c.rnd := rfl
@[simp] theorem Core.leaveTrap_ports (c : Core) : (c.leaveTrap).ports = c.ports := rfl
@[simp] theorem Core.leaveTrap_gate (c : Core) : (c.leaveTrap).gate = c.gate := rfl
@[simp] theorem Core.leaveTrap_released (c : Core) : (c.leaveTrap).released = c.released := rfl
@[simp] theorem Core.leaveTrap_pend (c : Core) : (c.leaveTrap).pend = c.pend := rfl
@[simp] theorem Core.leaveTrap_recs (c : Core) : (c.leaveTrap).recs = c.recs := rfl
@[simp] theorem Core.leaveTrap_shadow (c : Core) : (c.leaveTrap).shadow = c.shadow := rfl
@[simp] theorem Core.leaveTrap_irrev (c : Core) : (c.leaveTrap).irrev = c.irrev := rfl
@[simp] theorem Core.leaveTrap_irrevNew (c : Core) : (c.leaveTrap).irrevNew = c.irrevNew := rfl
@[simp] theorem Core.leaveTrap_replay (c : Core) : (c.leaveTrap).replay = c.replay := rfl
@[simp] theorem Core.leaveTrap_regions (c : Core) : (c.leaveTrap).regions = c.regions := rfl
@[simp] theorem Core.leaveTrap_recvq (c : Core) : (c.leaveTrap).recvq = c.recvq := rfl
@[simp] theorem Core.leaveTrap_snapen (c : Core) : (c.leaveTrap).snapen = c.snapen := rfl
@[simp] theorem Core.leaveTrap_epc (c : Core) : (c.leaveTrap).epc = c.epc := rfl
@[simp] theorem Core.leaveTrap_psv (c : Core) : (c.leaveTrap).psv = c.psv := rfl
@[simp] theorem Core.leaveTrap_ecode (c : Core) : (c.leaveTrap).ecode = c.ecode := rfl
@[simp] theorem Core.leaveTrap_svec (c : Core) : (c.leaveTrap).svec = c.svec := rfl
@[simp] theorem Core.leaveTrap_evt (c : Core) : (c.leaveTrap).evt = c.evt := rfl
@[simp] theorem Core.leaveTrap_evmask (c : Core) : (c.leaveTrap).evmask = c.evmask := rfl
@[simp] theorem Core.leaveTrap_evgtc (c : Core) : (c.leaveTrap).evgtc = c.evgtc := rfl
@[simp] theorem Core.leaveTrap_armed (c : Core) : (c.leaveTrap).armed = c.armed := rfl
@[simp] theorem Core.leaveTrap_vc (c : Core) : (c.leaveTrap).vc = c.vc := rfl
@[simp] theorem Core.leaveTrap_hold (c : Core) : (c.leaveTrap).hold = c.hold := rfl
@[simp] theorem Core.leaveTrap_holdAt (c : Core) : (c.leaveTrap).holdAt = c.holdAt := rfl
@[simp] theorem Core.leaveTrap_halted (c : Core) : (c.leaveTrap).halted = c.halted := rfl
@[simp] theorem Core.leaveTrap_stopped (c : Core) : (c.leaveTrap).stopped = c.stopped := rfl
@[simp] theorem Core.leaveTrap_idle (c : Core) : (c.leaveTrap).idle = c.idle := rfl
@[simp] theorem Core.leaveTrap_stopReq (c : Core) : (c.leaveTrap).stopReq = c.stopReq := rfl
@[simp] theorem Core.leaveTrap_inIssue (c : Core) : (c.leaveTrap).inIssue = c.inIssue := rfl
@[simp] theorem Core.leaveTrap_taken (c : Core) : (c.leaveTrap).taken = c.taken := rfl
@[simp] theorem Core.leaveTrap_loopPush (c : Core) : (c.leaveTrap).loopPush = c.loopPush := rfl
@[simp] theorem Core.leaveTrap_ckWord (c : Core) : (c.leaveTrap).ckWord = c.ckWord := rfl
@[simp] theorem Core.leaveTrap_ckVc (c : Core) : (c.leaveTrap).ckVc = c.ckVc := rfl
@[simp] theorem Core.leaveTrap_ckQp (c : Core) : (c.leaveTrap).ckQp = c.ckQp := rfl
@[simp] theorem Core.leaveTrap_ckDone (c : Core) : (c.leaveTrap).ckDone = c.ckDone := rfl
@[simp] theorem Core.leaveTrap_again (c : Core) : (c.leaveTrap).again = c.again := rfl
@[simp] theorem Core.leaveTrap_needCk (c : Core) : (c.leaveTrap).needCk = c.needCk := rfl
@[simp] theorem Core.leaveTrap_gatherAt (c : Core) : (c.leaveTrap).gatherAt = c.gatherAt := rfl
@[simp] theorem Core.leaveTrap_rest (c : Core) : (c.leaveTrap).rest = c.rest := rfl
@[simp] theorem Core.leaveTrap_late (c : Core) : (c.leaveTrap).late = c.late := rfl
@[simp] theorem Core.leaveTrap_pendFault (c : Core) : (c.leaveTrap).pendFault = c.pendFault := rfl
@[simp] theorem Core.leaveTrap_eng0 (c : Core) : (c.leaveTrap).eng0 = c.eng0 := rfl
@[simp] theorem Core.leaveTrap_eng1 (c : Core) : (c.leaveTrap).eng1 = c.eng1 := rfl
@[simp] theorem Core.leaveTrap_eng3 (c : Core) : (c.leaveTrap).eng3 = c.eng3 := rfl
@[simp] theorem Core.leaveTrap_nid (c : Core) : (c.leaveTrap).nid = c.nid := rfl
@[simp] theorem Core.leaveTrap_marks (c : Core) : (c.leaveTrap).marks = c.marks := rfl
@[simp] theorem Core.leaveTrap_tchecks (c : Core) : (c.leaveTrap).tchecks = c.tchecks := rfl
@[simp] theorem Core.leaveTrap_fills (c : Core) : (c.leaveTrap).fills = c.fills := rfl
@[simp] theorem Core.leaveTrap_unit (c : Core) : (c.leaveTrap).unit = c.unit := rfl
@[simp] theorem Core.leaveTrap_lastUnit (c : Core) : (c.leaveTrap).lastUnit = c.lastUnit := rfl
@[simp] theorem Core.leaveTrap_errq (c : Core) : (c.leaveTrap).errq = c.errq := rfl
@[simp] theorem Core.leaveTrap_stopVc (c : Core) : (c.leaveTrap).stopVc = c.stopVc := rfl
@[simp] theorem Core.leaveTrap_fences (c : Core) : (c.leaveTrap).fences = c.fences := rfl
@[simp] theorem Core.leaveTrap_ckRegions (c : Core) : (c.leaveTrap).ckRegions = c.ckRegions := rfl

@[simp] theorem Core.goCheckpoint_s (c : Core) (w : Word) : (c.goCheckpoint w).s = c.s := rfl
@[simp] theorem Core.goCheckpoint_a (c : Core) (w : Word) : (c.goCheckpoint w).a = c.a := rfl
@[simp] theorem Core.goCheckpoint_p (c : Core) (w : Word) : (c.goCheckpoint w).p = c.p := rfl
@[simp] theorem Core.goCheckpoint_v (c : Core) (w : Word) : (c.goCheckpoint w).v = c.v := rfl
@[simp] theorem Core.goCheckpoint_k (c : Core) (w : Word) : (c.goCheckpoint w).k = c.k := rfl
@[simp] theorem Core.goCheckpoint_mp (c : Core) (w : Word) : (c.goCheckpoint w).mp = c.mp := rfl
@[simp] theorem Core.goCheckpoint_fmt (c : Core) (w : Word) : (c.goCheckpoint w).fmt = c.fmt := rfl
@[simp] theorem Core.goCheckpoint_mpc (c : Core) (w : Word) : (c.goCheckpoint w).mpc = c.mpc := rfl
@[simp] theorem Core.goCheckpoint_ispsel (c : Core) (w : Word) : (c.goCheckpoint w).ispsel = c.ispsel := rfl
@[simp] theorem Core.goCheckpoint_loops (c : Core) (w : Word) : (c.goCheckpoint w).loops = c.loops := rfl
@[simp] theorem Core.goCheckpoint_tl (c : Core) (w : Word) : (c.goCheckpoint w).tl = c.tl := rfl
@[simp] theorem Core.goCheckpoint_n0 (c : Core) (w : Word) : (c.goCheckpoint w).n0 = c.n0 := rfl
@[simp] theorem Core.goCheckpoint_n1 (c : Core) (w : Word) : (c.goCheckpoint w).n1 = c.n1 := rfl
@[simp] theorem Core.goCheckpoint_n3 (c : Core) (w : Word) : (c.goCheckpoint w).n3 = c.n3 := rfl
@[simp] theorem Core.goCheckpoint_ni (c : Core) (w : Word) : (c.goCheckpoint w).ni = c.ni := rfl
@[simp] theorem Core.goCheckpoint_rnd (c : Core) (w : Word) : (c.goCheckpoint w).rnd = c.rnd := rfl
@[simp] theorem Core.goCheckpoint_ports (c : Core) (w : Word) : (c.goCheckpoint w).ports = c.ports := rfl
@[simp] theorem Core.goCheckpoint_gate (c : Core) (w : Word) : (c.goCheckpoint w).gate = c.gate := rfl
@[simp] theorem Core.goCheckpoint_released (c : Core) (w : Word) : (c.goCheckpoint w).released = c.released := rfl
@[simp] theorem Core.goCheckpoint_pend (c : Core) (w : Word) : (c.goCheckpoint w).pend = c.pend := rfl
@[simp] theorem Core.goCheckpoint_recs (c : Core) (w : Word) : (c.goCheckpoint w).recs = c.recs := rfl
@[simp] theorem Core.goCheckpoint_shadow (c : Core) (w : Word) : (c.goCheckpoint w).shadow = c.shadow := rfl
@[simp] theorem Core.goCheckpoint_irrev (c : Core) (w : Word) : (c.goCheckpoint w).irrev = c.irrev := rfl
@[simp] theorem Core.goCheckpoint_irrevNew (c : Core) (w : Word) : (c.goCheckpoint w).irrevNew = c.irrevNew := rfl
@[simp] theorem Core.goCheckpoint_replay (c : Core) (w : Word) : (c.goCheckpoint w).replay = c.replay := rfl
@[simp] theorem Core.goCheckpoint_regions (c : Core) (w : Word) : (c.goCheckpoint w).regions = c.regions := rfl
@[simp] theorem Core.goCheckpoint_recvq (c : Core) (w : Word) : (c.goCheckpoint w).recvq = c.recvq := rfl
@[simp] theorem Core.goCheckpoint_sv (c : Core) (w : Word) : (c.goCheckpoint w).sv = c.sv := rfl
@[simp] theorem Core.goCheckpoint_snapen (c : Core) (w : Word) : (c.goCheckpoint w).snapen = c.snapen := rfl
@[simp] theorem Core.goCheckpoint_epc (c : Core) (w : Word) : (c.goCheckpoint w).epc = c.epc := rfl
@[simp] theorem Core.goCheckpoint_psv (c : Core) (w : Word) : (c.goCheckpoint w).psv = c.psv := rfl
@[simp] theorem Core.goCheckpoint_ecode (c : Core) (w : Word) : (c.goCheckpoint w).ecode = c.ecode := rfl
@[simp] theorem Core.goCheckpoint_svec (c : Core) (w : Word) : (c.goCheckpoint w).svec = c.svec := rfl
@[simp] theorem Core.goCheckpoint_evt (c : Core) (w : Word) : (c.goCheckpoint w).evt = c.evt := rfl
@[simp] theorem Core.goCheckpoint_evmask (c : Core) (w : Word) : (c.goCheckpoint w).evmask = c.evmask := rfl
@[simp] theorem Core.goCheckpoint_evgtc (c : Core) (w : Word) : (c.goCheckpoint w).evgtc = c.evgtc := rfl
@[simp] theorem Core.goCheckpoint_armed (c : Core) (w : Word) : (c.goCheckpoint w).armed = c.armed := rfl
@[simp] theorem Core.goCheckpoint_vc (c : Core) (w : Word) : (c.goCheckpoint w).vc = c.vc := rfl
@[simp] theorem Core.goCheckpoint_hold (c : Core) (w : Word) : (c.goCheckpoint w).hold = c.hold := rfl
@[simp] theorem Core.goCheckpoint_holdAt (c : Core) (w : Word) : (c.goCheckpoint w).holdAt = c.holdAt := rfl
@[simp] theorem Core.goCheckpoint_halted (c : Core) (w : Word) : (c.goCheckpoint w).halted = c.halted := rfl
@[simp] theorem Core.goCheckpoint_stopped (c : Core) (w : Word) : (c.goCheckpoint w).stopped = c.stopped := rfl
@[simp] theorem Core.goCheckpoint_idle (c : Core) (w : Word) : (c.goCheckpoint w).idle = c.idle := rfl
@[simp] theorem Core.goCheckpoint_stopReq (c : Core) (w : Word) : (c.goCheckpoint w).stopReq = c.stopReq := rfl
@[simp] theorem Core.goCheckpoint_inIssue (c : Core) (w : Word) : (c.goCheckpoint w).inIssue = c.inIssue := rfl
@[simp] theorem Core.goCheckpoint_taken (c : Core) (w : Word) : (c.goCheckpoint w).taken = c.taken := rfl
@[simp] theorem Core.goCheckpoint_loopPush (c : Core) (w : Word) : (c.goCheckpoint w).loopPush = c.loopPush := rfl
@[simp] theorem Core.goCheckpoint_ckWord (c : Core) (w : Word) : (c.goCheckpoint w).ckWord = c.ckWord := rfl
@[simp] theorem Core.goCheckpoint_ckVc (c : Core) (w : Word) : (c.goCheckpoint w).ckVc = c.ckVc := rfl
@[simp] theorem Core.goCheckpoint_ckQp (c : Core) (w : Word) : (c.goCheckpoint w).ckQp = c.ckQp := rfl
@[simp] theorem Core.goCheckpoint_ckDone (c : Core) (w : Word) : (c.goCheckpoint w).ckDone = c.ckDone := rfl
@[simp] theorem Core.goCheckpoint_again (c : Core) (w : Word) : (c.goCheckpoint w).again = c.again := rfl
@[simp] theorem Core.goCheckpoint_gatherAt (c : Core) (w : Word) : (c.goCheckpoint w).gatherAt = c.gatherAt := rfl
@[simp] theorem Core.goCheckpoint_rest (c : Core) (w : Word) : (c.goCheckpoint w).rest = c.rest := rfl
@[simp] theorem Core.goCheckpoint_late (c : Core) (w : Word) : (c.goCheckpoint w).late = c.late := rfl
@[simp] theorem Core.goCheckpoint_pendFault (c : Core) (w : Word) : (c.goCheckpoint w).pendFault = c.pendFault := rfl
@[simp] theorem Core.goCheckpoint_eng0 (c : Core) (w : Word) : (c.goCheckpoint w).eng0 = c.eng0 := rfl
@[simp] theorem Core.goCheckpoint_eng1 (c : Core) (w : Word) : (c.goCheckpoint w).eng1 = c.eng1 := rfl
@[simp] theorem Core.goCheckpoint_eng3 (c : Core) (w : Word) : (c.goCheckpoint w).eng3 = c.eng3 := rfl
@[simp] theorem Core.goCheckpoint_nid (c : Core) (w : Word) : (c.goCheckpoint w).nid = c.nid := rfl
@[simp] theorem Core.goCheckpoint_marks (c : Core) (w : Word) : (c.goCheckpoint w).marks = c.marks := rfl
@[simp] theorem Core.goCheckpoint_tchecks (c : Core) (w : Word) : (c.goCheckpoint w).tchecks = c.tchecks := rfl
@[simp] theorem Core.goCheckpoint_fills (c : Core) (w : Word) : (c.goCheckpoint w).fills = c.fills := rfl
@[simp] theorem Core.goCheckpoint_unit (c : Core) (w : Word) : (c.goCheckpoint w).unit = c.unit := rfl
@[simp] theorem Core.goCheckpoint_lastUnit (c : Core) (w : Word) : (c.goCheckpoint w).lastUnit = c.lastUnit := rfl
@[simp] theorem Core.goCheckpoint_errq (c : Core) (w : Word) : (c.goCheckpoint w).errq = c.errq := rfl
@[simp] theorem Core.goCheckpoint_stopVc (c : Core) (w : Word) : (c.goCheckpoint w).stopVc = c.stopVc := rfl
@[simp] theorem Core.goCheckpoint_fences (c : Core) (w : Word) : (c.goCheckpoint w).fences = c.fences := rfl
@[simp] theorem Core.goCheckpoint_ckRegions (c : Core) (w : Word) : (c.goCheckpoint w).ckRegions = c.ckRegions := rfl

@[simp] theorem Core.take_s (c : Core) (w : Word) (k : Nat) : (c.take w k).s = c.s := rfl
@[simp] theorem Core.take_a (c : Core) (w : Word) (k : Nat) : (c.take w k).a = c.a := rfl
@[simp] theorem Core.take_p (c : Core) (w : Word) (k : Nat) : (c.take w k).p = c.p := rfl
@[simp] theorem Core.take_v (c : Core) (w : Word) (k : Nat) : (c.take w k).v = c.v := rfl
@[simp] theorem Core.take_k (c : Core) (w : Word) (k : Nat) : (c.take w k).k = c.k := rfl
@[simp] theorem Core.take_mp (c : Core) (w : Word) (k : Nat) : (c.take w k).mp = c.mp := rfl
@[simp] theorem Core.take_fmt (c : Core) (w : Word) (k : Nat) : (c.take w k).fmt = c.fmt := rfl
@[simp] theorem Core.take_mpc (c : Core) (w : Word) (k : Nat) : (c.take w k).mpc = c.mpc := rfl
@[simp] theorem Core.take_pc (c : Core) (w : Word) (k : Nat) : (c.take w k).pc = c.pc := rfl
@[simp] theorem Core.take_ispsel (c : Core) (w : Word) (k : Nat) : (c.take w k).ispsel = c.ispsel := rfl
@[simp] theorem Core.take_loops (c : Core) (w : Word) (k : Nat) : (c.take w k).loops = c.loops := rfl
@[simp] theorem Core.take_tl (c : Core) (w : Word) (k : Nat) : (c.take w k).tl = c.tl := rfl
@[simp] theorem Core.take_n0 (c : Core) (w : Word) (k : Nat) : (c.take w k).n0 = c.n0 := rfl
@[simp] theorem Core.take_n1 (c : Core) (w : Word) (k : Nat) : (c.take w k).n1 = c.n1 := rfl
@[simp] theorem Core.take_n3 (c : Core) (w : Word) (k : Nat) : (c.take w k).n3 = c.n3 := rfl
@[simp] theorem Core.take_ni (c : Core) (w : Word) (k : Nat) : (c.take w k).ni = c.ni := rfl
@[simp] theorem Core.take_rnd (c : Core) (w : Word) (k : Nat) : (c.take w k).rnd = c.rnd := rfl
@[simp] theorem Core.take_ports (c : Core) (w : Word) (k : Nat) : (c.take w k).ports = c.ports := rfl
@[simp] theorem Core.take_gate (c : Core) (w : Word) (k : Nat) : (c.take w k).gate = c.gate := rfl
@[simp] theorem Core.take_released (c : Core) (w : Word) (k : Nat) : (c.take w k).released = c.released := rfl
@[simp] theorem Core.take_pend (c : Core) (w : Word) (k : Nat) : (c.take w k).pend = c.pend := rfl
@[simp] theorem Core.take_recs (c : Core) (w : Word) (k : Nat) : (c.take w k).recs = c.recs := rfl
@[simp] theorem Core.take_shadow (c : Core) (w : Word) (k : Nat) : (c.take w k).shadow = c.shadow := rfl
@[simp] theorem Core.take_irrev (c : Core) (w : Word) (k : Nat) : (c.take w k).irrev = c.irrev := rfl
@[simp] theorem Core.take_irrevNew (c : Core) (w : Word) (k : Nat) : (c.take w k).irrevNew = c.irrevNew := rfl
@[simp] theorem Core.take_replay (c : Core) (w : Word) (k : Nat) : (c.take w k).replay = c.replay := rfl
@[simp] theorem Core.take_regions (c : Core) (w : Word) (k : Nat) : (c.take w k).regions = c.regions := rfl
@[simp] theorem Core.take_recvq (c : Core) (w : Word) (k : Nat) : (c.take w k).recvq = c.recvq := rfl
@[simp] theorem Core.take_sv (c : Core) (w : Word) (k : Nat) : (c.take w k).sv = c.sv := rfl
@[simp] theorem Core.take_snapen (c : Core) (w : Word) (k : Nat) : (c.take w k).snapen = c.snapen := rfl
@[simp] theorem Core.take_epc (c : Core) (w : Word) (k : Nat) : (c.take w k).epc = c.epc := rfl
@[simp] theorem Core.take_psv (c : Core) (w : Word) (k : Nat) : (c.take w k).psv = c.psv := rfl
@[simp] theorem Core.take_ecode (c : Core) (w : Word) (k : Nat) : (c.take w k).ecode = c.ecode := rfl
@[simp] theorem Core.take_svec (c : Core) (w : Word) (k : Nat) : (c.take w k).svec = c.svec := rfl
@[simp] theorem Core.take_evt (c : Core) (w : Word) (k : Nat) : (c.take w k).evt = c.evt := rfl
@[simp] theorem Core.take_evmask (c : Core) (w : Word) (k : Nat) : (c.take w k).evmask = c.evmask := rfl
@[simp] theorem Core.take_evgtc (c : Core) (w : Word) (k : Nat) : (c.take w k).evgtc = c.evgtc := rfl
@[simp] theorem Core.take_armed (c : Core) (w : Word) (k : Nat) : (c.take w k).armed = c.armed := rfl
@[simp] theorem Core.take_vc (c : Core) (w : Word) (k : Nat) : (c.take w k).vc = c.vc := rfl
@[simp] theorem Core.take_hold (c : Core) (w : Word) (k : Nat) : (c.take w k).hold = c.hold := rfl
@[simp] theorem Core.take_holdAt (c : Core) (w : Word) (k : Nat) : (c.take w k).holdAt = c.holdAt := rfl
@[simp] theorem Core.take_halted (c : Core) (w : Word) (k : Nat) : (c.take w k).halted = c.halted := rfl
@[simp] theorem Core.take_stopped (c : Core) (w : Word) (k : Nat) : (c.take w k).stopped = c.stopped := rfl
@[simp] theorem Core.take_idle (c : Core) (w : Word) (k : Nat) : (c.take w k).idle = c.idle := rfl
@[simp] theorem Core.take_stopReq (c : Core) (w : Word) (k : Nat) : (c.take w k).stopReq = c.stopReq := rfl
@[simp] theorem Core.take_inIssue (c : Core) (w : Word) (k : Nat) : (c.take w k).inIssue = c.inIssue := rfl
@[simp] theorem Core.take_loopPush (c : Core) (w : Word) (k : Nat) : (c.take w k).loopPush = c.loopPush := rfl
@[simp] theorem Core.take_ckWord (c : Core) (w : Word) (k : Nat) : (c.take w k).ckWord = c.ckWord := rfl
@[simp] theorem Core.take_ckVc (c : Core) (w : Word) (k : Nat) : (c.take w k).ckVc = c.ckVc := rfl
@[simp] theorem Core.take_ckQp (c : Core) (w : Word) (k : Nat) : (c.take w k).ckQp = c.ckQp := rfl
@[simp] theorem Core.take_ckDone (c : Core) (w : Word) (k : Nat) : (c.take w k).ckDone = c.ckDone := rfl
@[simp] theorem Core.take_again (c : Core) (w : Word) (k : Nat) : (c.take w k).again = c.again := rfl
@[simp] theorem Core.take_needCk (c : Core) (w : Word) (k : Nat) : (c.take w k).needCk = c.needCk := rfl
@[simp] theorem Core.take_gatherAt (c : Core) (w : Word) (k : Nat) : (c.take w k).gatherAt = c.gatherAt := rfl
@[simp] theorem Core.take_rest (c : Core) (w : Word) (k : Nat) : (c.take w k).rest = c.rest := rfl
@[simp] theorem Core.take_late (c : Core) (w : Word) (k : Nat) : (c.take w k).late = c.late := rfl
@[simp] theorem Core.take_pendFault (c : Core) (w : Word) (k : Nat) : (c.take w k).pendFault = c.pendFault := rfl
@[simp] theorem Core.take_eng0 (c : Core) (w : Word) (k : Nat) : (c.take w k).eng0 = c.eng0 := rfl
@[simp] theorem Core.take_eng1 (c : Core) (w : Word) (k : Nat) : (c.take w k).eng1 = c.eng1 := rfl
@[simp] theorem Core.take_eng3 (c : Core) (w : Word) (k : Nat) : (c.take w k).eng3 = c.eng3 := rfl
@[simp] theorem Core.take_nid (c : Core) (w : Word) (k : Nat) : (c.take w k).nid = c.nid := rfl
@[simp] theorem Core.take_marks (c : Core) (w : Word) (k : Nat) : (c.take w k).marks = c.marks := rfl
@[simp] theorem Core.take_tchecks (c : Core) (w : Word) (k : Nat) : (c.take w k).tchecks = c.tchecks := rfl
@[simp] theorem Core.take_fills (c : Core) (w : Word) (k : Nat) : (c.take w k).fills = c.fills := rfl
@[simp] theorem Core.take_unit (c : Core) (w : Word) (k : Nat) : (c.take w k).unit = c.unit := rfl
@[simp] theorem Core.take_lastUnit (c : Core) (w : Word) (k : Nat) : (c.take w k).lastUnit = c.lastUnit := rfl
@[simp] theorem Core.take_errq (c : Core) (w : Word) (k : Nat) : (c.take w k).errq = c.errq := rfl
@[simp] theorem Core.take_stopVc (c : Core) (w : Word) (k : Nat) : (c.take w k).stopVc = c.stopVc := rfl
@[simp] theorem Core.take_fences (c : Core) (w : Word) (k : Nat) : (c.take w k).fences = c.fences := rfl
@[simp] theorem Core.take_ckRegions (c : Core) (w : Word) (k : Nat) : (c.take w k).ckRegions = c.ckRegions := rfl

/-! ### Reading back -/

@[simp] theorem State.core_setCore_self (s : State) (p : Nat) (c : Core) : (s.setCore p c).core p = c := by
  simp [State.core, State.setCore]

theorem State.core_setCore_other (s : State) {p q : Nat} (c : Core) (h : q ≠ p) : (s.setCore p c).core q = s.core q := by
  simp [State.core, State.setCore, SMap.get_put_other, h]

@[simp] theorem State.core_updCore_self (s : State) (p : Nat) (f : Core → Core) :
    (s.updCore p f).core p = f (s.core p) := by simp [State.updCore]

theorem State.core_updCore_other (s : State) {p q : Nat} (f : Core → Core) (h : q ≠ p) :
    (s.updCore p f).core q = s.core q := State.core_setCore_other s _ h

@[simp] theorem State.me_upd (s : State) (f : Core → Core) : (s.upd f).me = f s.me := by
  simp [State.me, State.upd]

@[simp] theorem State.tile_setTile_self (s : State) (q : Nat) (t : Tile) : (s.setTile q t).tile q = t := by
  simp [State.tile, State.setTile]

theorem State.tile_setTile_other (s : State) {p q : Nat} (t : Tile) (h : p ≠ q) : (s.setTile q t).tile p = s.tile p := by
  simp [State.tile, State.setTile, SMap.get_put_other, h]

@[simp] theorem State.tile_updTile_self (s : State) (q : Nat) (f : Tile → Tile) :
    (s.updTile q f).tile q = f (s.tile q) := by simp [State.updTile]

@[simp] theorem State.core_setTile (s : State) (p q : Nat) (t : Tile) : (s.setTile q t).core p = s.core p := rfl
@[simp] theorem State.core_updTile (s : State) (p q : Nat) (f : Tile → Tile) : (s.updTile q f).core p = s.core p := rfl
@[simp] theorem State.tile_setCore (s : State) (p q : Nat) (c : Core) : (s.setCore p c).tile q = s.tile q := rfl
@[simp] theorem State.tile_updCore (s : State) (p q : Nat) (f : Core → Core) : (s.updCore p f).tile q = s.tile q := rfl
@[simp] theorem State.byte_setCore (s : State) (p a : Nat) (c : Core) : (s.setCore p c).byte a = s.byte a := rfl
@[simp] theorem State.byte_updCore (s : State) (p a : Nat) (f : Core → Core) : (s.updCore p f).byte a = s.byte a := rfl
@[simp] theorem State.byte_upd (s : State) (a : Nat) (f : Core → Core) : (s.upd f).byte a = s.byte a := rfl
@[simp] theorem State.byte_updTile (s : State) (q a : Nat) (f : Tile → Tile) : (s.updTile q f).byte a = s.byte a := rfl

/-- s0 reads 0 whatever is written. -/
@[simp] theorem Core.gs_zero (c : Core) : c.gs 0 = 0 := rfl

/-- A scalar register reads what was last written, s0 apart. -/
theorem Core.gs_setS (c : Core) (d r : BitVec 5) (w : Word) :
    (c.setS d.toNat w).gs r = if r = d ∧ d ≠ 0 then w else c.gs r := by
  by_cases hd : d = 0
  · subst hd; simp [Core.setS]
  · have hn : d.toNat ≠ 0 := fun h => hd (BitVec.eq_of_toNat_eq (by simpa using h))
    have e : (c.setS d.toNat w).s = c.s.put 0 d.toNat w := by rw [Core.setS, if_neg hn]
    unfold Core.gs
    rw [e, SMap.get_put]
    by_cases hr : r = d
    · subst hr
      have h0 : ¬r = 0#5 := hd
      simp [h0]
    · have : r.toNat ≠ d.toNat := fun h => hr (BitVec.eq_of_toNat_eq h)
      simp [hr, this]

theorem Core.ga_setA (c : Core) (d r : BitVec 4) (w : Word) :
    (c.setA d.toNat w).ga r = if r = d then w else c.ga r := by
  by_cases hr : r = d
  · subst hr; simp [Core.setA, Core.ga]
  · have : r.toNat ≠ d.toNat := fun h => hr (BitVec.eq_of_toNat_eq h)
    simp [Core.setA, Core.ga, hr, SMap.get_put_other, this]

theorem Core.gp_setP (c : Core) (d r : BitVec 3) (b : Bool) :
    (c.setP d.toNat b).gp r = if r = d then b else c.gp r := by
  have key : ∀ (p : BitVec 8) (d r : BitVec 3) (b : Bool),
      (if b then p ||| (1#8 <<< d.toNat) else p &&& ~~~(1#8 <<< d.toNat)).getLsbD r.toNat =
        if r = d then b else p.getLsbD r.toNat := by
    intro p d r b
    have hr : r.toNat < 8 := by omega
    by_cases h : r = d
    · subst h; cases b <;> simp [hr]
    · have hn : r.toNat ≠ d.toNat := fun e => h (BitVec.eq_of_toNat_eq e)
      cases b <;> simp [h, hr] <;> omega
  exact key c.p d r b

@[simp] theorem Core.gtl_setTl_self (c : Core) (k : Nat) (w : Word) : (c.setTl k w).gtl k = w := by
  simp [Core.setTl, Core.gtl]

@[simp] theorem Core.port_setPort_self (c : Core) (q : Nat) (x : Port) : (c.setPort q x).port q = x := by
  simp [Core.setPort, Core.port]

end Sys2Proof.Machine
end

