-- ==== Sys2Proof/Laws/Ops.lean ====
section
/-! SUPPORT. What the shared operations can do, once each: checks, guards, results in flight, gates, transfers,
numbered operations, traps. -/

namespace Sys2Proof.Machine

open Sys2Proof

/-! ### Checks -/

@[simp] theorem firstUse_nil : firstUse [] = none := rfl
@[simp] theorem firstUse_none (l : List (Option Use)) : firstUse (none :: l) = firstUse l := rfl
@[simp] theorem firstUse_some (u : Use) (l : List (Option Use)) : firstUse (some u :: l) = some u := rfl
@[simp] theorem orUse_true (u : Use) : orUse true u = none := rfl
@[simp] theorem orUse_false (u : Use) : orUse false u = some u := rfl

theorem orUse_eq_none {b : Bool} {u : Use} : orUse b u = none ↔ b = true := by cases b <;> simp

/-- A list of checks finds nothing when none of them does. -/
theorem firstUse_eq_none {l : List (Option Use)} : firstUse l = none ↔ ∀ x ∈ l, x = none := by
  induction l with
  | nil => simp
  | cons x r ih => cases x <;> simp [ih]

/-- An operation whose check finds nothing has its effect. -/
@[simp] theorem guarded_none (s t : State) : guarded s none t = .next t := rfl

/-- Outside a trial, an operation whose check finds a fault takes it. -/
theorem guarded_some {s : State} (h : s.trial = none) (u : Use) (t : State) :
    guarded s (some u) t = .next (s.deliverUse u) := by simp [guarded, h]

/-- In a trial the fault is noted and nothing else happens. -/
theorem guarded_trial {s : State} {l : List Use} (h : s.trial = some l) (u : Use) (t : State) :
    guarded s (some u) t = .next { s with trial := some (l ++ [u]) } := by simp [guarded, h]

/-- An operation with a check always answers a next state. -/
theorem guarded_next (s : State) (u : Option Use) (t : State) : ∃ t', guarded s u t = .next t' := by
  unfold guarded; split
  · exact ⟨_, rfl⟩
  · split <;> exact ⟨_, rfl⟩

/-! ### Frames -/

/-- Changing the acting sequencer alone changes nothing else. -/
theorem onlyMe_upd (s : State) (f : Core → Core) : Safety.OnlyMe s (s.upd f) :=
  ⟨rfl, fun _ h => State.core_updCore_other s f h, fun _ => rfl⟩

/-- Adding a result in flight changes nothing else. -/
theorem onlyPend_upd (s : State) (x : Pending) :
    Safety.OnlyPend s (s.upd fun c => { c with pend := c.pend ++ [x] }) :=
  ⟨onlyMe_upd s _, by simp⟩

/-- A result of the acting operation, as the statements say it. -/
theorem land_gives (s : State) (d : Dest) (x : Src) (lat : Nat) :
    Safety.Gains s (s.land d x lat) (Safety.inFlight s d x 0 lat) ∧ Safety.OnlyPend s (s.land d x lat) := by
  refine ⟨?_, onlyPend_upd s _⟩
  simp [Safety.Gains, State.land, Core.land, Safety.inFlight]

theorem fly_gives (s : State) (d : Dest) (x : Src) (perf lat : Nat) (f : Pending → Pending) :
    Safety.Gains s (s.fly d x perf lat f) (f (Safety.inFlight s d x perf lat)) ∧
      Safety.OnlyPend s (s.fly d x perf lat f) := by
  refine ⟨?_, onlyPend_upd s _⟩
  simp [Safety.Gains, State.fly, Safety.inFlight]

/-- An instruction whose meaning puts one result in flight. -/
theorem gives_of {i : Instr} {s : State} {d : Dest} {x : Src} {lat : Nat} (h : exec i s = .next (s.land d x lat)) :
    Safety.Gives i s d x lat := ⟨_, h, land_gives s d x lat⟩

/-! ### Fills that a store starts (09 R259 (b)) -/

theorem startsFills_refl (s : State) : Safety.StartsFills s s := ⟨rfl, fun _ => rfl, fun _ => rfl, fun _ _ => .inl rfl⟩

/-- What does not depend on the sequencers is the same in the same world. -/
theorem sameWorld_field {s t : State} (h : Safety.SameWorld s t) {α : Type} (g : State → α)
    (hg : ∀ s c, g { s with cores := c } = g s) : g t = g s :=
  (hg t s.cores).symm.trans (congrArg g h)

/-- Whether a line is unfilled depends on the stored bytes and on the state of its own fill. -/
theorem unfilled_congr {s t : State} (hw : Safety.SameWorld s t) {q l : Nat} (h : t.fillOf q l = s.fillOf q l) :
    t.unfilled q l = s.unfilled q l := by
  have hm : t.mem = s.mem := sameWorld_field hw State.mem fun _ _ => rfl
  have hy : t.byte = s.byte := by funext a; simp only [State.byte, hm]
  have hb : t.bytes = s.bytes := by funext a n; simp only [State.bytes, hy]
  have hr : t.rdesc q = s.rdesc q := by funext i; simp only [State.rdesc, hb]
  simp only [State.unfilled, State.mapped, State.regionAt, h, hm]
  simp only [hr]

theorem startsFills_trans {s t u : State} (h : Safety.StartsFills s t) (k : Safety.StartsFills t u) :
    Safety.StartsFills s u := by
  obtain ⟨w, b, c, f⟩ := h
  obtain ⟨w', b', c', f'⟩ := k
  refine ⟨?_, fun a => (b' a).trans (b a), fun q => ?_, fun q l => ?_⟩
  · simp only [Safety.SameWorld] at *; rw [← w, ← w']
  · calc ({ u.core q with fills := (s.core q).fills } : Core)
        = { ({ u.core q with fills := (t.core q).fills } : Core) with fills := (s.core q).fills } := rfl
      _ = s.core q := by rw [c' q, c q]
  · rcases f q l with e | ⟨e1, e2, e3⟩ <;> rcases f' q l with g | ⟨g1, g2, g3⟩
    · exact .inl (g.trans e)
    · exact .inr ⟨by rw [← unfilled_congr w e]; exact g1, by rw [← e]; exact g2, g3⟩
    · exact .inr ⟨e1, e2, g.trans e3⟩
    · exact .inr ⟨e1, e2, g3⟩

theorem startsFills_setFill {s : State} {q l : Nat} (h1 : s.unfilled q l = true) (h2 : s.fillOf q l = 0) :
    Safety.StartsFills s (s.setFill q l 2) := by
  refine ⟨rfl, fun _ => rfl, fun k => ?_, fun k j => ?_⟩
  · by_cases hk : k = q
    · subst hk; simp [State.setFill]
    · simp [State.setFill, State.core_updCore_other s _ hk]
  · by_cases hk : k = q
    · subst hk
      by_cases hj : j = l
      · subst hj; exact .inr ⟨h1, h2, by simp [State.fillOf, State.setFill]⟩
      · exact .inl (by simp [State.fillOf, State.setFill, SMap.get_put_other _ _ _ _ hj])
    · exact .inl (by simp [State.fillOf, State.setFill, State.core_updCore_other s _ hk])

theorem startsFills_foldl {β : Type} (f : State → β → State) (hf : ∀ s x, Safety.StartsFills s (f s x)) (l : List β) (s : State) :
    Safety.StartsFills s (l.foldl f s) := by
  induction l generalizing s with
  | nil => exact startsFills_refl s
  | cons x r ih => exact startsFills_trans (hf s x) (ih _)

theorem startFills_starts (s : State) (q : Nat) (l : List Nat) : Safety.StartsFills s (s.startFills q l) := by
  unfold State.startFills
  split
  · exact startsFills_refl s
  · refine startsFills_foldl _ (fun s x => ?_) l s
    split
    · rename_i h; simp only [Bool.and_eq_true, beq_iff_eq] at h; exact startsFills_setFill h.1 h.2
    · exact startsFills_refl s

theorem startStores_starts (s : State) (f : Form) (l : List Nat) : Safety.StartsFills s (s.startStores f l) := by
  refine startsFills_foldl _ (fun s x => ?_) l s
  split
  · exact startFills_starts s _ _
  · exact startsFills_refl s

theorem startsFills_cur {s t : State} (h : Safety.StartsFills s t) : t.cur = s.cur :=
  sameWorld_field h.1 State.cur fun _ _ => rfl

/-- A property of a core that does not depend on its fills is kept when fills start. -/
theorem startsFills_core {s t : State} (h : Safety.StartsFills s t) (q : Nat) {α : Type} (g : Core → α)
    (hg : ∀ c f, g { c with fills := f } = g c) : g (t.core q) = g (s.core q) :=
  (hg (t.core q) (s.core q).fills).symm.trans (congrArg g (h.2.2.1 q))

theorem startsFills_me {s t : State} (h : Safety.StartsFills s t) {α : Type} (g : Core → α)
    (hg : ∀ c f, g { c with fills := f } = g c) : g t.me = g s.me := by
  unfold State.me; rw [startsFills_cur h]; exact startsFills_core h _ g hg

/-- Gating a store changes the gate buffer alone, fills apart. -/
theorem gate_onlyGate (s : State) (f : Form) (cells : List (Nat × Byte)) (rel : Bool) :
    Safety.OnlyGate s (s.gate f cells rel) :=
  ⟨_, startStores_starts s f _, onlyMe_upd _ _, by simp [State.gate]⟩

theorem gate_gate (s : State) (f : Form) (cells : List (Nat × Byte)) (rel : Bool) :
    (s.gate f cells rel).me.gate = s.me.gate ++ (blocksOf cells).map fun b =>
      { form := f, cells := cells.filter (fun x => x.1 / 64 == b), issue := s.me.vc, ord := s.cur.slot.toNat,
        rel := rel, sv := s.cur.sv, enc := s.cur.enc } := by
  have h := startStores_starts s f (blocksOf cells)
  simp only [State.gate, State.me_upd, startsFills_me h Core.gate fun _ _ => rfl, startsFills_me h Core.vc fun _ _ => rfl]

/-- Running the operations of the agenda, one at a time. -/
@[simp] theorem runOps_zero (s : State) : State.runOps 0 s = .next s := rfl

theorem runOps_op (n : Nat) (s : State) (o : MicroOp) (r : List Turn) (h : s.agenda = .op o :: r) :
    State.runOps (n + 1) s =
      match exec o.instr { s with agenda := r, cur := o.ctx, tick := s.tick + 1 } with
      | .next t => State.runOps n t
      | x => x := by
  rw [State.runOps]; simp only [h] <;> rfl

/-- A routine's word that answers a routine. -/
theorem tsc_ok {s : State} {r r' : Routine} {f : Nat → Routine → State × Except Rec Routine}
    (h : (s.tile s.cur.core).run = some r) (hf : f s.cur.core r = (s, .ok r')) :
    s.tsc f = .next (s.updTile s.cur.core fun t => { t with run := some r' }) := by
  simp [State.tsc, h, hf]

/-! ### Vector operations -/

/-- Lane results land and change nothing else. -/
theorem vput_gives (s : State) (d : BitVec 5) (qd : Bool) (lat : Nat) (l : List (Nat × Lane)) :
    Safety.Gains s (s.vput d qd lat l)
      (Safety.inFlight s (Safety.laneDest s d qd l).1 (Safety.laneDest s d qd l).2 0 lat) ∧
    Safety.OnlyPend s (s.vput d qd lat l) := by
  cases qd <;> exact land_gives s _ _ lat

theorem onlyMe_trans {s t u : State} (h : Safety.OnlyMe s t) (h' : Safety.OnlyMe t u) (hc : t.cur = s.cur) :
    Safety.OnlyMe s u := by
  obtain ⟨a, b, c⟩ := h
  obtain ⟨a', b', c'⟩ := h'
  refine ⟨?_, fun q hq => (b' q (by rw [hc]; exact hq)).trans (b q hq), fun x => (c' x).trans (c x)⟩
  simp only [Safety.SameWorld] at *
  rw [← a, ← a']

/-- Setting the group's random source and then landing lane results. -/
theorem setRng_vput (s : State) (g : Word) (d : BitVec 5) (qd : Bool) (lat : Nat) (l : List (Nat × Lane)) :
    let t := (s.setRng g).vput d qd lat l
    Safety.Gains s t (Safety.inFlight s (Safety.laneDest s d qd l).1 (Safety.laneDest s d qd l).2 0 lat) ∧
    t.me.rndOf s.cur.group = g ∧ (∀ k, k ≠ s.cur.group → t.me.rndOf k = s.me.rndOf k) ∧
    Safety.OnlyMe s t ∧ { t.me with pend := s.me.pend, rnd := s.me.rnd } = s.me := by
  have key : ∀ D X, (let t := (s.setRng g).land D X lat
      Safety.Gains s t (Safety.inFlight s D X 0 lat) ∧
      t.me.rndOf s.cur.group = g ∧ (∀ k, k ≠ s.cur.group → t.me.rndOf k = s.me.rndOf k) ∧
      Safety.OnlyMe s t ∧ { t.me with pend := s.me.pend, rnd := s.me.rnd } = s.me) := by
    intro D X
    refine ⟨?_, ?_, ?_, onlyMe_trans (onlyMe_upd s _) (onlyMe_upd _ _) rfl, ?_⟩
    · simp [Safety.Gains, State.land, Core.land, Safety.inFlight, State.setRng]
    · simp [State.land, Core.land, State.setRng, Core.rndOf, Core.setRnd]
    · intro k hk; simp [State.land, Core.land, State.setRng, Core.rndOf, Core.setRnd, SMap.get_put, hk]
    · simp [State.land, Core.land, State.setRng, Core.setRnd]
  cases qd <;> exact key _ _

/-- The element-wise operations complete. -/
theorem laneWise_of {i : Instr} {s : State} {d a : BitVec 5} {qd qa : Bool} {db sb lat : Nat}
    {f : Nat → Lane → Word → Lane × Word} (h : exec i s = s.vmap d a qd qa db sb lat f) :
    Safety.LaneWise i s d a qd qa db sb lat f := by
  intro hp
  have hc : chkPorts d a qd qa db sb s = none := by
    simp only [chkPorts, firstUse_eq_none]
    intro x hx
    simp only [List.mem_cons, List.not_mem_nil, or_false] at hx
    rcases hx with rfl | rfl
    · cases qa with
      | false => rfl
      | true => obtain ⟨h1, h2, h3⟩ := hp.1 rfl; simp [State.portUse, h1, h2, h3]
    · cases qd with
      | false => rfl
      | true => obtain ⟨h1, h2, h3⟩ := hp.2 rfl; simp [State.portUse, h1, h2, h3]
  refine ⟨_, by rw [h, State.vmap, hc]; rfl, ?_⟩
  exact setRng_vput (Safety.popped s a qa) _ d qd lat _

/-- The compares complete. -/
theorem maskWise_of {i : Instr} {s : State} {kd : BitVec 3} {a : BitVec 5} {et : BitVec 3} {qa : Bool}
    {f : Nat → Lane → Bool} (h : exec i s = s.vcmp kd a et qa f) :
    Safety.MaskWise i s kd a qa (etBytes et) f := by
  intro hp
  have hc : chkPorts 0 a false qa 0 (etBytes et) s = none := by
    cases qa with
    | false => rfl
    | true => obtain ⟨h1, h2, h3⟩ := hp rfl; simp [chkPorts, State.portUse, h1, h2, h3]
  exact ⟨_, by rw [h, State.vcmp, hc]; rfl, land_gives (Safety.popped s a qa) _ _ 2⟩

/-- The lane moves complete. -/
theorem movesLanes_of {i : Instr} {s : State} {d : BitVec 5} {lat : Nat} {f : Nat → Lane}
    (h : exec i s = s.vmove d lat f) : Safety.MovesLanes i s d lat f := ⟨_, h, vput_gives s d false lat _⟩

/-- Lane results that draw complete. -/
theorem drawsLanes_of {i : Instr} {s : State} {d : BitVec 5} {lat : Nat} {r : List (Nat × Lane) × Word}
    (h : exec i s = .next ((s.setRng r.2).vput d false lat r.1)) : Safety.DrawsLanes i s d lat r :=
  ⟨_, h, setRng_vput s r.2 d false lat r.1⟩

/-- The mask operations complete. -/
theorem givesMask_of {i : Instr} {s : State} {kd : BitVec 3} {v : BitVec 16} (h : exec i s = s.kput kd v) :
    Safety.GivesMask i s kd v := gives_of h

end Sys2Proof.Machine
end

