-- ==== Sys2Proof/Laws/Store.lean ====
section
/-! SUPPORT. Laws of the protected stores: undamaged bytes read as they are stored, and a write changes the bytes
it names and no others. -/

namespace Sys2Proof.Machine

open Sys2Proof Safety

theorem seqFrom_length (a n : Nat) : (seqFrom a n).length = n := by
  induction n generalizing a with
  | zero => rfl
  | succ n ih => simp [seqFrom, ih]

theorem mem_seqFrom {a n x : Nat} : x ∈ seqFrom a n ↔ a ≤ x ∧ x < a + n := by
  induction n generalizing a with
  | zero => simp [seqFrom]
  | succ n ih => simp only [seqFrom, List.mem_cons, ih]; omega

theorem seqFrom_append (a m n : Nat) : seqFrom a (m + n) = seqFrom a m ++ seqFrom (a + m) n := by
  induction m generalizing a with
  | zero => simp [seqFrom]
  | succ m ih => rw [show m + 1 + n = (m + n) + 1 by omega]; simp [seqFrom, ih]; congr 1; omega

theorem seqFrom_getElem (a n i : Nat) (h : i < (seqFrom a n).length) : (seqFrom a n)[i] = a + i := by
  induction n generalizing a i with
  | zero => simp [seqFrom] at h
  | succ n ih =>
    cases i with
    | zero => rfl
    | succ i => simp only [seqFrom, List.getElem_cons_succ]; rw [ih]; omega

@[simp] theorem State.bytes_length (s : State) (a n : Nat) : (s.bytes a n).length = n := by simp [State.bytes, seqFrom_length]

theorem State.bytes_append (s : State) (a m n : Nat) : s.bytes a (m + n) = s.bytes a m ++ s.bytes (a + m) n := by
  simp [State.bytes, seqFrom_append]

theorem sector_clean {s : State} (h : s.sect = []) (a : Nat) : s.sector a = {} := by simp [State.sector, h]

/-- An undamaged byte of a vault or another coded store reads as it is. -/
theorem readOther_clean {s : State} (h : Undamaged s) (a : Nat) : s.readOther a = (s.byte a, 0, false) := by
  have hw : wordFlips a [] = [] := by simp [wordFlips]
  simp [State.readOther, sector_clean h.1, h.2, wordFate, hw]


theorem decodeImage_clean (free : Nat) (l : Layout) (k : Nat) (d : List Byte) :
    decodeImage free l k d [] = (d, List.replicate 64 0, []) := by
  have h : ∀ n a, List.map (fun _ : Nat => (0 : Nat)) (seqFrom a n) = List.replicate n 0 := by
    intro n; induction n with
    | zero => intro a; rfl
    | succ n ih => intro a; simp [seqFrom, ih, List.replicate_succ]
  simp [decodeImage, distinct, h]

/-- An undamaged sector reads as it is stored. -/
theorem decodeSector_clean {s : State} (h : Undamaged s) (a : Nat) :
    s.decodeSector a = { data := s.bytes (a / 64 * 64) 64, cls := List.replicate 64 0, hit := List.replicate 64 0,
                         pa := a / 64 * 64 } := by
  have ht : ({} : Sector).tagFound = some 0 := rfl
  have h0 : (List.replicate 64 0).map (max 0) = List.replicate 64 0 := rfl
  have hb : ((0 : Nat) != ({} : Sector).tag.toNat) = false := rfl
  simp only [State.decodeSector, sector_clean h.1, ht, Option.getD_some, hb, decodeImage_clean, h0]
  rfl

theorem stackLost_none {s : State} (h : s.err.lost = 0) (k : Nat) : s.stackLost k = false := by
  simp [State.stackLost, h]

theorem readHbm_clean {s : State} (h : Undamaged s) (ht : s.torn = []) (hl : s.err.lost = 0) (a : Nat) :
    s.readHbm a = (s, { data := s.bytes (a / 64 * 64) 64, cls := List.replicate 64 0, hit := List.replicate 64 0,
                         pa := a / 64 * 64 }) := by
  have hw : ∀ f : Find, f.cls = List.replicate 64 0 → f.worst = 0 := by
    intro f hf; simp [Find.worst, hf]
  simp [State.readHbm, stackLost_none hl, ht, decodeSector_clean h, hw]

theorem linesOf_one {f a n : Nat} (hn : 0 < n) (hl : a / 64 = (a + n - 1) / 64) : linesOf (f + 2) a n = [(a, n)] := by
  have : min n (64 - a % 64) = n := by omega
  simp [linesOf, this, show n ≠ 0 by omega]


theorem vaultAddr_inVault {q off : Nat} (hq : q < 288) (ho : off < 0x800000) : inVault (vaultAddr q off) = true := by
  have h1 : 0x10000000000 ≤ vaultAddr q off := by unfold vaultAddr; omega
  have h2 : vaultAddr q off < 0x10090000000 := by unfold vaultAddr; omega
  simp [inVault, h1, h2]

theorem vaultAddr_core {q off : Nat} (hq : q < 288) (ho : off < 0x800000) : vaultCore (vaultAddr q off) = q := by
  simp only [vaultCore, vaultAddr]; omega

theorem vault_not_hbm (s : State) {a : Nat} (h : inVault a = true) : s.inHbm a = false := by
  simp only [inVault, Bool.and_eq_true, decide_eq_true_eq] at h
  simp only [State.inHbm, State.dataUnits]
  split <;> simp <;> omega

theorem vaultGone_same (s : State) {q x y : Nat} (hx : x < 0x800000) (hy : y < 0x800000) :
    s.vaultGone (vaultAddr q x) = s.vaultGone (vaultAddr q y) ∨ ¬ q < 288 := by
  by_cases h : q < 288
  · left; simp [State.vaultGone, vaultAddr_inVault h hx, vaultAddr_inVault h hy, vaultAddr_core h hx, vaultAddr_core h hy]
  · right; exact h

/-- Counting an access to a vault changes the power counts alone. -/
theorem lineEvents_vault (s : State) {a : Nat} (hi : inVault a = true) : ∃ w, s.lineEvents a = { s with pow := w } := by
  simp only [State.lineEvents, vault_not_hbm s hi, hi, Bool.false_eq_true, if_false, if_true]
  split
  · exact ⟨_, rfl⟩
  · exact ⟨_, rfl⟩

/-- An undamaged part of a line of a vault reads as it is stored; only the power counts change. -/
theorem readLine_vault {s : State} (h : Undamaged s) {a n : Nat} (hi : inVault a = true) (hv : s.vaultGone a = false) :
    s.readLine a n = (s.lineEvents a, s.bytes a n, List.replicate n 0, []) := by
  obtain ⟨w, hw⟩ := lineEvents_vault s hi
  have hu : Undamaged (s.lineEvents a) := by rw [hw]; exact h
  have hb : (s.lineEvents a).byte = s.byte := by rw [hw]; rfl
  have hz : ∀ a, (seqFrom a n).map (fun _ => (0 : Nat)) = List.replicate n 0 := by
    intro a; rw [List.map_const', seqFrom_length]
  have hm : ∀ l : List Nat, l.foldl max 0 = 0 ↔ ∀ x ∈ l, x = 0 := by
    intro l
    have : ∀ (l : List Nat) k, l.foldl max k = 0 ↔ k = 0 ∧ ∀ x ∈ l, x = 0 := by
      intro l; induction l with
      | nil => simp
      | cons y r ih => intro k; simp only [List.foldl_cons, ih, List.mem_cons, forall_eq_or_imp, Nat.max_eq_zero_iff, and_assoc]
    simpa using this l 0
  have hr : (s.lineEvents a).readOther = fun x => (s.byte x, 0, false) := by funext x; rw [readOther_clean hu, hb]
  simp only [State.readLine, vault_not_hbm s hi, hv, hi, Bool.false_eq_true, if_false, hr, List.map_map, Function.comp_def, hz]
  rw [if_neg]
  · rfl
  · have : ∀ x, (if a ≤ x ∧ x < a + n then ((List.replicate n 0)[x - a]?).getD 0 else 0) = 0 := by
      intro x; split
      · rw [List.getElem?_replicate]; split <;> rfl
      · rfl
    simp only [Find.any, Find.worst, this]
    simp [hm]

/-- Writing an undamaged byte of a coded store. -/
theorem writeOther_clean {s : State} (h : Undamaged s) (a : Nat) (v : Byte) (w : Bool) : s.writeOther a v 0 w = s.setByte a v := by
  have h2 := h.2
  have : ({ s with marks := SMap.put s.marks 0 (markKey a) 0 } : State) = s := by
    have : SMap.put s.marks 0 (markKey a) 0 = s.marks := by simp [SMap.put, h2]
    rw [this]
  have hc : markClass a 0 = 0 := by simp [markClass]
  simp only [State.writeOther, sector_clean h.1, hc]
  have hw : wordFlips a [] = [] := by simp [wordFlips]
  simp [wordFate, hw]
  rw [show s.marks.get 0 (markKey a) = 0 by rw [h2]; rfl]
  simp [this]

theorem undamaged_setByte {s : State} (h : Undamaged s) (a : Nat) (b : Byte) : Undamaged (s.setByte a b) := h
theorem undamaged_setBytes {s : State} (h : Undamaged s) (a : Nat) (d : List Byte) : Undamaged (s.setBytes a d) := by
  induction d generalizing s a with
  | nil => exact h
  | cons b r ih => exact ih (s := s.setByte a b) h (a + 1)

theorem setBytes_append (s : State) (a : Nat) (d e : List Byte) :
    s.setBytes a (d ++ e) = (s.setBytes a d).setBytes (a + d.length) e := by
  induction d generalizing s a with
  | nil => rfl
  | cons b r ih => simp only [List.cons_append, State.setBytes, ih, List.length_cons]; congr 1; omega

/-- Writing part of a line of an undamaged vault. -/
theorem writeLine_vault {s : State} (h : Undamaged s) {a : Nat} (d : List Byte) (lc : Option Nat) (hi : inVault a = true)
    (hv : s.vaultGone a = false) : s.writeLine a d [] lc = ((s.lineEvents a).setBytes a d, []) := by
  have hh : inHost a = false := by
    simp only [inVault, Bool.and_eq_true, decide_eq_true_eq] at hi; simp [inHost]; omega
  have hp : inPeer a = false := by
    simp only [inVault, Bool.and_eq_true, decide_eq_true_eq] at hi; simp [inPeer]; omega
  obtain ⟨w, hw⟩ := lineEvents_vault s hi
  have hu : Undamaged (s.lineEvents a) := by rw [hw]; exact h
  simp only [State.writeLine, vault_not_hbm s hi, hv, hh, hp, Bool.false_eq_true, if_false, Bool.or_self, Bool.false_and, List.nil_append]
  congr 1
  have key : ∀ (d : List Byte) (k : Nat) (t : State) (f : Nat → Bool), Undamaged t →
      ((d.zip (List.replicate d.length 0)).zip (seqFrom k d.length)).foldl
        (fun s x => s.writeOther x.2 x.1.1 x.1.2 (f x.2)) t = t.setBytes k d := by
    intro d
    induction d with
    | nil => intros; rfl
    | cons b r ih =>
      intro k t f ht
      simp only [List.length_cons, List.replicate_succ, List.zip_cons_cons, seqFrom, List.foldl_cons, State.setBytes]
      rw [writeOther_clean ht, ih _ _ _ (undamaged_setByte ht _ _)]
  exact key d a _ (fun x => decide (a ≤ markKey x) && decide (markKey x + codeWordSize a ≤ a + d.length)) hu

/-- A fold over the pieces of a range that is one piece. -/
theorem foldl_one {α β : Type} (f : α → β → α) (i : α) (x : β) : List.foldl f i [x] = f i x := rfl

/-- Noting what has changed before a write changes the histories of units alone. -/
theorem noteBefore_eq (s : State) (a n : Nat) : ∃ m u, s.noteBefore a n = { s with past := m, units := u } := by
  unfold State.noteBefore
  split
  · exact ⟨s.past, s.units, rfl⟩
  · unfold State.noteWrites
    split
    · exact ⟨s.past, s.units, rfl⟩
    · split
      · exact ⟨s.past, s.units, rfl⟩
      · exact ⟨_, _, rfl⟩

/-- A write that stays in one line. -/
theorem writeStore_line (s : State) {a : Nat} (d : List Byte) (cls : List Nat) (lc : Option Nat) (hn : d ≠ [])
    (hl : a / 64 = (a + d.length - 1) / 64) :
    s.writeStore a d cls lc = (s.noteBefore a d.length).writeLine a d (cls.take d.length) lc := by
  have hd : 0 < d.length := List.length_pos_iff.2 hn
  have e1 : (d.drop (a - a)).take d.length = d := by simp
  have e2 : (cls.drop (a - a)).take d.length = cls.take d.length := by simp
  unfold State.writeStore
  generalize s.noteBefore a d.length = u
  rw [linesOf_one hd hl, foldl_one]
  show (let x := u.writeLine a ((d.drop (a - a)).take d.length) ((cls.drop (a - a)).take d.length) lc
    (x.1, ([] : List Find) ++ x.2)) = _
  rw [e1, e2]
  generalize u.writeLine a d (List.take d.length cls) lc = r
  cases r; rfl

/-- Writing bytes that stay in one line of an undamaged vault. -/
theorem writeStore_vault {s : State} (h : Undamaged s) {a : Nat} (d : List Byte) (lc : Option Nat) (hi : inVault a = true)
    (hv : s.vaultGone a = false) (hn : d ≠ []) (hl : a / 64 = (a + d.length - 1) / 64) :
    s.writeStore a d [] lc = (((s.noteBefore a d.length).lineEvents a).setBytes a d, []) := by
  rw [writeStore_line s d [] lc hn hl, List.take_nil]
  obtain ⟨m, u, e⟩ := noteBefore_eq s a d.length
  rw [e]
  exact writeLine_vault (s := { s with past := m, units := u }) h d lc hi hv

/-- Reading bytes that stay in one line. -/
theorem readStore_line (s : State) {a n : Nat} (hn : 0 < n) (hl : a / 64 = (a + n - 1) / 64) :
    s.readStore a n = s.readLine a n := by
  unfold State.readStore
  rw [linesOf_one hn hl, foldl_one]
  show (let x := s.readLine a n; (x.1, ([] : List Byte) ++ x.2.1, ([] : List Nat) ++ x.2.2.1, ([] : List Find) ++ x.2.2.2)) = _
  generalize s.readLine a n = r
  rfl

theorem readStore_vault_line {s : State} (h : Undamaged s) {a n : Nat} (hi : inVault a = true) (hv : s.vaultGone a = false)
    (hn : 0 < n) (hl : a / 64 = (a + n - 1) / 64) :
    s.readStore a n = (s.lineEvents a, s.bytes a n, List.replicate n 0, []) := by
  rw [readStore_line s hn hl, readLine_vault h hi hv]

/-! ### The parity journal -/

theorem byte_setBytes_below (s : State) {a b : Nat} (d : List Byte) (h : b < a) : (s.setBytes a d).byte b = s.byte b :=
  State.byte_setBytes_outside s a d (.inl h)

theorem applyEntry_byte (s : State) (e : JEntry) {b : Nat} (h : b < parityAddr 0 0) : (s.applyEntry e).byte b = s.byte b := by
  have hb : b < parityAddr e.stripe (64 * e.sector) := by simp only [parityAddr] at *; omega
  unfold State.applyEntry
  split <;> exact byte_setBytes_below s _ hb

/-- A journal append changes the stored bytes as the retirement of the oldest entry does, if at all. -/
theorem logDelta_mem (s : State) (e : JEntry) : (s.logDelta e).mem = s.mem ∨ ∃ x, (s.logDelta e).mem = (s.applyEntry x).mem := by
  by_cases h1 : s.stackLost (s.parityStack e.stripe) = true
  · left; simp only [State.logDelta, h1, if_true]
  · by_cases h2 : (SMap.get s.journal [] (s.parityStack e.stripe)).length +
        (s.torn.filter fun t => s.parityStack (s.stripeOf (64 * t)) == s.parityStack e.stripe).length < 8192
    · left; simp only [State.logDelta, h1, h2, if_true, if_false, Bool.false_eq_true]
    · cases h : SMap.get s.journal [] (s.parityStack e.stripe) with
      | nil =>
        left
        rw [h] at h2
        simp only [State.logDelta, h1, h2, h, if_false, Bool.false_eq_true]
      | cons x r =>
        right; refine ⟨x, ?_⟩
        rw [h] at h2
        simp only [State.logDelta, h1, h2, h, if_false, Bool.false_eq_true]

theorem logDelta_byte (s : State) (e : JEntry) {b : Nat} (h : b < parityAddr 0 0) : (s.logDelta e).byte b = s.byte b := by
  rcases logDelta_mem s e with h1 | ⟨x, h1⟩
  · simp only [State.byte, h1]
  · rw [← applyEntry_byte s x h]; simp only [State.byte, h1]

theorem inHbm_iff (s : State) (a : Nat) : s.inHbm a = true ↔ a < 0x1000000000 * s.dataUnits := decide_eq_true_iff

theorem inHbm_parity {s : State} {a : Nat} (h : s.inHbm a = true) : a < parityAddr 0 0 := by
  rw [inHbm_iff] at h
  have : s.dataUnits ≤ 11 := by unfold State.dataUnits; split <;> omega
  unfold parityAddr; omega

theorem inHbm_mono {s : State} {a b : Nat} (h : s.inHbm a = true) (hb : b ≤ a) : s.inHbm b = true := by
  rw [inHbm_iff] at *; omega

theorem setBytes_frame (s : State) (a : Nat) (d : List Byte) : ({ s.setBytes a d with mem := s.mem } : State) = s := by
  induction d generalizing s a with
  | nil => rfl
  | cons b r ih =>
    have h := ih (s.setByte a b) (a + 1)
    have : ({ (s.setByte a b) with mem := s.mem } : State) = s := rfl
    calc _ = ({ ({ (s.setByte a b).setBytes (a + 1) r with mem := (s.setByte a b).mem } : State) with mem := s.mem } : State) := rfl
      _ = _ := by rw [h]; rfl

/-- A write within one sector of undamaged HBM with every stack in place. -/
theorem writeHbm_clean {s : State} (h : Undamaged s) (ht : s.torn = []) (hl : s.err.lost = 0) {b : Nat} (off : Nat)
    (d : List Byte) (lc : Option Nat) (hb : b % 64 = 0) (ho : off + d.length ≤ 64) (hi : s.inHbm b = true) :
    ∃ t, s.writeHbm b off d lc 0 = (t, []) ∧ (∀ k, (hk : k < d.length) → t.byte (b + off + k) = d[k]) ∧
      (∀ c, c < parityAddr 0 0 → (c < b + off ∨ b + off + d.length ≤ c) → t.byte c = s.byte c) := by
  have hbb : b / 64 * 64 = b := by omega
  have hany : ∀ (f : Find), f.fixed = false → f.rebuilt = false → f.cls = List.replicate 64 0 → f.any = false := by
    intro f h1 h2 h3; simp [Find.any, h1, h2, Find.worst, h3]
  have hr := readHbm_clean h ht hl b
  rw [hbb] at hr
  simp only [State.writeHbm, stackLost_none hl, Bool.false_and, Bool.false_eq_true, if_false, hbb, hr, ht]
  have hm : ∀ (t : State) (m : List Byte) (tag mk : Nat) (e : JEntry) (c : Nat), c < parityAddr 0 0 →
      ((t.storeImage b m tag mk).logDelta e).byte c = (t.setBytes b m).byte c := by
    intro t m tag mk e c hc
    rw [logDelta_byte _ _ hc, State.storeImage, hbb]; rfl
  have hlt : ∀ c, c < b + 64 → c < parityAddr 0 0 := by
    intro c hc
    rw [inHbm_iff] at hi
    have : s.dataUnits ≤ 11 := by unfold State.dataUnits; split <;> omega
    unfold parityAddr; omega
  have hlen : ((s.bytes b 64).take off ++ d ++ (s.bytes b 64).drop (off + d.length)).length = 64 := by
    simp; omega
  refine ⟨_, by rw [hany _ rfl rfl rfl]; simp; rfl, ?_, ?_⟩
  · intro k hk
    rw [hm _ _ _ _ _ _ (hlt _ (by omega)), Nat.add_assoc, State.byte_setBytes_inside _ _ _ _ (by simp; omega)]
    rw [List.getElem_append_right (by simp), List.getElem_append_left (by simp; omega)]
    congr 1; simp; omega
  · intro c hc hr
    rw [hm _ _ _ _ _ _ hc]
    by_cases hin : b ≤ c ∧ c < b + 64
    · obtain ⟨j, rfl⟩ : ∃ j, c = b + j := ⟨c - b, by omega⟩
      rw [State.byte_setBytes_inside _ _ _ _ (by simp; omega)]
      rcases Nat.lt_or_ge j off with hj | hj
      · rw [List.getElem_append_left (by simp; omega), List.getElem_take]
        simp [State.bytes, seqFrom_getElem]
      · rw [List.getElem_append_right (by simp; omega), List.getElem_append_right (by simp; omega), List.getElem_drop]
        simp [State.bytes, seqFrom_getElem, seqFrom_length]
        congr 1; omega
    · rw [State.byte_setBytes_outside]; simp; omega
end Sys2Proof.Machine
end

