-- ==== Sys2Proof/Tests/Slice0.lean ====
section
/-! SUPPORT. Tests: words of every encoding, terms without one, small steps, and for every statement with
hypotheses a state and operands that meet them. Expected values are the manual's own or worked out by hand from
its rules. -/

namespace Sys2Proof.Tests

open Sys2Proof Sys2Proof.Machine Sys2Proof.Safety

/-! ### Decoding -/

/-- Every listed word decodes to what stands beside it. -/
def reads (f : BitVec 32 → Decoded) (l : List (BitVec 32 × Instr)) : Bool := l.all fun x => decide (f x.1 = .ok x.2)

/-- No listed word is an instruction. -/
def rejects (f : BitVec 32 → Decoded) (l : List (BitVec 32)) : Bool := l.all fun x => !(f x).toBool

/-- S-slot words of major 0x01 (04 R103, R104; 05 R119), written out field by field. -/
theorem test_decode_integer1 : reads decodeS [
    (1#6 ++ 3#5 ++ 0x11#5 ++ 0x1f#5 ++ 0#11, .add 3 17 31),
    (1#6 ++ 3#5 ++ 0x11#5 ++ 0x1f#5 ++ 1#11, .sub 3 17 31),
    (1#6 ++ 3#5 ++ 0x11#5 ++ 0x1f#5 ++ 2#11, .and 3 17 31),
    (1#6 ++ 3#5 ++ 0x11#5 ++ 0x1f#5 ++ 3#11, .or 3 17 31),
    (1#6 ++ 3#5 ++ 0x11#5 ++ 0x1f#5 ++ 4#11, .xor 3 17 31),
    (1#6 ++ 3#5 ++ 0x11#5 ++ 0x1f#5 ++ 5#11, .sll 3 17 31),
    (1#6 ++ 3#5 ++ 0x11#5 ++ 0x1f#5 ++ 6#11, .srl 3 17 31),
    (1#6 ++ 3#5 ++ 0x11#5 ++ 0x1f#5 ++ 7#11, .sra 3 17 31),
    (1#6 ++ 3#5 ++ 0x11#5 ++ 0x1f#5 ++ 8#11, .mul 3 17 31),
    (1#6 ++ 3#5 ++ 0x11#5 ++ 0x1f#5 ++ 9#11, .mulh 3 17 31),
    (1#6 ++ 3#5 ++ 0x11#5 ++ 0x1f#5 ++ 0xa#11, .mulhu 3 17 31),
    (1#6 ++ 3#5 ++ 0x11#5 ++ 0x1f#5 ++ 0xb#11, .div 3 17 31),
    (1#6 ++ 3#5 ++ 0x11#5 ++ 0x1f#5 ++ 0xc#11, .divu 3 17 31),
    (1#6 ++ 3#5 ++ 0x11#5 ++ 0x1f#5 ++ 0xd#11, .rem 3 17 31),
    (1#6 ++ 3#5 ++ 0x11#5 ++ 0x1f#5 ++ 0xe#11, .remu 3 17 31),
    (1#6 ++ 3#5 ++ 0x11#5 ++ 0x1f#5 ++ 0xf#11, .min 3 17 31),
    (1#6 ++ 3#5 ++ 0x11#5 ++ 0x1f#5 ++ 0x10#11, .max 3 17 31),
    (1#6 ++ 3#5 ++ 0x11#5 ++ 0x1f#5 ++ 0x11#11, .minu 3 17 31),
    (1#6 ++ 3#5 ++ 0x11#5 ++ 0x1f#5 ++ 0x12#11, .maxu 3 17 31),
    (1#6 ++ 3#5 ++ 0x11#5 ++ 0x1f#5 ++ 0x13#11, .slt 3 17 31),
    (1#6 ++ 3#5 ++ 0x11#5 ++ 0x1f#5 ++ 0x14#11, .sltu 3 17 31),
    (1#6 ++ 5#5 ++ 0x1e#5 ++ 0#5 ++ 0x15#11, .clz 5 30),
    (1#6 ++ 5#5 ++ 0x1e#5 ++ 0#5 ++ 0x16#11, .ctz 5 30),
    (1#6 ++ 5#5 ++ 0x1e#5 ++ 0#5 ++ 0x17#11, .popc 5 30)] = true := by
  decide

/-- S-slot words of major 0x01 (04 R103, R104; 05 R119), written out field by field. -/
theorem test_decode_integer2 : reads decodeS [
    (1#6 ++ 5#5 ++ 0x1e#5 ++ 0#5 ++ 0#3 ++ 0#2 ++ 0x18#6, .sextB 5 30),
    (1#6 ++ 5#5 ++ 0x1e#5 ++ 0#5 ++ 0#3 ++ 1#2 ++ 0x18#6, .sextH 5 30),
    (1#6 ++ 5#5 ++ 0x1e#5 ++ 0#5 ++ 0#3 ++ 2#2 ++ 0x18#6, .sextW 5 30),
    (1#6 ++ 5#5 ++ 0x1e#5 ++ 0#5 ++ 0#3 ++ 0#2 ++ 0x19#6, .zextB 5 30),
    (1#6 ++ 5#5 ++ 0x1e#5 ++ 0#5 ++ 0#3 ++ 1#2 ++ 0x19#6, .zextH 5 30),
    (1#6 ++ 5#5 ++ 0x1e#5 ++ 0#5 ++ 0#3 ++ 2#2 ++ 0x19#6, .zextW 5 30)] = true := by
  decide

/-- S-slot words of format SI (05 R121), written out field by field. -/
theorem test_decode_immediate : reads decodeS [
    (2#6 ++ 1#5 ++ 2#5 ++ 0xfff9#16, .addi 1 2 0xFFF9),
    (3#6 ++ 1#5 ++ 2#5 ++ 0xfff9#16, .andi 1 2 0xFFF9),
    (4#6 ++ 1#5 ++ 2#5 ++ 0xfff9#16, .ori 1 2 0xFFF9),
    (5#6 ++ 1#5 ++ 2#5 ++ 0xfff9#16, .xori 1 2 0xFFF9),
    (6#6 ++ 1#5 ++ 2#5 ++ 0#10 ++ 0x3f#6, .slli 1 2 63),
    (7#6 ++ 1#5 ++ 2#5 ++ 0#10 ++ 0x3f#6, .srli 1 2 63),
    (8#6 ++ 1#5 ++ 2#5 ++ 0#10 ++ 0x3f#6, .srai 1 2 63),
    (9#6 ++ 1#5 ++ 2#5 ++ 0x8001#16, .slti 1 2 0x8001),
    (0xa#6 ++ 1#5 ++ 2#5 ++ 0x8001#16, .lih 1 2 0x8001)] = true := by
  decide

/-- Majors 0x0B to 0x0E (05 R123, R124), written out field by field. -/
theorem test_decode_addressAndPredicate : reads decodeS [
    (0xb#6 ++ 0#1 ++ 0xf#4 ++ 0#1 ++ 7#4 ++ 0x1f#5 ++ 0#11, .aadd 15 7 31),
    (0xb#6 ++ 0#1 ++ 0xf#4 ++ 0#1 ++ 7#4 ++ 0#5 ++ 1#11, .amov 15 7),
    (0xb#6 ++ 0x1f#5 ++ 0#1 ++ 7#4 ++ 0#5 ++ 2#11, .movsa 31 7),
    (0xb#6 ++ 0#1 ++ 0xf#4 ++ 0x1e#5 ++ 0#5 ++ 3#11, .movas 15 30),
    (0xc#6 ++ 0#1 ++ 0xf#4 ++ 0#1 ++ 7#4 ++ 0x8000#16, .aaddi 15 7 0x8000),
    (0xd#6 ++ 0#2 ++ 6#3 ++ 0x14#5 ++ 9#5 ++ 0#11, .cmpEq 6 20 9),
    (0xd#6 ++ 0#2 ++ 6#3 ++ 0x14#5 ++ 9#5 ++ 1#11, .cmpNe 6 20 9),
    (0xd#6 ++ 0#2 ++ 6#3 ++ 0x14#5 ++ 9#5 ++ 2#11, .cmpLt 6 20 9),
    (0xd#6 ++ 0#2 ++ 6#3 ++ 0x14#5 ++ 9#5 ++ 3#11, .cmpGe 6 20 9),
    (0xd#6 ++ 0#2 ++ 6#3 ++ 0x14#5 ++ 9#5 ++ 4#11, .cmpLtu 6 20 9),
    (0xd#6 ++ 0#2 ++ 6#3 ++ 0x14#5 ++ 9#5 ++ 5#11, .cmpGeu 6 20 9),
    (0xe#6 ++ 0#2 ++ 6#3 ++ 0#2 ++ 5#3 ++ 0#2 ++ 3#3 ++ 0#11, .pand 6 5 3),
    (0xe#6 ++ 0#2 ++ 6#3 ++ 0#2 ++ 5#3 ++ 0#2 ++ 3#3 ++ 1#11, .por 6 5 3),
    (0xe#6 ++ 0#2 ++ 6#3 ++ 0#2 ++ 5#3 ++ 0#5 ++ 2#11, .pnot 6 5)] = true := by
  decide

/-- Transfers, loads, stores and parameters (05 R122, R126 to R139), written out field by field. -/
theorem test_decode_control1 : reads decodeS [
    (0#32, .nop),
    (0x10#6 ++ 0#13 ++ 1#1 ++ 0x1ff#12, .br true 0x1FF),
    (0x11#6 ++ 5#3 ++ 0#1 ++ 0#9 ++ 0#1 ++ 0xabc#12, .brp 5 false 0xABC),
    (0x11#6 ++ 5#3 ++ 1#1 ++ 0#9 ++ 0#1 ++ 0xabc#12, .brpN 5 false 0xABC),
    (0x12#6 ++ 0x1f#5 ++ 0#8 ++ 0#1 ++ 0x123#12, .call 31 false 0x123),
    (0x13#6 ++ 0x1f#5 ++ 0#21, .ret 31),
    (0x14#6 ++ 1#5 ++ 0#8 ++ 0#1 ++ 0xc#12, .loop 1 false 0x00C),
    (0x15#6 ++ 0#13 ++ 0#1 ++ 0x800#12, .bswap false 0x800),
    (0x16#6 ++ 0#26, .halt),
    (0x18#6 ++ 9#5 ++ 0#1 ++ 0xe#4 ++ 0xfff8#16, .sldB 9 14 0xFFF8),
    (0x1c#6 ++ 9#5 ++ 0#1 ++ 0xe#4 ++ 0xfff8#16, .sstB 9 14 0xFFF8),
    (0x19#6 ++ 9#5 ++ 0#1 ++ 0xe#4 ++ 0xfff8#16, .sldH 9 14 0xFFF8),
    (0x1d#6 ++ 9#5 ++ 0#1 ++ 0xe#4 ++ 0xfff8#16, .sstH 9 14 0xFFF8),
    (0x1a#6 ++ 9#5 ++ 0#1 ++ 0xe#4 ++ 0xfff8#16, .sldW 9 14 0xFFF8),
    (0x1e#6 ++ 9#5 ++ 0#1 ++ 0xe#4 ++ 0xfff8#16, .sstW 9 14 0xFFF8),
    (0x1b#6 ++ 9#5 ++ 0#1 ++ 0xe#4 ++ 0xfff8#16, .sldD 9 14 0xFFF8),
    (0x1f#6 ++ 9#5 ++ 0#1 ++ 0xe#4 ++ 0xfff8#16, .sstD 9 14 0xFFF8),
    (0x20#6 ++ 9#5 ++ 0#1 ++ 0xe#4 ++ 0x7ff#11 ++ 3#2 ++ 1#1 ++ 0#1 ++ 0#1, .gld 9 14 0x7FF 3 true false),
    (0x20#6 ++ 9#5 ++ 0#1 ++ 0xe#4 ++ 0x7ff#11 ++ 2#2 ++ 0#1 ++ 1#1 ++ 0#1, .gld 9 14 0x7FF 2 false true),
    (0x21#6 ++ 9#5 ++ 0#1 ++ 0xe#4 ++ 0x7ff#11 ++ 1#2 ++ 1#1 ++ 0#2, .gst 9 14 0x7FF 1 true),
    (0x22#6 ++ 0#2 ++ 5#3 ++ 9#5 ++ 0#16, .msetp 5 9),
    (0x23#6 ++ 9#5 ++ 0#2 ++ 5#3 ++ 0#16, .mgetp 9 5),
    (0x24#6 ++ 0#5 ++ 9#5 ++ 0#16, .setfmt 9),
    (0x25#6 ++ 0#5 ++ 9#5 ++ 0#16, .setmpc 9)] = true := by
  decide

/-- Transfers, loads, stores and parameters (05 R122, R126 to R139), written out field by field. -/
theorem test_decode_control2 : reads decodeS [
    (0x26#6 ++ 9#5 ++ 0#21, .getmpc 9)] = true := by
  decide

/-- System and hub words (05 R140 to R151; 12 R325 to R341), written out field by field. -/
theorem test_decode_systemAndHub1 : reads decodeS [
    (0x28#6 ++ 9#5 ++ 0#5 ++ 0x14#16, .sysrd 9 0x14),
    (0x29#6 ++ 0#5 ++ 9#5 ++ 0x14#16, .syswr 0x14 9),
    (0x2a#6 ++ 0#10 ++ 0x1234#16, .trap 0x1234),
    (0x2b#6 ++ 0#26, .tret),
    (0x2c#6 ++ 0#26, .ifence),
    (0x2d#6 ++ 0#18 ++ 0xab#8, .snap 0xAB),
    (0x2e#6 ++ 0#26, .wfe),
    (0x30#6 ++ 9#5 ++ 0x11#5 ++ 0#5 ++ 0#11, .hlaunch 9 17),
    (0x30#6 ++ 0#5 ++ 0x11#5 ++ 0#5 ++ 1#11, .hlaunchSealg 17),
    (0x30#6 ++ 0#5 ++ 0#5 ++ 0#5 ++ 2#11, .hlaunchSealp),
    (0x30#6 ++ 0#5 ++ 0#5 ++ 0#5 ++ 3#11, .hlaunchEnd),
    (0x31#6 ++ 9#5 ++ 0x11#5 ++ 0x17#5 ++ 0#11, .hwaitc 9 17 23),
    (0x32#6 ++ 0#5 ++ 0x11#5 ++ 0#5 ++ 0#11, .hcancel 17),
    (0x33#6 ++ 0#5 ++ 0x11#5 ++ 0x17#5 ++ 0#11, .hsetc 17 23),
    (0x33#6 ++ 0#5 ++ 0x11#5 ++ 0x17#5 ++ 1#11, .hsetcAdd 17 23),
    (0x34#6 ++ 9#5 ++ 0x11#5 ++ 0#5 ++ 0#11, .hreadc 9 17),
    (0x34#6 ++ 9#5 ++ 0x11#5 ++ 0#5 ++ 1#11, .hreadcSt 9 17),
    (0x35#6 ++ 0#5 ++ 0x11#5 ++ 0#5 ++ 0#11, .hstop 17),
    (0x35#6 ++ 0#5 ++ 0x11#5 ++ 0x17#5 ++ 1#11, .hstopU 17 23),
    (0x36#6 ++ 9#5 ++ 0x11#5 ++ 0#5 ++ 0#11, .hctx 9 17),
    (0x36#6 ++ 0#5 ++ 0x11#5 ++ 0#5 ++ 1#11, .hctxKill 17),
    (0x36#6 ++ 0#5 ++ 0x11#5 ++ 0#5 ++ 2#11, .hctxHold 17),
    (0x36#6 ++ 0#5 ++ 0x11#5 ++ 0#5 ++ 3#11, .hctxRun 17),
    (0x37#6 ++ 9#5 ++ 0x11#5 ++ 0x17#5 ++ 0#11, .hdeal 9 17 23)] = true := by
  decide

/-- System and hub words (05 R140 to R151; 12 R325 to R341), written out field by field. -/
theorem test_decode_systemAndHub2 : reads decodeS [
    (0x37#6 ++ 9#5 ++ 0x11#5 ++ 0#5 ++ 1#11, .hdealE 9 17),
    (0x37#6 ++ 0#5 ++ 0x11#5 ++ 0x17#5 ++ 2#11, .hdealRing 17 23)] = true := by
  decide

/-- LGOPs (04 R94, R105; 06 R160, R161), written out field by field. -/
theorem test_decode_laneInteger : reads decodeLgop [
    (0#7 ++ 0#5 ++ 0#5 ++ 0#5 ++ 0#5 ++ 0#3 ++ 0#2, .vnop),
    (1#7 ++ 3#5 ++ 4#5 ++ 5#5 ++ 0#5 ++ 3#3 ++ 1#2, .vadd 3 4 5 3 true false),
    (2#7 ++ 3#5 ++ 4#5 ++ 5#5 ++ 0#5 ++ 3#3 ++ 1#2, .vsub 3 4 5 3 true false),
    (3#7 ++ 3#5 ++ 4#5 ++ 5#5 ++ 0#5 ++ 3#3 ++ 1#2, .vmul 3 4 5 3 true false),
    (4#7 ++ 3#5 ++ 4#5 ++ 5#5 ++ 0#5 ++ 3#3 ++ 1#2, .vmulh 3 4 5 3 true false),
    (5#7 ++ 3#5 ++ 4#5 ++ 5#5 ++ 0#5 ++ 3#3 ++ 1#2, .vmin 3 4 5 3 true false),
    (6#7 ++ 3#5 ++ 4#5 ++ 5#5 ++ 0#5 ++ 3#3 ++ 1#2, .vmax 3 4 5 3 true false),
    (7#7 ++ 3#5 ++ 4#5 ++ 5#5 ++ 0#5 ++ 3#3 ++ 1#2, .vand 3 4 5 3 true false),
    (8#7 ++ 3#5 ++ 4#5 ++ 5#5 ++ 0#5 ++ 3#3 ++ 1#2, .vor 3 4 5 3 true false),
    (9#7 ++ 3#5 ++ 4#5 ++ 5#5 ++ 0#5 ++ 3#3 ++ 1#2, .vxor 3 4 5 3 true false),
    (0xa#7 ++ 3#5 ++ 4#5 ++ 0#5 ++ 0#5 ++ 6#3 ++ 2#2, .vnot 3 4 6 false true),
    (0xb#7 ++ 3#5 ++ 4#5 ++ 5#5 ++ 0#5 ++ 4#3 ++ 0#2, .vshl 3 4 5 4 false false),
    (0xc#7 ++ 3#5 ++ 4#5 ++ 5#5 ++ 0#5 ++ 4#3 ++ 0#2, .vshr 3 4 5 4 false false),
    (0xd#7 ++ 3#5 ++ 4#5 ++ 5#5 ++ 0#5 ++ 4#3 ++ 0#2, .vsra 3 4 5 4 false false),
    (0xe#7 ++ 3#5 ++ 4#5 ++ 0#5 ++ 0#5 ++ 5#3 ++ 3#2, .vabs 3 4 5 true true),
    (0xf#7 ++ 3#5 ++ 4#5 ++ 0#5 ++ 0#5 ++ 5#3 ++ 3#2, .vneg 3 4 5 true true),
    (0x10#7 ++ 3#5 ++ 4#5 ++ 5#5 ++ 6#5 ++ 0#3 ++ 0#2, .vsel 3 4 5 6 0 false false),
    (0x11#7 ++ 7#5 ++ 4#5 ++ 5#5 ++ 0#5 ++ 6#3 ++ 2#2, .vcmpEq 7 4 5 6 true),
    (0x12#7 ++ 7#5 ++ 4#5 ++ 5#5 ++ 0#5 ++ 6#3 ++ 2#2, .vcmpNe 7 4 5 6 true),
    (0x13#7 ++ 7#5 ++ 4#5 ++ 5#5 ++ 0#5 ++ 6#3 ++ 2#2, .vcmpLt 7 4 5 6 true),
    (0x14#7 ++ 7#5 ++ 4#5 ++ 5#5 ++ 0#5 ++ 6#3 ++ 2#2, .vcmpLe 7 4 5 6 true),
    (0x15#7 ++ 7#5 ++ 4#5 ++ 5#5 ++ 0#5 ++ 6#3 ++ 2#2, .vcmpGt 7 4 5 6 true),
    (0x16#7 ++ 7#5 ++ 4#5 ++ 5#5 ++ 0#5 ++ 6#3 ++ 2#2, .vcmpGe 7 4 5 6 true)] = true := by
  decide

/-- LGOPs (06 R162 to R171), written out field by field. -/
theorem test_decode_laneFloat1 : reads decodeLgop [
    (0x2a#7 ++ 7#5 ++ 4#5 ++ 5#5 ++ 0#5 ++ 2#3 ++ 0#2, .vfcmpEq 7 4 5 2 false),
    (0x2b#7 ++ 7#5 ++ 4#5 ++ 5#5 ++ 0#5 ++ 2#3 ++ 0#2, .vfcmpNe 7 4 5 2 false),
    (0x2c#7 ++ 7#5 ++ 4#5 ++ 5#5 ++ 0#5 ++ 2#3 ++ 0#2, .vfcmpLt 7 4 5 2 false),
    (0x2d#7 ++ 7#5 ++ 4#5 ++ 5#5 ++ 0#5 ++ 2#3 ++ 0#2, .vfcmpLe 7 4 5 2 false),
    (0x2e#7 ++ 7#5 ++ 4#5 ++ 5#5 ++ 0#5 ++ 2#3 ++ 0#2, .vfcmpGt 7 4 5 2 false),
    (0x2f#7 ++ 7#5 ++ 4#5 ++ 5#5 ++ 0#5 ++ 2#3 ++ 0#2, .vfcmpGe 7 4 5 2 false),
    (0x20#7 ++ 3#5 ++ 4#5 ++ 5#5 ++ 0#5 ++ 1#3 ++ 0#2, .vfadd 3 4 5 1 false false),
    (0x21#7 ++ 3#5 ++ 4#5 ++ 5#5 ++ 0#5 ++ 1#3 ++ 0#2, .vfsub 3 4 5 1 false false),
    (0x22#7 ++ 3#5 ++ 4#5 ++ 5#5 ++ 0#5 ++ 1#3 ++ 0#2, .vfmul 3 4 5 1 false false),
    (0x23#7 ++ 3#5 ++ 4#5 ++ 5#5 ++ 6#5 ++ 0#3 ++ 1#2, .vfma 3 4 5 6 0 true false),
    (0x24#7 ++ 3#5 ++ 4#5 ++ 5#5 ++ 6#5 ++ 0#3 ++ 1#2, .vfms 3 4 5 6 0 true false),
    (0x25#7 ++ 3#5 ++ 4#5 ++ 5#5 ++ 6#5 ++ 0#3 ++ 1#2, .vfnma 3 4 5 6 0 true false),
    (0x26#7 ++ 3#5 ++ 4#5 ++ 5#5 ++ 0#5 ++ 2#3 ++ 2#2, .vfmin 3 4 5 2 false true),
    (0x27#7 ++ 3#5 ++ 4#5 ++ 5#5 ++ 0#5 ++ 2#3 ++ 2#2, .vfmax 3 4 5 2 false true),
    (0x28#7 ++ 3#5 ++ 4#5 ++ 0#5 ++ 0#5 ++ 2#3 ++ 2#2, .vfabs 3 4 2 false true),
    (0x29#7 ++ 3#5 ++ 4#5 ++ 0#5 ++ 0#5 ++ 2#3 ++ 2#2, .vfneg 3 4 2 false true),
    (0x30#7 ++ 3#5 ++ 4#5 ++ 0#5 ++ 0#5 ++ 1#3 ++ 0#2, .vfrcp 3 4 1 false false),
    (0x31#7 ++ 3#5 ++ 4#5 ++ 0#5 ++ 0#5 ++ 1#3 ++ 0#2, .vfrsq 3 4 1 false false),
    (0x32#7 ++ 3#5 ++ 4#5 ++ 0#5 ++ 0#5 ++ 1#3 ++ 0#2, .vfexp2 3 4 1 false false),
    (0x33#7 ++ 3#5 ++ 4#5 ++ 0#5 ++ 0#5 ++ 1#3 ++ 0#2, .vflog2 3 4 1 false false),
    (0x34#7 ++ 3#5 ++ 4#5 ++ 0#5 ++ 0#5 ++ 1#3 ++ 0#2, .vftanh 3 4 1 false false),
    (0x35#7 ++ 3#5 ++ 4#5 ++ 0#5 ++ 0#5 ++ 1#3 ++ 0#2, .vfsigm 3 4 1 false false),
    (0x40#7 ++ 3#5 ++ 4#5 ++ 0#5 ++ 0x12#5 ++ 4#3 ++ 1#2, .vcvt 3 4 18 4 true false),
    (0x41#7 ++ 3#5 ++ 4#5 ++ 5#5 ++ 0xd#5 ++ 0#3 ++ 2#2, .vcvtTwq 3 4 5 13 false true)] = true := by
  decide

/-- LGOPs (06 R162 to R171), written out field by field. -/
theorem test_decode_laneFloat2 : reads decodeLgop [
    (0x42#7 ++ 3#5 ++ 4#5 ++ 0#5 ++ 0xe#5 ++ 0#3 ++ 0#2, .vcvtm 3 4 14 0 false false),
    (0x43#7 ++ 3#5 ++ 4#5 ++ 0#5 ++ 0#5 ++ 1#3 ++ 0#2, .vbfpi 3 4 1),
    (0x44#7 ++ 3#5 ++ 4#5 ++ 0#5 ++ 0#5 ++ 2#3 ++ 0#2, .vbfpo 3 4 2),
    (0x45#7 ++ 3#5 ++ 4#5 ++ 5#5 ++ 0#5 ++ 0#3 ++ 0#2, .vscale 3 4 5 0 false false)] = true := by
  decide

/-- LGOPs (06 R173 to R180), written out field by field. -/
theorem test_decode_laneMoves : reads decodeLgop [
    (0x50#7 ++ 3#5 ++ 4#5 ++ 5#5 ++ 0#5 ++ 6#3 ++ 0#2, .vshuf 3 4 5 6),
    (0x51#7 ++ 3#5 ++ 4#5 ++ 0#5 ++ 0xf#5 ++ 6#3 ++ 0#2, .vrot 3 4 15 6),
    (0x52#7 ++ 3#5 ++ 4#5 ++ 0#5 ++ 9#5 ++ 6#3 ++ 0#2, .vbcast 3 4 9 6),
    (0x53#7 ++ 3#5 ++ 4#5 ++ 0#5 ++ 0#5 ++ 0#3 ++ 0#2, .vredadd 3 4 0),
    (0x54#7 ++ 3#5 ++ 4#5 ++ 0#5 ++ 0#5 ++ 0#3 ++ 0#2, .vredmax 3 4 0),
    (0x55#7 ++ 3#5 ++ 4#5 ++ 0#5 ++ 0#5 ++ 0#3 ++ 0#2, .vredmin 3 4 0),
    (0x56#7 ++ 3#5 ++ 4#5 ++ 0#5 ++ 2#5 ++ 5#3 ++ 0#2, .vscan 3 4 2 5),
    (0x57#7 ++ 3#5 ++ 4#5 ++ 0#5 ++ 0#5 ++ 5#3 ++ 0#2, .vcompress 3 4 5),
    (0x58#7 ++ 3#5 ++ 4#5 ++ 7#5 ++ 0#5 ++ 0#3 ++ 0#2, .vxg 3 4 7 0),
    (0x59#7 ++ 3#5 ++ 4#5 ++ 7#5 ++ 9#5 ++ 0#3 ++ 0#2, .vxgb 3 4 7 9 0),
    (0x60#7 ++ 3#5 ++ 4#5 ++ 5#5 ++ 0#5 ++ 0#3 ++ 0#2, .kand 3 4 5 0),
    (0x61#7 ++ 3#5 ++ 4#5 ++ 5#5 ++ 0#5 ++ 0#3 ++ 0#2, .kor 3 4 5 0),
    (0x62#7 ++ 3#5 ++ 4#5 ++ 5#5 ++ 0#5 ++ 0#3 ++ 0#2, .kxor 3 4 5 0),
    (0x63#7 ++ 3#5 ++ 4#5 ++ 0#5 ++ 0#5 ++ 0#3 ++ 0#2, .knot 3 4 0),
    (0x64#7 ++ 0x1f#5 ++ 4#5 ++ 0#5 ++ 0#5 ++ 3#3 ++ 0#2, .kpopc 31 4),
    (0x65#7 ++ 3#5 ++ 0x14#5 ++ 0#5 ++ 0#5 ++ 2#3 ++ 0#2, .kset 3 20 2),
    (0x65#7 ++ 3#5 ++ 0#5 ++ 0#5 ++ 0x10#5 ++ 0#3 ++ 1#2, .ksetN 3 16 0),
    (0x68#7 ++ 3#5 ++ 4#5 ++ 0#5 ++ 0#5 ++ 6#3 ++ 3#2, .vmov 3 4 6 true true),
    (0x69#7 ++ 3#5 ++ 0x5abc#15 ++ 6#3 ++ 1#2, .vmovi 3 0x5ABC 6 true),
    (0x6a#7 ++ 3#5 ++ 4#5 ++ 0#5 ++ 0#5 ++ 6#3 ++ 1#2, .vmovs 3 4 6 true),
    (0x6c#7 ++ 3#5 ++ 0#5 ++ 0#5 ++ 0#5 ++ 3#3 ++ 0#2, .vrand 3 3),
    (0x6c#7 ++ 0#5 ++ 4#5 ++ 0#5 ++ 0#5 ++ 0#3 ++ 1#2, .vrandSeed 4),
    (0x6c#7 ++ 3#5 ++ 0#5 ++ 0#5 ++ 0#5 ++ 3#3 ++ 2#2, .vrandGet 3)] = true := by
  decide

/-- M-slot words (08 R216 to R223), written out field by field. -/
theorem test_decode_matrix : reads decodeM [
    (1#4 ++ 0x3ff#10 ++ 0#18, .mcall 1023),
    (2#4 ++ 3#5 ++ 0x14#5 ++ 8#4 ++ 0x7f#7 ++ 0#7, .mrmin 3 20 8 127),
    (3#4 ++ 3#5 ++ 0x14#5 ++ 8#4 ++ 0x7f#7 ++ 0#7, .mrmax 3 20 8 127),
    (4#4 ++ 3#5 ++ 0x14#5 ++ 8#4 ++ 0x7f#7 ++ 0#7, .mrank 3 20 8 127),
    (5#4 ++ 3#5 ++ 0x14#5 ++ 8#4 ++ 0x7f#7 ++ 0x40#7, .mtopk 3 20 8 127 64),
    (6#4 ++ 9#4 ++ 0#24, .mspill 9),
    (7#4 ++ 9#4 ++ 0#24, .mfill 9),
    (8#4 ++ 0#28, .mtrue),
    (9#4 ++ 0#28, .mfence),
    (0xa#4 ++ 3#5 ++ 2#2 ++ 1#1 ++ 0#20, .mqry 3 2 true)] = true := by
  decide

/-- C-slot words (10 R271 to R285), written out field by field. -/
theorem test_decode_copySlot1 : reads decodeC [
    (1#5 ++ 0xe#4 ++ 0x14#5 ++ 7#3 ++ 2#2 ++ 1#2 ++ 1#1 ++ 0x200#10, .vld 20 14 7 2 1 true 0x200),
    (2#5 ++ 0xe#4 ++ 0x14#5 ++ 7#3 ++ 2#2 ++ 1#2 ++ 1#1 ++ 0x200#10, .vst 20 14 7 2 1 true 0x200),
    (3#5 ++ 0xe#4 ++ 0x14#5 ++ 7#3 ++ 2#2 ++ 1#2 ++ 1#1 ++ 0x200#10, .vldInv 20 14 7 2 1 true 0x200),
    (4#5 ++ 0xe#4 ++ 0x14#5 ++ 9#5 ++ 7#3 ++ 2#2 ++ 3#2 ++ 0#6, .vldx 20 9 14 7 2 3),
    (5#5 ++ 0xe#4 ++ 0x14#5 ++ 9#5 ++ 7#3 ++ 2#2 ++ 3#2 ++ 0#6, .vstx 20 9 14 7 2 3),
    (6#5 ++ 0xe#4 ++ 0#3 ++ 5#4 ++ 0x1e#5 ++ 9#5 ++ 1#1 ++ 0#5, .cpy 14 5 30 9 true),
    (6#5 ++ 0xe#4 ++ 1#3 ++ 5#4 ++ 0x1e#5 ++ 9#5 ++ 1#1 ++ 0#5, .cpys 14 5 30 9 true),
    (6#5 ++ 0xe#4 ++ 2#3 ++ 5#4 ++ 0x1e#5 ++ 9#5 ++ 1#1 ++ 0#5, .cpyg 14 5 30 9 true),
    (6#5 ++ 0xe#4 ++ 3#3 ++ 5#4 ++ 0x1e#5 ++ 9#5 ++ 1#1 ++ 0#5, .cpysc 14 5 30 9 true),
    (6#5 ++ 0xe#4 ++ 4#3 ++ 5#4 ++ 0x1e#5 ++ 9#5 ++ 1#1 ++ 0#5, .cpySum 14 5 30 9 true),
    (6#5 ++ 0xe#4 ++ 5#3 ++ 0#4 ++ 0x1e#5 ++ 9#5 ++ 1#1 ++ 0#5, .cpyFill 14 30 9 true),
    (7#5 ++ 0xe#4 ++ 5#3 ++ 0#20, .bind 5 14),
    (8#5 ++ 0#4 ++ 5#3 ++ 0#20, .unbind 5),
    (9#5 ++ 0#4 ++ 0x14#5 ++ 5#3 ++ 0#15, .qstat 20 5),
    (0xa#5 ++ 0xe#4 ++ 0#3 ++ 0x14#5 ++ 9#5 ++ 0#5 ++ 1#1 ++ 0#1 ++ 2#2 ++ 0#1, .atomAdd 20 14 9 true 2),
    (0xa#5 ++ 0xe#4 ++ 3#3 ++ 0x14#5 ++ 9#5 ++ 0#5 ++ 1#1 ++ 0#1 ++ 2#2 ++ 0#1, .atomAnd 20 14 9 true 2),
    (0xa#5 ++ 0xe#4 ++ 4#3 ++ 0x14#5 ++ 9#5 ++ 0#5 ++ 1#1 ++ 0#1 ++ 2#2 ++ 0#1, .atomOr 20 14 9 true 2),
    (0xa#5 ++ 0xe#4 ++ 5#3 ++ 0x14#5 ++ 9#5 ++ 0#5 ++ 1#1 ++ 0#1 ++ 2#2 ++ 0#1, .atomXor 20 14 9 true 2),
    (0xa#5 ++ 0xe#4 ++ 6#3 ++ 0x14#5 ++ 9#5 ++ 0#5 ++ 1#1 ++ 0#1 ++ 2#2 ++ 0#1, .atomSwap 20 14 9 true 2),
    (0xa#5 ++ 0xe#4 ++ 1#3 ++ 0x14#5 ++ 9#5 ++ 0#5 ++ 0#1 ++ 1#1 ++ 3#2 ++ 0#1, .atomMin 20 14 9 false true 3),
    (0xa#5 ++ 0xe#4 ++ 2#3 ++ 0x14#5 ++ 9#5 ++ 0#5 ++ 0#1 ++ 1#1 ++ 3#2 ++ 0#1, .atomMax 20 14 9 false true 3),
    (0xa#5 ++ 0xe#4 ++ 7#3 ++ 0x14#5 ++ 9#5 ++ 0x11#5 ++ 1#1 ++ 0#1 ++ 1#2 ++ 0#1, .atomCas 20 14 9 17 true 1),
    (0xb#5 ++ 0xe#4 ++ 0#8 ++ 9#5 ++ 1#1 ++ 0#9, .atomFadd 14 9 true),
    (0xc#5 ++ 0xe#4 ++ 0#3 ++ 0x80#8 ++ 0#12, .wcinit 14 0x80)] = true := by
  decide

/-- C-slot words (10 R271 to R285), written out field by field. -/
theorem test_decode_copySlot2 : reads decodeC [
    (0xd#5 ++ 0xe#4 ++ 0#3 ++ 0x14#5 ++ 1#1 ++ 0#14, .wcread 20 14 true)] = true := by
  decide

/-- C-slot words (10 R286 to R294; 16 R401, R405), written out field by field. -/
theorem test_decode_copySlotControl : reads decodeC [
    (0xe#5 ++ 0#4 ++ 7#3 ++ 0x14#5 ++ 0#15, .tlwait 7 20),
    (0xf#5 ++ 0#4 ++ 7#3 ++ 0x14#5 ++ 0#15, .tlread 20 7),
    (0x10#5 ++ 0#4 ++ 7#3 ++ 0x14#5 ++ 0#15, .tladv 7 20),
    (0x11#5 ++ 0xe#4 ++ 7#3 ++ 0x14#5 ++ 0#15, .tlsig 7 20 14),
    (0x12#5 ++ 0#4 ++ 6#3 ++ 0#2 ++ 0#18, .fence 6),
    (0x12#5 ++ 0#4 ++ 6#3 ++ 1#2 ++ 0#18, .fenceAcq 6),
    (0x12#5 ++ 0#4 ++ 6#3 ++ 2#2 ++ 0#18, .fenceRel 6),
    (0x13#5 ++ 0xe#4 ++ 0#1 ++ 0x14#5 ++ 1#1 ++ 0#16, .drainPath 14 20 true),
    (0x13#5 ++ 0#4 ++ 1#1 ++ 0x14#5 ++ 1#1 ++ 0#16, .drainPathStreams 20 true),
    (0x14#5 ++ 0xe#4 ++ 5#3 ++ 0x14#5 ++ 1#1 ++ 0#14, .mapreg 5 14 20 true),
    (0x15#5 ++ 0#4 ++ 5#3 ++ 0x14#5 ++ 1#1 ++ 0#14, .unmapreg 5 20 true),
    (0x16#5 ++ 0#4 ++ 5#3 ++ 0x14#5 ++ 1#1 ++ 0#14, .wbreg 5 20 true),
    (0x17#5 ++ 0xe#4 ++ 0#3 ++ 0x14#5 ++ 9#5 ++ 1#1 ++ 0#9, .touch 14 20 9 true),
    (0x18#5 ++ 0xe#4 ++ 0#3 ++ 0x14#5 ++ 7#3 ++ 9#5 ++ 1#1 ++ 0#6, .send 14 20 7 9 true),
    (0x19#5 ++ 0xe#4 ++ 0#3 ++ 0x14#5 ++ 0#15, .recv 20 14),
    (0x1a#5 ++ 0xe#4 ++ 0#3 ++ 0x14#5 ++ 0#15, .coll 20 14),
    (0x1b#5 ++ 0xe#4 ++ 2#2 ++ 1#1 ++ 0x1ff#12 ++ 0#8, .cxopen 14 2 true 0x1FF),
    (0x1c#5 ++ 0#27, .cxclose),
    (0x1d#5 ++ 0#4 ++ 0#3 ++ 5#5 ++ 0#15, .audmark 5),
    (0xE8100000#32, .audoff),
    (0x1d#5 ++ 0#4 ++ 2#3 ++ 5#5 ++ 0#15, .tcheck 5)] = true := by
  decide

/-- Words of tile stream code (08 R227), written out field by field. -/
theorem test_decode_tile1 : reads decodeTsc [
    (1#6 ++ 9#4 ++ 0#22, .tscWld 9),
    (2#6 ++ 9#4 ++ 0#22, .tscWconv 9),
    (3#6 ++ 9#4 ++ 0#22, .tscXstr 9),
    (5#6 ++ 9#4 ++ 0#22, .tscAccmode 9),
    (6#6 ++ 9#4 ++ 0#22, .tscAccsel 9),
    (7#6 ++ 9#4 ++ 0#22, .tscHandoff 9),
    (0xf#6 ++ 9#4 ++ 0#22, .tscEmit 9),
    (4#6 ++ 0#26, .tscRace),
    (0xb#6 ++ 0#26, .tscEndl),
    (0xe#6 ++ 0#26, .tscWaitq),
    (0x17#6 ++ 0#26, .tscHalt),
    (8#6 ++ 9#4 ++ 5#4 ++ 0#17 ++ 1#1, .tscTri 9 5),
    (8#6 ++ 0#26, .tscTriOff),
    (9#6 ++ 0#20 ++ 0x3f#6, .tscSkip 63),
    (0xa#6 ++ 0#2 ++ 0#8 ++ 0xffff#16, .tscLoopImm 0xFFFF),
    (0xa#6 ++ 1#2 ++ 0#2 ++ 9#4 ++ 0#18, .tscLoopReg 9),
    (0xa#6 ++ 2#2 ++ 0#24, .tscLoopKb),
    (0xc#6 ++ 9#4 ++ 0x3f#6 ++ 1#1 ++ 0#2 ++ 0x1fff#13, .tscBrc 9 63 true 0x1FFF),
    (0xd#6 ++ 9#4 ++ 5#4 ++ 0#1 ++ 0#1 ++ 0x8000#16, .tscSetp 9 5 0x8000),
    (0xd#6 ++ 9#4 ++ 5#4 ++ 0#1 ++ 1#1 ++ 0x8000#16, .tscSetpHi 9 5 0x8000),
    (0xd#6 ++ 9#4 ++ 5#4 ++ 1#1 ++ 0#1 ++ 3#4 ++ 0#12, .tscSetpReg 9 5 3),
    (0x10#6 ++ 9#4 ++ 5#4 ++ 8#4 ++ 0x7f#7 ++ 0#7, .tscRmin 9 5 8 127),
    (0x11#6 ++ 9#4 ++ 5#4 ++ 8#4 ++ 0x7f#7 ++ 0#7, .tscRmax 9 5 8 127),
    (0x12#6 ++ 9#4 ++ 5#4 ++ 8#4 ++ 0x7f#7 ++ 0#7, .tscRank 9 5 8 127)] = true := by
  decide

/-- Words of tile stream code (08 R227), written out field by field. -/
theorem test_decode_tile2 : reads decodeTsc [
    (0x13#6 ++ 9#4 ++ 5#4 ++ 8#4 ++ 0x7f#7 ++ 0x40#7, .tscTopk 9 5 8 127 64),
    (0x14#6 ++ 9#4 ++ 5#4 ++ 0#18, .tscTrimrd 9 5),
    (0x15#6 ++ 9#4 ++ 5#4 ++ 0#18, .tscTrimwr 9 5),
    (0x16#6 ++ 9#4 ++ 5#4 ++ 2#2 ++ 0#16, .tscRefrace 9 5 2)] = true := by
  decide

/-- Words with a nonzero reserved bit or an unlisted code are refused (04 R103 to R109; 17 R414). -/
theorem test_reserved_words_refused :
    rejects decodeS [0x00000001, 0x3C000000, 0x5C000000, 0x9C000000, 0xBC000000, 0xE0000000, 0x04631040, 0x0463101A, 0x046300D8,
      0x18420040, 0x2C2A0004, 0x34000006, 0x38000003, 0x4C000001, 0x58000001, 0x84210419, 0xC0000004] = true ∧
    rejects decodeM [0x00000000, 0x10140001, 0xB0000000, 0x80000001, 0xA0600000, 0x20024000] = true ∧
    rejects decodeC [0x00000000, 0xF0000000, 0xF8000000, 0x30600000, 0xE0000001, 0xDB608000, 0xE8300000, 0x90700000] = true ∧
    rejects decodeTsc [0x00000000, 0x60000000, 0x10000001, 0x28FF0000, 0x2B000000, 0x58030000] = true ∧
    rejects decodeLgop [0x02300880, 0x2E000000, 0x826200C0, 0xD8000004, 0xCA000221, 0xAC000060] = true := by
  decide
/-- Of a hub word, a FUNC without a meaning is one fault and reserved FUNC bits of a legal one another (17 R414). -/
theorem test_hub_reserved : decodeS (0x30#6 ++ 1#5 ++ 2#5 ++ 0#5 ++ 0x40#11) = .error .sReserved ∧
    decodeS (0x30#6 ++ 1#5 ++ 2#5 ++ 0#5 ++ 4#11) = .error .sOpcode := by decide

/-- The bundle of 04 R89's example: P, S, V0 and V1 slots, RPT 3, REIS bit 15. -/
theorem test_printed_bundle : (decodeBundle [0xA000818F, 0x00010001, 0x24110863, 0x00000028]).toOption.map
      (fun b => ([b.len, b.rpt, b.reis.toNat], b.ck, b.pslot, b.slots)) =
    some ([4, 3, 4], false, some 1, [(2, 0x08630001), (3, 0x2411), (4, 0x0028)]) := by decide

/-- Headers that start no bundle: another format code, a reserved bit, QP without CK, a fill that is not 0. -/
theorem test_headers_refused : ([[0x90000002, 0], [0xA0100002, 0], [0xA0080002, 0], [0xA0000004, 0x00010000]].all
    fun l => !(decodeBundle l).toBool) = true := by decide

/-- Words printed in the manual's examples (05 R128; 06 R162, R165, R171, R174, R177; 08; 12; 14). -/
theorem test_printed_words :
    reads decodeS [(0x10200004, .ori 1 0 4), (0x5020000C, .loop 1 false 0x00C), (0x08420001, .addi 2 2 1),
      (0x04631000, .add 3 3 2), (0x7C600000, .sstD 3 0 0), (0x58000000, .halt), (0xC0820000, .hlaunch 4 2),
      (0x84810118, .gst 4 1 8 3 false), (0xC5053800, .hwaitc 8 5 7), (0xC0000003, .hlaunchEnd), (0x1140 * 65536 + 0x20, .ori 10 0 0x20),
      (0x294A0000, .lih 10 10 0), (0x2C2A0003, .movas 1 10), (0xA0200040, .sysrd 1 0x40), (0x1C81002A, .srli 4 1 42),
      (0x0C8401FF, .andi 4 4 0x1FF), (0x04840017, .popc 4 4), (0xDD8B0001, .hdealE 12 11), (0xDDCB6800, .hdeal 14 11 13)] = true ∧
    reads decodeLgop [(0x0230880C, .vadd 3 1 2 3 false false), (0x46408860, .vfma 4 1 2 3 0 false false),
      (0x80620180, .vcvt 6 4 12 0 false false), (0x88C40000, .vbfpo 12 8 0), (0xA6A48000, .vredadd 10 9 0),
      (0xB2B50000, .vxgb 11 10 0 0 0)] = true ∧
    reads decodeM [(0x10140000, .mcall 5), (0x80000000, .mtrue), (0x90000000, .mfence)] = true ∧
    reads decodeC [(0xDB008000, .cxopen 6 0 false 0x080), (0xE0000000, .cxclose), (0xE8028000, .audmark 5),
      (0xE8100000, .audoff), (0xE8228000, .tcheck 5)] = true := by
  decide

/-- A term that each check of the well-formed instructions refuses. -/
theorem test_ill_formed_refused :
    ([.vadd 1 2 3 0 false false, .vand 1 2 3 7 false false, .vfadd 1 2 3 3 false false, .vcvt 1 2 7 0 false false,
      .vcvt 1 2 0 7 false false, .vcvtm 1 2 0 0 false false, .vcvtm 1 2 8 7 false false, .vcvtTwq 1 2 3 6 false false,
      .vscan 1 2 3 0, .vscan 1 2 0 7, .ksetN 1 17 0, .ksetN 1 16 7, .vrand 1 1, .mrmin 1 2 9 0, .mqry 1 3 false,
      .vld 1 2 0 3 0 false 0, .vld 1 2 0 0 3 false 0, .vldx 1 2 3 0 3 0, .cpys 1 2 31 3 false, .cpyFill 1 31 3 false,
      .fence 7, .cxopen 1 3 false 0, .tscRmin 1 2 9 0, .tscRefrace 1 2 3] : List Instr).all (fun i => !i.wf) = true := by
  decide

/-- Their well-formed neighbours stand. -/
theorem test_well_formed :
    ([.vadd 1 2 3 6 false false, .vand 1 2 3 6 false false, .vfadd 1 2 3 2 false false, .vcvt 1 2 18 6 false false,
      .vcvtm 1 2 14 6 false false, .vcvtTwq 1 2 3 13 false false, .vscan 1 2 2 6, .ksetN 1 16 6, .vrand 1 3, .mrmin 1 2 8 0,
      .mqry 1 2 false, .vld 1 2 0 2 2 false 0, .vldx 1 2 3 0 2 0, .cpys 1 2 30 3 false, .cpy 1 2 31 3 false, .fence 6,
      .cxopen 1 2 false 0, .tscRmin 1 2 8 0, .tscRefrace 1 2 2] : List Instr).all Instr.wf = true := by
  decide

/-! ### Small steps -/

/-- Core 0 with this sequencer, acting in slot `slot`. -/
def mk (c : Core) (slot : BitVec 4 := 2) : State :=
  { State.reset with cores := [(0, c)], cur := { core := 0, slot := slot, sv := c.sv } }

/-- The state after an instruction. -/
def after (i : Instr) (s : State) : State := match exec i s with | .next t => t | _ => s

/-- The results in flight after an instruction: destination, value, vc of landing. -/
def flight (i : Instr) (s : State) : List (Dest × Src × Nat) := (after i s).me.pend.map fun x => (x.dest, x.src, x.land)

/-- s1 holds −7, s2 holds 2, s3 holds −1, s4 holds −2^63, s5 holds 0x0123. -/
def regs : State :=
  mk { s := [(1, 0xFFFFFFFFFFFFFFF9), (2, 2), (3, 0xFFFFFFFFFFFFFFFF), (4, 0x8000000000000000), (5, 0x0123)], vc := 40 }

/-- Sums wrap modulo 2^64 (05 R117, R119). -/
theorem test_add_wraps : flight (.add 9 3 2) regs = [(.s 9, .word 1, 41)] := by decide
theorem test_sub_borrows : flight (.sub 9 2 1) regs = [(.s 9, .word 9, 41)] := by decide
/-- Only y[5:0] counts in a shift (05 R119). -/
theorem test_shift_amount : flight (.sll 9 2 5) regs = [(.s 9, .word 0x1000000000, 41)] ∧
    flight (.srl 9 1 2) regs = [(.s 9, .word 0x3FFFFFFFFFFFFFFE, 41)] ∧
    flight (.sra 9 1 2) regs = [(.s 9, .word 0xFFFFFFFFFFFFFFFE, 41)] := by decide
theorem test_mul : flight (.mul 9 1 2) regs = [(.s 9, .word 0xFFFFFFFFFFFFFFF2, 43)] ∧
    flight (.mulh 9 1 2) regs = [(.s 9, .word 0xFFFFFFFFFFFFFFFF, 43)] ∧
    flight (.mulhu 9 1 2) regs = [(.s 9, .word 1, 43)] := by decide
/-- The worked example of 05 R120. -/
theorem test_division : flight (.div 9 1 2) regs = [(.s 9, .word 0xFFFFFFFFFFFFFFFD, 52)] ∧
    flight (.rem 9 1 2) regs = [(.s 9, .word 0xFFFFFFFFFFFFFFFF, 52)] ∧
    flight (.divu 9 1 2) regs = [(.s 9, .word 0x7FFFFFFFFFFFFFFC, 52)] ∧
    flight (.remu 9 1 2) regs = [(.s 9, .word 1, 52)] := by decide
/-- Its borderline cases (05 R120). -/
theorem test_division_corners : flight (.div 9 1 0) regs = [(.s 9, .word 0xFFFFFFFFFFFFFFFF, 52)] ∧
    flight (.rem 9 1 0) regs = [(.s 9, .word 0xFFFFFFFFFFFFFFF9, 52)] ∧
    flight (.div 9 4 3) regs = [(.s 9, .word 0x8000000000000000, 52)] ∧
    flight (.rem 9 4 3) regs = [(.s 9, .word 0, 52)] := by decide
theorem test_counts : flight (.clz 9 5) regs = [(.s 9, .word 55, 41)] ∧ flight (.ctz 9 4) regs = [(.s 9, .word 63, 41)] ∧
    flight (.clz 9 0) regs = [(.s 9, .word 64, 41)] ∧ flight (.popc 9 1) regs = [(.s 9, .word 62, 41)] := by decide
/-- Signed and unsigned orders (05 R119, R124). -/
theorem test_orders : flight (.min 9 1 2) regs = [(.s 9, .word 0xFFFFFFFFFFFFFFF9, 41)] ∧
    flight (.minu 9 1 2) regs = [(.s 9, .word 2, 41)] ∧ flight (.slt 9 1 2) regs = [(.s 9, .word 1, 41)] ∧
    flight (.sltu 9 1 2) regs = [(.s 9, .word 0, 41)] ∧ flight (.cmpLt 3 1 2) regs = [(.p 3, .word 1, 41)] ∧
    flight (.cmpGeu 3 1 2) regs = [(.p 3, .word 1, 41)] := by decide
theorem test_extensions : flight (.sextB 9 1) regs = [(.s 9, .word 0xFFFFFFFFFFFFFFF9, 41)] ∧
    flight (.zextB 9 1) regs = [(.s 9, .word 0xF9, 41)] ∧ flight (.zextW 9 1) regs = [(.s 9, .word 0xFFFFFFF9, 41)] := by decide
/-- addi extends the sign, andi and ori do not; the third step of 05 R121's constant. -/
theorem test_immediates : flight (.addi 9 2 0xFFFF) regs = [(.s 9, .word 1, 41)] ∧
    flight (.andi 9 3 0xFFFF) regs = [(.s 9, .word 0xFFFF, 41)] ∧
    flight (.lih 9 5 0x4567) regs = [(.s 9, .word 0x01234567, 41)] := by decide
/-- A write of s0 is discarded when it lands (04 R91). -/
theorem test_s0_discards : (((after (.add 0 1 2) regs).me.setS 0 5).gs 0) = 0 := by decide
/-- call gives the word after the bundle (05 R126). -/
theorem test_call : let s := mk { inIssue := { word := 0x1000, len := 2 } }
    flight (.call 31 false 0x40) s = [(.s 31, .word 0x1002, 1)] ∧
    (after (.call 31 false 0x40) s).me.taken = some { target := 0x1040, kind := 0 } ∧
    (after (.br true 0x40) s).me.taken = some { target := 0x40, kind := 1 } := by decide
/-- brp and brp.n (05 R126). -/
theorem test_brp : let s := mk { p := 0x20 }
    (after (.brp 5 false 8) s).me.taken = some { target := 0x1008, kind := 1 } ∧ (after (.brpN 5 false 8) s).me.taken = none := by
  decide
/-- The loop of 05 R128's example at word 0x1006: start 0x1008, end 0x100C. -/
theorem test_loop : (after (.loop 1 false 0x00C) (mk { s := [(1, 3)], inIssue := { word := 0x1006, len := 2 } })).me.loopPush =
    some { start := 0x1008, stop := 0x100C, count := 3 } := by decide
/-- trap, and the handler's tret (05 R141, R142). -/
theorem test_trap : let s := mk { svec := 0x30, inIssue := { word := 0x1010, len := 2, ck := true } }
    let t := (after (.trap 0xBEEF) s).me
    (t.ecode, t.epc, t.psv, t.sv, t.taken) = (0xBEEF, 0x1012, false, true, some { target := 0x30, kind := 0 }) := by decide
theorem test_tret : let t := (after .tret (mk { sv := true, epc := 0x1012, inIssue := { ck := true } })).me
    (t.sv, t.taken) = (false, some { target := 0x1012, kind := 0 }) := by decide
/-- tret in program mode takes a fault and does not return (17 R415, cause 0x27). -/
theorem test_tret_program_mode : (after .tret (mk { epc := 0x1012, inIssue := { ck := true } })).me.taken = none := by decide
/-- Two bytes of a vault, loaded with their sign and stored (05 R132, R133). -/
theorem test_sst : let s := mk { s := [(9, 0xABCD)], a := [(1, 0x1000)] }
    (after (.sstH 9 1 2) s).me.gate.map (·.cells) = [[(0x1002, 0xCD), (0x1003, 0xAB)]] := by decide
theorem test_sld : let s := mk { a := [(1, 0x1000)] }
    flight (.sldH 9 1 0xFFFE) s = [(.s 9, .load .l [{ key := 0, addr := 0xFFE, width := 2 }] true false, 5)] := by decide
/-- vadd of INT8 lanes without saturation wraps, and its result lands two vc later (06 R154, R160). -/
theorem test_vadd : (flight (.vadd 3 1 2 5 false false) (mk { v := [(16, 0x7F), (32, 1)] } 3)).map
      (fun x => (x.1, x.2.2, match x.2.1 with | .lanes l => l.take 1 | _ => [])) =
    [(.lanes, 2, [(vkey 0 3 0, 0xFFFFFF80)])] := by decide
/-- The worked example of 06 R162: (1 + 2^−23) × (1 − 2^−23) − 1 is −2^−46. -/
theorem test_vfma : (flight (.vfma 4 1 2 3 0 false false)
      (mk { v := [(16, 0x3F800001), (32, 0x3F7FFFFE), (48, 0xBF800000)] } 3)).map
      (fun x => (x.2.2, match x.2.1 with | .lanes l => l.take 1 | _ => [])) = [(4, [(vkey 0 4 0, 0xA8800000)])] := by decide
/-- The worked example of 06 R165: 0.3 in e4m3 is 0x2A. -/
theorem test_vcvt : (flight (.vcvt 6 4 12 0 false false) (mk { v := [(64, 0x3E99999A)] } 3)).map
      (fun x => (x.2.2, match x.2.1 with | .lanes l => l.take 1 | _ => [])) = [(3, [(vkey 0 6 0, 0x2A)])] := by decide
/-- A compare sets the bits of its lanes (06 R161). -/
theorem test_vcmp : flight (.vcmpLt 3 1 2 4 false) (mk { v := [(16, 5), (17, 1), (33, 2)] } 3) =
    [(.k 3, .mask 0xFFFF 2, 2)] := by decide
/-- mcall is captured with the number NI + 1 and MPC advances (08 R207). -/
theorem test_mcall : let t := after (.mcall 5) (mk { mpc := 0x1800, ni := 3 } 5)
    (t.me.mpc, t.me.ni, (t.tile 0).queue.map fun o => (o.num, o.kind)) = (0x1801, 4, [(4, .mcall 5)]) := by decide
/-- A copy takes engine 0's next number, which lands in s[SN] (10 R269, R274). -/
theorem test_cpy : let s := mk { s := [(7, 64)], a := [(1, 0x1000), (2, 0x2000)], n0 := 4 } 6
    flight (.cpy 1 2 7 9 false) s = [(.s 9, .word 5, 1)] ∧ (after (.cpy 1 2 7 9 false) s).me.eng0.map (·.num) = [5] := by decide
/-- An atomic that returns nothing is gated (10 R282). -/
theorem test_atom : let s := mk { s := [(7, 3)], a := [(1, 0x1000)] } 6
    (after (.atomAdd 0 1 7 true 0) s).me.gate.map (fun e => (e.cells, e.atom)) = [([], some (0x1000, { sub := 0, w := 64, u := false, x := 3, c := 0 }))] := by
  decide
theorem test_tlread : flight (.tlread 9 5) (mk { tl := [(5, 77)] } 6) = [(.s 9, .word 77, 6)] := by decide
/-- A hub operation waits for its answer (12 R320). -/
theorem test_hsetc : let t := after (.hsetc 1 2) (mk { s := [(1, 0x100), (2, 9)], sv := true, inIssue := { ck := true } })
    (t.hubq.map fun q => (q.op, q.func, q.x, q.y), t.me.hold) = ([(0x33, 0, 0x100, 9)], 1) := by decide
/-- A routine's setp, and its end (08 R233). -/
theorem test_setp : let s : State := { State.reset with tiles := [(0, { run := some { pc := 0, t := [(2, 5)] } })], cur := { core := 0 } }
    ((after (.tscSetp 3 2 0xFFFF) s).tile 0).run.map (fun r => (r.pc, r.gt 3)) = some (1, 4) ∧
    ((after .tscHalt s).tile 0).run = none := by decide
/-- The worked example of 06 R174: 2^24, 1, 1, 1 summed as a tree. -/
theorem test_vredadd : (flight (.vredadd 10 9 0)
      (mk { v := [(144, 0x4B800000), (145, 0x3F800000), (146, 0x3F800000), (147, 0x3F800000)] } 3)).map
      (fun x => (x.2.2, match x.2.1 with | .lanes l => l.take 1 | _ => [])) = [(4, [(vkey 0 10 0, 0x4B800001)])] := by decide
/-- A word placed where core 0 fetches is the instruction of its next step: addi s2, s2, 1 (04 R84, R96). -/
theorem test_fetch_word : (match step (State.reset.withFetchWord 64 0x08420001A0000002) with
    | .next t => decide ((t.core 0).vc = 1 ∧ (t.core 0).pend.map (fun x => (x.dest, x.src, x.land)) = [(.s 2, .word 1, 1)])
    | _ => false) = true := by
  decide +kernel
/-- A word of tile stream code runs in the next step: setp t3, t2, −1 (08 R233). -/
theorem test_fetch_tile_word : (match step (State.reset.withFetchWord 32 0x34C8FFFF) with
    | .next t => ((t.tile 0).run.map fun r => (r.pc, r.gt 3))
    | _ => none) = some (1, 0xFFFFFFFFFFFFFFFF) := by
  decide +kernel

/-! ### Witnesses: states and operands that meet the hypotheses of each statement -/

/-- A core that issues a checkpoint bundle of two words at 0x1000. -/
def inCk (sv : Bool := false) : Core := { idle := false, sv := sv, inIssue := { word := 0x1000, len := 2, ck := true } }

theorem witness_SlotSRoundTrip :
    placeOf (.add 31 31 31) = 2 ∧ (Instr.add 31 31 31).wf = true ∧ encode (.add 31 31 31) = some 0x07FFF800 ∧
    placeOf (.gld 31 15 0x400 3 true true) = 2 ∧ encode (.gld 31 15 0x400 3 true true) = some 0x83EF801E := by decide
theorem witness_LgopRoundTrip :
    placeOf (.vfma 4 1 2 3 0 false false) = 3 ∧ (Instr.vfma 4 1 2 3 0 false false).wf = true ∧
    encode (.vfma 4 1 2 3 0 false false) = some 0x46408860 := by decide
theorem witness_MatrixAndCopyRoundTrip :
    placeOf (.mcall 5) = 5 ∧ (Instr.mcall 5).wf = true ∧ encode (.mcall 5) = some 0x10140000 ∧
    placeOf (.tcheck 5) = 6 ∧ (Instr.tcheck 5).wf = true ∧ encode (.tcheck 5) = some 0xE8228000 := by decide
theorem witness_TileCodeRoundTrip :
    placeOf (.tscSetp 3 2 0xFFFF) = 8 ∧ (Instr.tscSetp 3 2 0xFFFF).wf = true ∧
    encode (.tscSetp 3 2 0xFFFF) = some 0x34C8FFFF := by decide
theorem witness_DecodedWordsAreEncodings :
    decodeS 0x10200004 = .ok (.ori 1 0 4) ∧ decodeM 0x10140000 = .ok (.mcall 5) ∧ decodeC 0xE0000000 = .ok .cxclose ∧
    decodeTsc 0x5C000000 = .ok .tscHalt ∧ decodeLgop 0x46408860 = .ok (.vfma 4 1 2 3 0 false false) := by decide
theorem witness_HeaderFields :
    (decodeBundle [0xA00C0002, 0]).toBool = true ∧ (0xA00C0002#32).getLsbD 19 = true ∧
    (0xB0000002#32).extractLsb' 28 4 ≠ 0xA ∧ (0xA0100002#32).extractLsb' 20 8 ≠ 0 ∧
    ((0xA0080002#32).getLsbD 19 = true ∧ (0xA0080002#32).getLsbD 18 = false) := by decide
theorem witness_StepKeepsMemoryCanonical :
    MemOk (State.reset.withFetchWord 64 0x08420001A0000002) ∧
    ∃ t, step (State.reset.withFetchWord 64 0x08420001A0000002) = .next t := by
  refine ⟨by unfold MemOk; decide +kernel, ?_⟩
  have h : (match step (State.reset.withFetchWord 64 0x08420001A0000002) with | .next _ => true | _ => false) = true := by
    decide +kernel
  revert h
  cases step (State.reset.withFetchWord 64 0x08420001A0000002) with
  | next t => exact fun _ => ⟨t, rfl⟩
  | fault _ => simp
  | refused _ => simp
theorem witness_StoredBytesReadBack :
    MemOk State.reset ∧ (0 : Nat) < [(1 : Byte), 2].length ∧ (9 : Nat) < 10 ∧ 10 + [(1 : Byte), 2].length ≤ 12 := by
  exact ⟨rfl, by decide, by decide, by decide⟩
/-- A state whose agenda holds one operation. -/
def oneOp : State := { State.reset with agenda := [.op { ctx := { core := 0 }, instr := .add 1 2 3 }] }
theorem witness_StepIsTheOperation :
    oneOp.agenda = .op { ctx := { core := 0 }, instr := .add 1 2 3 } :: [] ∧ oneOp.ctl.hnext = none := ⟨rfl, rfl⟩
/-- Core 0 about to fetch addi s2, s2, 1 at its pc. -/
def oneWord : State := State.reset.withFetchWord 64 0x08420001A0000002
theorem witness_BundleRunsItsInstruction :
    let s := oneWord.elapse
    let c := s.core 0
    oneWord.agenda = .begin 0 :: [] ∧ s.lock 0 = [0] ∧ Undamaged s ∧ s.stale = [] ∧ (∀ k, s.unfilled 0 k = false) ∧
    (∀ u, s.unitOf 0 = some u → u.retry = none) ∧
    c.idle = false ∧ c.halted = false ∧ c.stopped = false ∧ c.rest = [] ∧ c.holdAt = true ∧ c.late = [] ∧
    c.needCk = false ∧ c.inIssue.rep = 0 ∧ (∃ o, ispOffset c.ispsel c.pc.toNat = some o ∧
      s.ispWords 0 o 2 = [0xA0000002, 0x08420001]) ∧ codeSpan c.pc.toNat 2 = true ∧
    decodeSlot 2 0x08420001 = .ok (.addi 2 2 1) ∧ placeOf (.addi 2 2 1) = 2 ∧
    (({ s with agenda := [], cur := { core := 0 } } : State).plan 0).2.faults = [] := by
  refine ⟨rfl, by decide +kernel, ⟨rfl, rfl⟩, rfl, ?_, ?_, by decide +kernel, by decide +kernel, by decide +kernel, by decide +kernel,
    by decide +kernel, by decide +kernel, by decide +kernel, by decide +kernel,
    ⟨(ispOffset (oneWord.elapse.core 0).ispsel (oneWord.elapse.core 0).pc.toNat).getD 0, by decide +kernel, by decide +kernel⟩,
    by decide +kernel, by decide, by decide, by decide +kernel⟩
  · have : oneWord.elapse.mapped 0 = false := by decide +kernel
    intro k; simp [State.unfilled, this]
  · have : oneWord.elapse.unitOf 0 = none := by decide +kernel
    intro u h; rw [this] at h; cases h
theorem witness_DivisionResults :
    regs.me.gs 2 ≠ 0 ∧ regs.me.gs 0 = 0 ∧ regs.me.gs 4 = 0x8000000000000000 ∧ regs.me.gs 3 = 0xFFFFFFFFFFFFFFFF := by decide
theorem witness_ParameterResults :
    ((127 : Word).toNat < 128 ∧ (0x16 : Word).extractLsb' 3 2 ≠ 3 ∧ (0x16 : Word).extractLsb' 0 3 ≠ 7) ∧
    (0x1FF : Word).toNat < 0x200 ∧ (0x1000 ≤ (0x1000 : Word).toNat ∧ (0x1FFF : Word).toNat < 0x2000) := by decide
/-- Core 0 at vc 5 with these results in flight. -/
def flying (l : List Pending) : State := mk { pend := l, vc := 5 }
theorem witness_ScalarResultLands :
    let x : Pending := { dest := .s 31, src := .word 7, issue := 4, ord := 2, perform := 4, land := 5 }
    let s := flying [x]
    s.together s.cur.core = [s.cur.core] ∧ s.me.pend = [x] ∧ x.dest = .s (31 : BitVec 5).toNat ∧ x.src = .word 7 ∧
    x.perform ≠ s.me.vc ∧ x.late = false ∧ x.dmg.cls = 0 ∧ s.sigs = [] ∧ x.land = s.me.vc ∧
    (flying [{ x with land := 6 }]).me.vc ≠ 6 := by
  exact ⟨by decide, rfl, rfl, rfl, by decide, rfl, rfl, rfl, rfl, by decide⟩
theorem witness_LaterResultPrevails :
    let x : Pending := { dest := .s 1, src := .word 7, issue := 3, ord := 2, perform := 3, land := 5 }
    let y : Pending := { dest := .s 1, src := .word 8, issue := 4, ord := 2, perform := 4, land := 5 }
    let z : Pending := { dest := .s 1, src := .word 9, issue := 4, ord := 6, perform := 4, land := 5 }
    (flying [y, x]).together 0 = [0] ∧ (flying [y, x]).me.pend = [y, x] ∧ x.land = (flying [y, x]).me.vc ∧
    y.land = (flying [y, x]).me.vc ∧ x.perform ≠ 5 ∧ y.perform ≠ 5 ∧ x.issue < y.issue ∧
    (flying [y, z]).together 0 = [0] ∧ (flying [y, z]).me.pend = [y, z] ∧ y.issue = z.issue ∧ y.ord < z.ord := by
  exact ⟨by decide, rfl, rfl, rfl, by decide, by decide, by decide, by decide, rfl, rfl, by decide⟩
/-- With no unit, and nothing gated or noted for a comparison, a halt has nothing to release. -/
theorem quiet_of {s : State} (hu : s.unitOf s.cur.core = none) (hg : s.me.gate = [])
    (h : ∀ m ∈ s.lock s.cur.core, (s.core m).gate = [] ∧ (s.core m).tchecks = []) : HaltsQuietly s := by
  refine ⟨fun _ => hg, fun m hm _ => ⟨(h m hm).1, (h m hm).2, fun u hh => ?_⟩⟩
  rw [hu] at hh; cases hh
theorem witness_NopAndReturn :
    (0x03FFFFFF#32).extractLsb' 26 6 = 0 ∧ (0x4FE00000#32).extractLsb' 26 6 = 0x13 ∧ (0x4FE00000#32).extractLsb' 0 21 = 0 ∧
    (0x4C000001#32).extractLsb' 0 21 ≠ 0 ∧
    (let s := mk { s := [(31, 0x1040)], taken := some { target := 0x1040, kind := 0 } }
     HaltsQuietly s ∧ s.me.again = false ∧ s.me.inIssue.rpt ≤ s.me.inIssue.rep ∧
     s.me.taken = some { target := s.me.gs 31, kind := 0 }) :=
  ⟨by decide, by decide, by decide, by decide, quiet_of (by decide) (by decide) (by decide), by decide, by decide, by decide⟩
theorem witness_TransfersAreTaken :
    InCk (mk (inCk)) ∧ (true = true → (0x1FF : BitVec 12).toNat ≤ 0x1FF) ∧ (false = true → (0xFFF : BitVec 12).toNat ≤ 0x1FF) ∧
    (mk { p := 0x80 }).me.gp 7 = true ∧ (mk { p := 0x7F }).me.gp 7 = false := by
  exact ⟨rfl, by decide, by decide, by decide, by decide⟩
theorem witness_LoopPushesALevel :
    let s := mk { s := [(1, 3)], inIssue := { word := 0x1006, len := 2 },
                  loops := List.replicate 3 { start := 0x1002, stop := 0x100C, count := 2 } }
    (s.me.inIssue.word + BitVec.ofNat 64 s.me.inIssue.len).toNat < (0x100C : Word).toNat ∧
    (∀ l, s.me.loops.getLast? = some l → (0x100C : Word).toNat ≤ l.stop.toNat) ∧ s.me.loops.length < 4 ∧ s.me.gs 1 ≠ 0 ∧
    s.me.gs 2 = 0 := by
  refine ⟨by decide, ?_, by decide, by decide, by decide⟩
  intro l h
  have : l = { start := 0x1002, stop := 0x100C, count := 2 } := (Option.some.inj h).symm
  subst this; decide
/-- The last bundle before 0x1010, with two levels that end there, one at count 3 and one at count 1. -/
def ending (t : Option Taken) : State :=
  mk { inIssue := { word := 0x100F, len := 1 }, taken := t,
       loops := [{ start := 0x1004, stop := 0x1010, count := 3 }, { start := 0x1008, stop := 0x1010, count := 1 }] }
theorem ending_levels :
    let s := ending none
    let y := s.me.inIssue.word
    let ends := fun (nxt : Word) (x : Loop) => x.start.toNat ≤ y.toNat ∧ y.toNat < x.stop.toNat ∧ nxt = x.stop
    let x : Loop := { start := 0x1004, stop := 0x1010, count := 3 }
    let b : List Loop := [{ start := 0x1008, stop := 0x1010, count := 1 }]
    HaltsQuietly s ∧ s.me.again = false ∧ s.me.inIssue.rpt ≤ s.me.inIssue.rep ∧ y + BitVec.ofNat 64 s.me.inIssue.len = 0x1010 ∧
    s.me.loops = [x] ++ b ∧ s.me.loops.length ≤ 4 ∧ (∀ x ∈ b, ends 0x1010 x ∧ x.count = 1) ∧ [x] = [] ++ [x] ∧ ends 0x1010 x ∧
    x.count ≠ 1 ∧ (∀ x ∈ b, ¬ ends 0x1009 x) :=
  ⟨quiet_of rfl rfl (by decide), rfl, by decide, rfl, rfl, by decide, by decide, rfl, by decide, by decide, by decide⟩
theorem witness_RepetitionEnds :
    let s := mk { inIssue := { rpt := 3, rep := 2 } }
    let t := mk { inIssue := { rpt := 3, rep := 3 }, taken := some { target := 0, kind := 4 } }
    let u := mk { taken := some { target := 0x1000, kind := 3 } }
    let l : Loop := { start := 0x1001, stop := 0x1004, count := 2 }
    s.me.again = false ∧ HaltsQuietly s ∧ s.me.inIssue.rep < s.me.inIssue.rpt ∧ s.me.taken = none ∧
    t.me.inIssue.rpt ≤ t.me.inIssue.rep ∧ t.me.again = false ∧ HaltsQuietly t ∧
    t.me.taken = some { target := 0, kind := 4 } ∧ u.me.taken = some { target := 0x1000, kind := 3 } ∧
    (ending none).me.taken = none ∧
    (let v := ending (some { target := 0x1010, kind := 2 })
     HaltsQuietly v ∧ v.me.again = false ∧ v.me.inIssue.rpt ≤ v.me.inIssue.rep ∧ v.me.taken = some { target := 0x1010, kind := 2 } ∧
     v.me.loops = (ending none).me.loops) ∧
    (mk { loopPush := some l }).me.loops ++ [l] = [l] ++ [] := by
  exact ⟨rfl, quiet_of rfl rfl (by decide), by decide, rfl, by decide, rfl, quiet_of rfl rfl (by decide), rfl, rfl, rfl,
    ⟨quiet_of rfl rfl (by decide), rfl, by decide, rfl, rfl⟩, rfl⟩
theorem witness_BranchLeavesLoops :
    let l : List Loop := [{ start := 0x1008, stop := 0x1010, count := 2 }]
    let s := mk { loops := l, taken := some { target := 0x1010, kind := 1 }, inIssue := { word := 0x100F, len := 1 } }
    HaltsQuietly s ∧ s.me.again = false ∧ s.me.inIssue.rpt ≤ s.me.inIssue.rep ∧ s.me.taken = some { target := 0x1010, kind := 1 } ∧
    l.length ≤ 4 ∧ popBranch 0x100F 0x1010 5 l = [] ∧ popBranch 0x100F 0x1008 5 l = l ∧ popBranch 0x1010 0 5 l = l ∧
    (mk { taken := some { target := 0x1010, kind := 0 } }).me.taken = some { target := 0x1010, kind := 0 } ∧
    (mk { p := 1 }).me.gp 0 = true ∧ (mk {}).me.gp 0 = false := by
  exact ⟨quiet_of rfl rfl (by decide), by decide⟩
theorem witness_TrapEntersSupervisor : InCk (mk inCk) := rfl
theorem witness_TretReturns :
    InCk (mk (inCk true)) ∧ (mk (inCk true)).cur.sv = true ∧
    (let s := mk inCk
     ∃ t u : State, InCk s ∧ exec (.trap 7) s = .next t ∧ u.me = t.me ∧ u.cur.sv = true) := by
  refine ⟨rfl, rfl, _, { after (.trap 7) (mk inCk) with cur := { core := 0, sv := true } }, rfl, rfl, rfl, rfl⟩
theorem witness_PrivilegedFormsFault :
    (mk inCk).trial = none ∧ InCk (mk inCk) ∧ (mk inCk).cur.sv = false ∧ (mk inCk).me.snapen = false ∧ ¬ InCk (mk {}) := by
  exact ⟨rfl, rfl, rfl, rfl, by unfold InCk; decide⟩
theorem witness_SystemRegisterRead :
    sysKind 0x10 true = some 2 ∧ 1 ≤ 2 ∧ sysLogged 0x10 = false ∧ sysKind 0xB false = some 1 ∧ 1 ≤ 1 ∧ sysLogged 0xB = true ∧
    Unlogged (mk {}) ∧ Clean (mk {}) := by
  refine ⟨by decide, by decide, by decide, by decide, by decide, by decide, ?_, ⟨⟨rfl, rfl⟩, rfl, rfl⟩⟩
  have : (mk {}).unitOf (mk {}).cur.core = none := by decide
  intro r h; rw [this] at h; cases h
theorem witness_SystemRegisterWrite : (mk (inCk true)).cur.sv = true := rfl
theorem witness_WaitsFencesAndSnaps :
    let s := mk { evt := 2, evmask := 2, inIssue := { ck := true, slots := [(2, 0xB8000000)] } }
    let t := mk { inIssue := { ck := true, slots := [(2, 0xB8000000)] } }
    InCk s ∧ (∀ x ∈ s.me.inIssue.slots, x.1 = 2) ∧ (∀ m ∈ s.lock s.cur.core, (s.core m).halted = true ∨ (s.core m).eventPending = true) ∧
    InCk t ∧ (∀ x ∈ t.me.inIssue.slots, x.1 = 2) ∧ (¬ ∀ m ∈ t.lock t.cur.core, (t.core m).halted = true ∨ (t.core m).eventPending = true) ∧
    (mk { snapen := true }).me.snapen = true ∧ ({ en := 0, armed := true } : Snap).en.getLsbD 0 = false ∧
    ({ en := 1, armed := true } : Snap).en.getLsbD 0 = true ∧
    (let n : Snap := { en := 1, trig := true, src := 3, stamp := 7 }
     n.en.getLsbD 0 = true ∧ n.armed = false ∧ n.trig = true ∧ n.stamp = ({ State.reset with gtc := 7, snap := n } : State).gtc ∧
     0 < n.src.toNat ∧ ¬ n.stamp = State.reset.gtc) := by
  exact ⟨rfl, by decide, by decide, rfl, by decide, by decide, rfl, by decide, by decide, by decide⟩
/-- Core 0 with a1 at the last eight bytes of its vault, and a2 at the last eight below the region table. -/
def atTop : State := mk { a := [(1, 0x7FFFF8), (2, 0x7FFEF8)] }
theorem witness_VaultLoads :
    LocalOk atTop (atTop.me.ga 1 + (0 : BitVec 16).signExtend 64) 8 false ∧
    LocalOk atTop (atTop.me.ga 1 + (7 : BitVec 16).signExtend 64) 1 false ∧
    LocalOk atTop (atTop.me.ga 1 + (0xFFFE : BitVec 16).signExtend 64) 2 false := by
  refine ⟨?_, ?_, ?_⟩ <;> (unfold LocalOk; decide)
theorem witness_VaultStores :
    LocalOk atTop (atTop.me.ga 2 + (0 : BitVec 16).signExtend 64) 8 true ∧ GateRoom atTop 1 := by
  exact ⟨by unfold LocalOk; decide, by unfold GateRoom; decide⟩
theorem witness_MisalignedAccessFaults :
    atTop.trial = none ∧ (atTop.me.ga 1 + (0xFFFF : BitVec 16).signExtend 64).toNat + 8 ≤ localSize atTop.cur.core ∧
    (atTop.me.ga 1 + (0xFFFF : BitVec 16).signExtend 64).toNat % 2 ≠ 0 ∧
    (atTop.me.ga 1 + (0xFFFC : BitVec 16).signExtend 64).toNat % 8 ≠ 0 := by decide

/-- Core 0 in a checkpoint bundle with addresses: a1 in the own vault, a2 the C-space of core 1, a3 in G-space, a4 a path
of core 0, a5 in G-space at a page, a6 the start of core 3's vault in C-space. -/
def atAddr (slot : BitVec 4 := 6) (sv : Bool := false) : State :=
  mk { (inCk sv) with s := [(7, 0x1000), (8, 1)], a := [(1, 0x1000), (2, 0x4000000000801000), (3, 0x80FFFFFFFFFFFFF8),
                       (4, 0xC000000000000000), (5, 0x8000000000001000), (6, 0x4000000001800000)] } slot
/-- G-space address 0x100000 of context 0 is the first page of device MMIO, by a leaf of 4 KiB. -/
def mmioPage : State :=
  (((((({ State.reset with
      cores := [(0, { (inCk true) with a := [(1, 0x100000)] })], cur := { core := 0, slot := 2, sv := true },
      ctxs := [(0, { root := 0x200000, save := 0, pannier := 0, rsize := 0, nrec := 0, drain := 0, slice := 100, pmax := 0 })] } : State).setBytes
    0x200000 (toBytes 8 0x201001)).setBytes 0x201000 (toBytes 8 0x202001)).setBytes 0x202000 (toBytes 8 0x203001)).setBytes 0x203000
    (toBytes 8 0x204001)).setBytes 0x204800 (toBytes 8 0x2000000000F))
theorem witness_GlobalAccess :
    (atAddr.me.ga 1 + ((0x400 : BitVec 11).signExtend 64 <<< 3)).toNat ≥ 2 ^ 56 ∧
    (let s := mk { a := [(1, 0x00FFFFFFFFFFFFF8)] }
     let ea := s.me.ga 1 + ((0 : BitVec 11).signExtend 64 <<< 3)
     ea.toNat < 2 ^ 56 ∧ ea.toNat % 8 = 0 ∧ s.gstMmio ea.toNat = false ∧ s.me.gateUsed + 1 ≤ 256) ∧
    (mmioPage.me.ga 1 + ((0 : BitVec 11).signExtend 64 <<< 3)).toNat = 0x100000 ∧ mmioPage.gstMmio 0x100000 = true ∧ FirstTime mmioPage := by
  refine ⟨by decide, by decide, by decide, by decide +kernel, ?_⟩
  unfold FirstTime InCk; decide +kernel
/-- A gated store of eight bytes. -/
def gated (a : Nat) (v : Nat := 0x1122334455667788) : Gated := { form := .l, cells := cellsAt a (toBytes 8 v), issue := 3, ord := 2 }
/-- Two that overlap below the region table, and one at the vault's first bytes. -/
def gatedThree : State := mk { inCk with gate := [gated 0x7FFEF8, gated 0, gated 0x7FFEF8 7] }
theorem witness_CheckpointReleasesStores :
    let s := gatedThree
    let p := s.cur.core
    Undamaged s ∧ p < 288 ∧ (∀ d ∈ s.me.released, d.form ≠ .l) ∧
    (∀ off, off < 0x800000 → s.vaultGone (vaultAddr p off) = false) ∧
    (∀ e ∈ s.me.gate, e.form = .l ∧ e.atom = none ∧ e.entry = true ∧ e.rel = false ∧ e.bad = [] ∧
      ∀ x ∈ e.cells, x.1 < regionTable ∧ s.unfilled p (x.1 / 64) = false ∧ ∀ y ∈ e.cells, x.1 / 64 = y.1 / 64) := by
  refine ⟨⟨rfl, rfl⟩, by decide, fun d h => (List.not_mem_nil h).elim, ?_, by decide +kernel⟩
  intro off _
  simp [State.vaultGone, gatedThree, mk, State.reset]
theorem witness_CheckpointCaptures : (mk {}).cur.core < 288 := by decide
/-- Group 0 of core 0 with port 1 a read port and port 2 a write port of four-byte elements. -/
def ported : State :=
  mk { ports := [(1, { bound := true, lsz := 2, ahead := [(0, 5, 0)] }), (2, { bound := true, write := true, lsz := 2 })] } 3
theorem witness_VectorIntegerResults : PortsReady ported 2 1 true true (etBytes 3) (etBytes 3) := by
  unfold PortsReady PortReady; decide
theorem witness_VectorCompares : PortReady ported ((1 : BitVec 5).toNat % 8) false (etBytes 3) := by unfold PortReady; decide
theorem witness_VectorFloatResults :
    PortsReady ported 2 1 true true (etBytes 0) (etBytes 0) ∧ PortsReady ported 2 1 true true (codeBytes 0) (etBytes 3) := by
  unfold PortsReady PortReady; decide
theorem witness_VectorMovesAndReductions :
    ({ ported with cur := { ported.cur with msel := 1 } } : State).act = [] ∧ ported.act ≠ [] ∧ (2 : BitVec 3).toNat ≤ 2 ∧
    ¬ (3 : BitVec 3).toNat ≤ 2 := by decide
/-- Core 0 in the M slot of a checkpoint bundle. -/
def racing (mode : Word := 0) (base : Word := 0) : State := mk { inCk with mpc := 0x1FFF, mp := [(0, base), (5, mode)] } 5
theorem witness_TileOperationsAreQueued :
    MayRace (racing) ∧ ((racing 2).me.gmp 5).setWidth 2 ≠ (3 : BitVec 2) ∧ ((racing).tile (racing).cur.core).wdrn = false ∧
    MayRace (racing 3) ∧ ((racing 3).me.gmp 5).setWidth 2 = (3 : BitVec 2) ∧ ((racing 3).tile (racing 3).cur.core).wdrn = false ∧
    FirstTime (racing 3) ∧ ((racing 0 0x3000).me.gmp 0).toNat % 4096 = 0 := by
  unfold MayRace FirstTime InCk; decide
theorem witness_KeyRaces :
    MayRace (racing) ∧ ((racing).tile 0).wdrn = false ∧ ((racing).tile 0).off = [] ∧ ((racing).tile 0).moved = [] ∧
    (127 : BitVec 7).toNat ≤ (127 : BitVec 7).toNat := by
  unfold MayRace; decide
theorem witness_VectorMemoryAccess :
    let s := atAddr
    isSlot s.cur.core = false ∧ ¬ isSlot ({ s with cur := { s.cur with core := 288 } } : State).cur.core = false ∧
    ({ s with cur := { s.cur with core := 288 } } : State).trial = none ∧
    SpaceOk s (s.me.ga 1) [0, 1] ∧ LanesOk s (s.vecOffs 1 0 0 0 false 0) 4 (s.spaceSize (s.me.ga 1)) true ∧
    SpaceOk s (s.me.ga 2) [0, 1] ∧ LanesOk s (s.vecOffs 2 0 2 2 true 0) 1 (s.spaceSize (s.me.ga 2)) false ∧
    GateRoom s 8 ∧ SpaceOk s (s.me.ga 1) [0] ∧ LanesOk s (s.idxOffs 0 1 0 0) 4 (localSize s.cur.core) true ∧
    bankOver (linesOfOffs ((s.idxOffs 0 1 0 0).map fun x => x.2.toNat)) = false := by
  refine ⟨by decide, by decide, rfl, ?_, ?_, ?_, ?_, by unfold GateRoom; decide, ?_, ?_, by decide +kernel⟩
  · unfold SpaceOk; decide
  · unfold LanesOk; decide +kernel
  · unfold SpaceOk; decide
  · unfold LanesOk; decide +kernel
  · unfold SpaceOk; decide
  · unfold LanesOk; decide +kernel
theorem witness_CopiesAreNumbered :
    let s := atAddr
    EngineRoom s 0 ∧ EngineRoom s 1 ∧ EngineRoom s 3 ∧ Accepted s (s.me.ga 1) [0, 1, 2, 3] true ∧
    Accepted s (s.me.ga 3) [0, 1, 2] false ∧ Accepted s (s.me.ga 4) [0, 1, 2, 3] true ∧ (s.me.gs 7).toNat < 2 ^ 32 ∧
    (s.me.gs 0).toNat % 2 ^ 23 % 8 = 0 ∧ isSlot s.cur.core = false ∧ SpaceOk s (s.me.ga 1) [0] ∧
    (spaceOf (s.me.ga 5) = 2 ∧ nbits (s.me.ga 5).toNat 56 6 = 0 ∧ (s.me.ga 5).toNat % 64 = 0) := by
  unfold EngineRoom Accepted SpaceOk
  decide
theorem witness_PortsTimelinesAndFences :
    let s := atAddr
    isSlot s.cur.core = false ∧ LocalOperand s (s.me.ga 1) 64 64 false ∧ (s.ownFault (s.me.ga 1).toNat 64).isNone = true ∧
    portOk (s.ownBytes (s.me.ga 1).toNat 64) = true ∧
    4 ≤ (4 : BitVec 3).toNat ∧ SpaceOk s (s.me.ga 6) [1] ∧ offOf (s.me.ga 6) = 0 ∧ 2 ≤ (2 : BitVec 3).toNat := by
  unfold LocalOperand SpaceOk
  decide +kernel
theorem witness_AtomicsIssue :
    let s := atAddr
    FirstTime s ∧ SpaceOk s (s.me.ga 1) [0, 1, 2] ∧ LocalOperand s (s.me.ga 1) 8 8 true ∧ GateRoom s 1 ∧
    SpaceOk s (s.me.ga 2) [0, 1, 2] ∧ SpaceOk s (s.me.ga 3) [0, 1, 2] ∧ (s.me.ga 3).toNat % 8 = 0 ∧
    LocalOperand s (s.me.ga 1) 16 16 false ∧ spaceOf (s.me.ga 1) = 0 ∧ spaceOf (s.me.ga 2) = 1 ∧ spaceOf (s.me.ga 3) = 2 ∧
    offOf (s.me.ga 2) < regionTable := by
  refine ⟨by unfold FirstTime InCk; decide, ?_, ?_, by unfold GateRoom; decide, ?_, ?_, by decide, ?_, by decide, by decide,
    by decide, by decide⟩ <;> (try unfold LocalOperand) <;> (unfold SpaceOk; decide)
theorem witness_mapreg :
    let s := mk { inCk with s := [(7, 0x0000100000001000)], a := [(5, 0x8000000000002000)] } 6
    let r : RDesc := { voff := 0x1000, len := 0x1000, gva := 0x2000, wb := true, sv := false }
    isSlot s.cur.core = false ∧ spaceOf (s.me.ga 5) = 2 ∧ nbits (s.me.ga 5).toNat 56 6 = 0 ∧ r.voff % 4096 = 0 ∧ r.len % 4096 = 0 ∧
    r.gva % 4096 = 0 ∧ r.voff + r.len ≤ regionTable ∧ (nbits (s.me.gs 7).toNat 0 23 = r.voff ∧ nbits (s.me.gs 7).toNat 32 23 = r.len) ∧
    (∀ j, j < 8 → (s.mapNow j).len = 0) ∧ s.mapNow 0 ≠ r ∧ Undamaged s ∧ s.vaultGone (vaultAddr 0 regionTable) = false := by
  refine ⟨by decide, by decide, by decide, by decide, by decide, by decide, by decide, by decide, ?_, ?_, ⟨rfl, rfl⟩, by decide⟩
  · decide +kernel
  · decide +kernel
theorem witness_mapreg_again :
    let s := mk { inCk with a := [(5, 0x8000000000000000)] } 6
    s.mapNow 0 = { voff := nbits (s.me.gs 0).toNat 0 23, len := nbits (s.me.gs 0).toNat 32 23, gva := vaOf (s.me.ga 5),
                   wb := false, sv := s.cur.sv } := by
  decide +kernel
theorem witness_mapreg_lands :
    let r : RDesc := { voff := 0x1000, len := 0x1000, gva := 0x2000, wb := true, sv := false }
    let x : Pending := { dest := .region 0, src := .bytes r.bytes, issue := 4, ord := 6, perform := 4, land := 5 }
    let s := flying [x]
    s.together s.cur.core = [s.cur.core] ∧ s.me.pend = [x] ∧ x.dest = .region (0 : BitVec 3).toNat ∧ x.src = .bytes r.bytes ∧
    x.land = s.me.vc ∧ x.perform ≠ s.me.vc ∧ x.late = false ∧ x.dmg.cls = 0 ∧ s.sigs = [] ∧ Undamaged s ∧
    s.vaultGone (vaultAddr s.cur.core regionTable) = false ∧ r.voff < 2 ^ 32 ∧ r.len < 2 ^ 32 := by
  exact ⟨by decide, rfl, rfl, rfl, rfl, by decide, rfl, rfl, rfl, ⟨rfl, rfl⟩, by decide, by decide, by decide⟩
theorem witness_send :
    let s := atAddr
    LocalOperand s (s.me.ga 1) 64 8 false ∧ FirstTime s ∧ (s.me.gs 8).toNat % 512 < slotBase ∧
    s.enabled ((s.me.gs 8).toNat % 512) = true ∧ EngineRoom s 1 ∧ Undamaged s ∧ s.vaultGone (vaultAddr 0 0x1000) = false ∧
    (∀ l ∈ linesIn 0x1000 64, s.unfilled 0 l = false) := by
  refine ⟨by unfold LocalOperand SpaceOk; decide, by unfold FirstTime InCk; decide, by decide, by decide, by unfold EngineRoom; decide,
    ⟨rfl, rfl⟩, by decide, by decide +kernel⟩
theorem witness_recv :
    let m : Msg := { sender := 5, bytes := toBytes 8 77 }
    let s := mk { inCk with a := [(1, 0x1000)], recvq := [m] } 6
    s.me.nextMsg = some m ∧ LocalOperand s (s.me.ga 1) 64 64 true ∧ GateRoom s 1 ∧ (Unlogged s ∨ Clean s) := by
  exact ⟨rfl, by unfold LocalOperand SpaceOk; decide, by unfold GateRoom; decide, .inr ⟨⟨rfl, rfl⟩, rfl, rfl⟩⟩
theorem witness_MessagesAndRegions :
    let r : Region := { w := false, t := 0x40, addr := 0x1000, tol := 0, ldepth := 0 }
    let s := mk { inCk with a := [(1, 0x1000)], regions := [r, r, r] } 6
    isSlot s.cur.core = false ∧ FirstTime s ∧ LocalOperand s (s.me.ga 1) 64 64 true ∧ (true = true → (0x1FF : BitVec 12).toNat ≤ 0x1FF) ∧
    s.me.regions.length < 4 ∧ s.me.regions ≠ [] ∧ s.unitOf s.cur.core = none ∧ s.modeOf s.cur.core ≠ 2 := by
  unfold FirstTime InCk LocalOperand SpaceOk
  decide
/-- A tandem unit of cores 0 and 1 that is not sampled. -/
def tandem : UnitRec := { ctx := 0, lid := 1, u := 0, members := [0, 1], size := 1, mode := 2, prio := 0, slot := 0 }
theorem witness_audoff_and_tcheck :
    let s := { mk { inCk with unit := some (0, 1, 0) } 6 with units := [tandem] }
    s.modeOf s.cur.core = 2 ∧ s.unitOf s.cur.core = some tandem ∧ tandem.audited = true := by
  decide
theorem witness_HubOperationsAreSent : (atAddr 2 true).cur.sv = true ∧ FirstTime (atAddr 2 true) := by
  unfold FirstTime InCk; decide

/-- What holds of a pair whose second part is a result. -/
theorem ok_of {α : Type} {x : State × Except Rec α} (h : x.2.toBool = true) : ∃ v, x = (x.1, .ok v) := by
  obtain ⟨a, b⟩ := x
  cases b with
  | ok v => exact ⟨v, rfl⟩
  | error e => simp [Except.toBool] at h
/-- What holds of a pair whose second part is present. -/
theorem some_of {α : Type} {x : State × Option α} (h : x.2.isSome = true) : ∃ v, x = (x.1, some v) := by
  obtain ⟨a, b⟩ := x
  cases b with
  | some v => exact ⟨v, rfl⟩
  | none => simp at h

/-- Core 0's tile in this routine, its microstore holding endl at word 3. -/
def inRoutine (r : Routine) : State :=
  { (State.reset.setBytes (microAddr 0 12) (toBytes 4 0x2C000000)) with tiles := [(0, { run := some r })], cur := { core := 0 } }
theorem witness_RoutineControl :
    let r : Routine := { pc := 0, t := [(1, 0x40), (2, 0x1000)], loops := List.replicate 3 { start := 1, stop := 5, idx := 0, count := 2 } }
    let s := inRoutine r
    (s.tile s.cur.core).run = some r ∧ nbits (r.gt 1).toNat 52 2 = 0 ∧ (r.gt 1).toNat % 64 = 0 ∧ spaceOf (r.gt 1) ≤ 1 ∧
    s.matchEndl 0 (8192 - (r.pc + 1)) (r.pc + 1) 0 = some 3 ∧ r.loops.length < 4 ∧ (r.loops.getLast?).isSome = true ∧
    ((2 : BitVec 6) ≠ 0 ∧ ∀ k, r.pc < k → k ≤ r.pc + (2 : BitVec 6).toNat →
      tscOp (s.microWord 0 k) ≠ 0x0A ∧ tscOp (s.microWord 0 k) ≠ 0x0B) ∧
    (∀ l, r.loops.getLast? = some l → l.start ≤ (5 : BitVec 13).toNat ∧ (5 : BitVec 13).toNat ≤ l.stop) := by
  refine ⟨rfl, by decide, by decide, by decide, by decide +kernel, by decide, by decide, ⟨by decide, ?_⟩, ?_⟩
  · intro k h1 h2
    have h2 : k ≤ 2 := h2
    have h1 : 0 < k := h1
    obtain rfl | rfl : k = 1 ∨ k = 2 := by omega
    · decide +kernel
    · decide +kernel
  · intro l h
    obtain rfl := Option.some.inj h
    decide
/-- One column of TW4 weights with its scale byte beside it, one row, and activations of format 0. -/
def oneColumn : Routine := { pc := 0, accDone := true, t := [(1, 0x1000), (2, 0x2000)], xstr := some { base := 0x1000, rows := 1, ovr := none } }
theorem witness_RoutineComputes :
    let r := oneColumn
    let s := inRoutine r
    (s.tile s.cur.core).run = some r ∧ (r.gt 1).toNat % 64 = 0 ∧ spaceOf (r.gt 1) ≤ 1 ∧ (r.tw16 = true → r.ncol ≤ 256) ∧
    r.wq = 0 ∧ r.rows = 1 ∧ r.ncol = 1 ∧ r.tri = none ∧ r.rnd.toNat < 5 ∧ r.ovr 9 24 = none ∧
    (∃ u1 u2 : State, ∃ g z : Got, s.tileRead 0 r (r.gt 1) (r.gt 1) (r.ncol * r.wb) = (u1, .ok g) ∧
      u1.tileRead 0 r (r.gt 1) (r.gt 1 + BitVec.ofNat 64 (r.ncol * r.wb)) r.ncol = (u2, .ok z)) ∧
    (∃ u1 u2 : State, ∃ g z : Got, s.tileRead 0 r (0x1000 : Word) (0x1000 : Word) r.eb = (u1, .ok g) ∧
      u1.tileRead 0 r (0x1000 : Word) (0x1000 + BitVec.ofNat 64 (r.rows * r.eb)) 1 = (u2, .ok z) ∧ (u2.tile 0).off = [] ∧
      (u2.tile 0).moved = []) ∧
    (nbits (0x32 : Word).toNat 0 2 = 2 ↔ nbits (0x32 : Word).toNat 4 4 ≠ 0) ∧
    (nbits (0x1 : Word).toNat 0 2 = 2 ↔ nbits (0x1 : Word).toNat 4 4 ≠ 0) := by
  refine ⟨rfl, by decide, by decide, by decide, by decide, by decide, by decide, rfl, by decide, by decide, ?_, ?_, by decide,
    by decide⟩
  · obtain ⟨g, hg⟩ := ok_of (x := (inRoutine oneColumn).tileRead 0 oneColumn (oneColumn.gt 1) (oneColumn.gt 1)
      (oneColumn.ncol * oneColumn.wb)) (by decide +kernel)
    obtain ⟨z, hz⟩ := ok_of (x := ((inRoutine oneColumn).tileRead 0 oneColumn (oneColumn.gt 1) (oneColumn.gt 1)
      (oneColumn.ncol * oneColumn.wb)).1.tileRead 0 oneColumn (oneColumn.gt 1)
      (oneColumn.gt 1 + BitVec.ofNat 64 (oneColumn.ncol * oneColumn.wb)) oneColumn.ncol) (by decide +kernel)
    exact ⟨_, _, g, z, hg, hz⟩
  · obtain ⟨g, hg⟩ := ok_of (x := (inRoutine oneColumn).tileRead 0 oneColumn (0x1000 : Word) (0x1000 : Word) oneColumn.eb)
      (by decide +kernel)
    obtain ⟨z, hz⟩ := ok_of (x := ((inRoutine oneColumn).tileRead 0 oneColumn (0x1000 : Word) (0x1000 : Word)
      oneColumn.eb).1.tileRead 0 oneColumn (0x1000 : Word) (0x1000 + BitVec.ofNat 64 (oneColumn.rows * oneColumn.eb)) 1)
      (by decide +kernel)
    exact ⟨_, _, g, z, hg, hz, by decide +kernel, by decide +kernel⟩
/-- Images at offset 0x100 of the own vault. -/
def writing : Routine := { pc := 0, accDone := true, t := [(1, 0x10000000000), (2, 0x2000)] }
theorem witness_emit_and_handoff :
    let r := writing
    let s := inRoutine r
    (r.gt 1).toNat / 2 ^ 32 % 8 = 0 ∧ (r.tw16 = true → r.ncol ≤ 256) ∧
    r.rnd.toNat < 5 ∧
    (∃ l : List (Word × List Byte),
      l.map (·.1) = (seqFrom 0 (r.rows * ((r.ncol + 15) / 16))).map
        (fun i => BitVec.ofNat 64 ((r.gt 1).toNat / 2 ^ 32 + 40 * i)) ∧
      (∀ i, i < l.length → ∃ z : Word, ((l[i]?).map (·.2)) =
        some (handoffBlock r.rnd r.eacc ((seqFrom 0 16).map fun k =>
          if 16 * (i % ((r.ncol + 15) / 16)) + k < r.ncol
          then (s.tile 0).entry (r.bank + i % ((r.ncol + 15) / 16) / 8) (r.row0 + i / ((r.ncol + 15) / 16))
            (16 * (i % ((r.ncol + 15) / 16) % 8) + k) else (0, 0)) z).1.bytes)) := by
  refine ⟨by decide, by decide, by decide, ?_⟩
  · let b := (handoffBlock writing.rnd writing.eacc ((seqFrom 0 16).map fun k =>
          if 16 * (0 % ((writing.ncol + 15) / 16)) + k < writing.ncol
          then ((inRoutine writing).tile 0).entry (writing.bank + 0 % ((writing.ncol + 15) / 16) / 8) (writing.row0 + 0 / ((writing.ncol + 15) / 16))
            (16 * (0 % ((writing.ncol + 15) / 16) % 8) + k) else (0, 0)) 0).1.bytes
    refine ⟨[(0x100, b)], by decide, ?_⟩
    intro i hi
    obtain rfl : i = 0 := by simp at hi; exact hi
    exact ⟨0, rfl⟩
/-- What is to be written: eight bytes up to the region table. -/
theorem witness_routineWrites :
    let r : Routine := { writing with out := [(0x7FFEF8, toBytes 8 7)] }
    let s := inRoutine r
    (s.tile 0).run = some r ∧ r.out = ((0x7FFEF8 : Word), toBytes 8 7) :: [] ∧ toBytes 8 7 ≠ [] ∧ spaceOf 0x7FFEF8 = 0 ∧
    addrBitsOk 0x7FFEF8 = true ∧ offOf 0x7FFEF8 + (toBytes 8 7).length ≤ regionTable ∧ NonePassed s ∧ Undamaged s ∧
    s.vaultGone (vaultAddr 0 (offOf 0x7FFEF8)) = false ∧
    ∀ k ∈ linesIn (offOf 0x7FFEF8) (toBytes 8 7).length, s.unfilled 0 k = false := by
  refine ⟨rfl, rfl, by decide, by decide, by decide, by decide, ?_, ⟨rfl, rfl⟩, by decide, by decide +kernel⟩
  intro x hx; exact absurd hx List.not_mem_nil
theorem witness_key_words :
    let r := oneColumn
    let s := inRoutine r
    spaceOf (r.gt 1) ≤ 1 ∧ spaceOf (r.gt 2) = 0 ∧
    (∃ u : State, ∃ g : Got, s.tileRead 0 r (r.gt 1) (r.gt 1) (3 * (keyWidth 0 / 8)) = (u, .ok g) ∧ (u.tile 0).off = [] ∧
      (u.tile 0).moved = []) ∧
    ({ r with priv := true } : Routine).priv = true ∧ (3583 : Word).toNat % 4096 ≤ 3583 := by
  refine ⟨by decide, by decide, ?_, rfl, by decide⟩
  obtain ⟨g, hg⟩ := ok_of (x := (inRoutine oneColumn).tileRead 0 oneColumn (oneColumn.gt 1) (oneColumn.gt 1)
    (3 * (keyWidth 0 / 8))) (by decide +kernel)
  exact ⟨_, g, hg, by decide +kernel, by decide +kernel⟩

theorem witness_FaultsTakeAnErrorTrap :
    let s := mk { inCk with shadow := some (inCk).capture }
    let t := mk { inCk true with shadow := some (inCk true).capture }
    isSlot 0 = false ∧ s.together 0 = [0] ∧ (s.core 0).shadow = some (inCk).capture ∧ (∀ k, k < 8 → ((s.core 0).port k).ahead = []) ∧
    Undamaged s ∧ (s.core 0).sv = false ∧ s.err.en = false ∧ t.together 0 = [0] ∧ (t.core 0).sv = true := by
  refine ⟨by decide, by decide, rfl, ?_, ⟨rfl, rfl⟩, rfl, rfl, by decide, rfl⟩
  intro k _; rfl
/-- A doubleword that a gld has still to read at G-space address 0. -/
def far : Pending :=
  { dest := .s 3, src := .load .g [{ key := 0, addr := 0, width := 8 }] true false, issue := 1, ord := 2, perform := 9, land := 9, late := true }
/-- A store of eight bytes to the vault of core 1. -/
def across : Gated := { form := .c, cells := cellsAt (vaultAddr 1 0x7FFFF8) (toBytes 8 7), issue := 0, ord := 2 }
theorem witness_BundleSteps :
    (∀ k, (mk {}).mayArrive 0 k = false) ∧ ((mk {}).core 0).hold ≠ 2 ∧ across.bad = [] ∧ far.irrev = none ∧
    (let s := mk { pend := [far], hold := 5, vc := 9 }
     (s.core 0).pend[0]? = some far ∧ far.src = .load .g ({ key := 0, addr := 0, width := 8 } :: []) true false ∧
     s.mayArrive 0 0 = true ∧ (∀ k, k ≠ 0 → s.mayArrive 0 k = false) ∧ s.secondary 0 = false ∧ NonePassed s) ∧
    (let s := mk { released := [across] }
     (s.core 0).released = [across] ∧ s.mayPerform 0 0 = true ∧ across.cells = cellsAt (vaultAddr 1 0x7FFFF8) (toBytes 8 7) ∧
     toBytes 8 7 ≠ [] ∧ 0x7FFFF8 / 64 = (0x7FFFF8 + 8 - 1) / 64 ∧ s.unfilled 1 (0x7FFFF8 / 64) = false ∧ NonePassed s ∧
     Undamaged s ∧ s.vaultGone (vaultAddr 1 0x7FFFF8) = false) ∧
    (let x : Late := { what := {}, due := 3 }
     let s := mk { late := [x], vc := 4 }
     (s.core 0).late = [x] ∧ s.pathHeld 0 = false ∧ x.due < (s.core 0).vc) ∧
    (mk { holdAt := false, vc := 14, pend := [{ far with late := true, row := 1, land := 14 }] }).pathHeld 0 = true ∧
    (let x : Late := { what := {}, due := 3 }
     let s := mk { late := [x], vc := 3, hold := 4 }
     (∀ y ∈ (s.core 0).late, ¬ y.due < (s.core 0).vc) ∧ (s.core 0).hold < 5) ∧
    ((mk {}).tile 0).run = none ∧ ((inRoutine { pc := 0 }).tile 0).run = some { pc := 0 } := by
  refine ⟨fun k => rfl, by decide, rfl, rfl, ⟨rfl, rfl, by decide +kernel, ?_, by decide, by unfold NonePassed; decide⟩,
    ⟨rfl, by decide +kernel, rfl, by decide, by decide, by decide +kernel, by unfold NonePassed; decide, ⟨rfl, rfl⟩, by decide⟩,
    ⟨rfl, by decide +kernel, by decide⟩, by decide +kernel, ⟨by decide, by decide⟩, rfl, rfl⟩
  intro k h
  cases k with
  | zero => exact absurd rfl h
  | succ k => rfl
/-- A launch of one SOLO unit on V-die 0, and its context. -/
def launch (ready : Bool) (status started : Nat) : Launch :=
  { lid := 1, serial := 0, kimg := 0x100000, units := 1, mode := 0, size := 1, dies := 1, prio := 8, phase := 0, graph := 0, edges := [],
    entry := 0, vin := 0, vstride := 0, vlen := 0, voff := 0, args := List.replicate 7 0, aregs := List.replicate 4 0, reslen := 0,
    banklen := 0, hcwlen := 0, tilelen := 0, woff := 0, wlen := 0x1000, live := 0, ispsave := false, svec := 0, ready := ready,
    status := status, started := started }
def context (l : List Launch) : Context :=
  { root := 0x200000, save := 0x300000, pannier := 0x400000, rsize := 0x1000, nrec := 1, drain := 10, slice := 100, pmax := 0,
    launches := l, phases := [(0, {})] }
/-- Unit 0 of launch 1 on core 0. -/
def unit0 (st : UState) : UnitRec := { ctx := 0, lid := 1, u := 0, mode := 0, size := 1, prio := 8, members := [0], slot := 0, st := st }
/-- That context, with every tile trued, and core 0 as given. -/
def hubState (l : Launch) (us : List UnitRec) (c : Core := {}) : State :=
  { State.reset with ctxs := [(0, context [l])], units := us, tiles := (seqFrom 0 288).map fun q => (q, { boot := false }),
                     cores := [(0, c)] }
theorem witness_launchReady :
    let y := launch false 0 0
    let x := context [y]
    let s := hubState y []
    s.ctx 0 = some x ∧ x.launch 1 = some y ∧ (∀ r ∈ s.units, r.prio ≠ 255) ∧ y.ready = false ∧ y.status = 0 ∧ x.held = false ∧
    (∀ e ∈ y.edges, (s.item e.1).state = 4 ∨ e.2.toNat ≤ (s.item e.1).val.toNat) ∧
    (∀ e ∈ x.phases, y.phase ≤ e.1 ∨ e.2.status = 2 ∨ e.2.status = 3) ∧ ¬ (launch true 0 0).ready = false := by
  refine ⟨rfl, rfl, ?_, rfl, rfl, rfl, ?_, by decide, by decide⟩ <;> (intro r hr; cases hr)
/-- A pair by its parts, the second being what is said of it. -/
theorem pair_none {α : Type} {x : State × Option α} (h : x.2.isNone = true) : x = (x.1, none) := by
  obtain ⟨a, b⟩ := x
  cases b with
  | some v => simp at h
  | none => rfl
theorem witness_unitStart :
    let y := launch true 0 0
    let s := hubState y []
    s.ctx 0 = some (context [y]) ∧ s.launchOf 0 1 = some y ∧
    ((s.waiters.find? (fun w => w.ctx == 0 && w.lid == 1 && w.u == 0)).bind s.takes) = some [0] ∧ s.ctl.hnext = none ∧
    s.findUnit 0 1 0 = none ∧ ∃ v, (s.placeUnit 0 y 0 [0]).copyIn 0 y 0 [0] = (v, none) ∧ ∀ r ∈ v.units, r.prio ≠ 255 := by
  refine ⟨by decide, by decide, by decide +kernel, rfl, by decide, _, pair_none (by decide +kernel), by decide +kernel⟩
/-- Unit 0 saved at a boundary in the first record of the reserve. -/
def saved : UnitRec := { unit0 (.saved 4096) with members := [], boundary := true }
def resuming : State := hubState (launch true 1 1) [saved]
/-- The record's header is read, and the copies come back. -/
def header : State × Except Rec (List Byte) :=
  (resuming.placeBack (launch true 1 1) saved 4096 [0]).hubClean 0 0 (resuming.recordAt (context [launch true 1 1]) 4096).1 0 512 true
def headerData : List Byte := List.replicate 512 0
def back : State × Option Rec :=
  header.1.copyBack (launch true 1 1) saved (resuming.recordAt (context [launch true 1 1]) 4096) headerData [0]
theorem header_read : header = (header.1, .ok headerData) := by
  have h : (match header.2 with | .ok h => decide (h = headerData) | .error _ => false) = true := by decide +kernel
  generalize header = z at h
  generalize headerData = y at h
  obtain ⟨a, b⟩ := z
  cases b with
  | ok k => simp only [decide_eq_true_eq] at h; rw [h]
  | error _ => cases h
theorem back_made : back = (back.1, none) := pair_none (by decide +kernel)
theorem witness_resume :
    resuming.ctx 0 = some (context [launch true 1 1]) ∧ resuming.launchOf 0 1 = some (launch true 1 1) ∧
    ((resuming.waiters.find? (fun w => w.ctx == 0 && w.lid == 1 && w.u == 0)).bind resuming.takes) = some [0] ∧
    resuming.ctl.hnext = none ∧ resuming.findUnit 0 1 0 = some saved ∧ saved.st = .saved 4096 ∧ saved.prio ≠ 255 ∧ [0].Nodup ∧
    header = (header.1, .ok headerData) ∧ back = (back.1, none) ∧ (∀ q ∈ [0], (back.1.core q).pendFault = none) ∧
    (∀ e ∈ back.1.units, e.prio ≠ 255) ∧ (back.1.findUnit 0 1 0).isSome = true := by
  refine ⟨by decide, by decide, by decide +kernel, rfl, by decide, rfl, by decide, by decide, header_read, back_made, by decide +kernel,
    by decide +kernel, by decide +kernel⟩
theorem witness_unitRetire :
    let y := launch true 1 1
    let r := unit0 .running
    let s := hubState y [r] { idle := false, halted := true, unit := some (0, 1, 0) }
    s.findUnit 0 1 0 = some r ∧ AtRest s r ∧ (∀ m ∈ r.members, (s.core m).halted = true) ∧ r.sampled = false ∧ Settled s ∧
    s.launchOf 0 1 = some y ∧ y.status = 1 ∧
    ∀ x g, s.ctx 0 = some x → findGroup x.graphs (graphKey y.phase y.graph) = some g → g.sealed = false := by
  refine ⟨by decide, by unfold AtRest; decide, by decide, rfl, by unfold Settled; decide, by decide, rfl, ?_⟩
  intro x g hx hg
  obtain rfl := Option.some.inj hx
  cases hg
theorem witness_sliceCheck :
    (let s := hubState (launch true 1 1) [unit0 .running] { idle := false, unit := some (0, 1, 0) }
     s.findUnit 0 1 0 = some (unit0 .running) ∧ s.ctx 0 = some (context [launch true 1 1]) ∧ (unit0 .running).prio ≠ 255 ∧
     (unit0 .running).tend ≤ s.gtc.toNat + 1000 * (context [launch true 1 1]).drain ∧ s.waiters = [] ∧
     s.gtc.toNat + 1000 * (context [launch true 1 1]).drain < 10001) ∧
    (let x := context [launch true 1 1, { launch true 0 0 with lid := 2 }]
     let s := { hubState (launch true 1 1) [unit0 .running] { idle := false, unit := some (0, 1, 0) } with ctxs := [(0, x)] }
     s.findUnit 0 1 0 = some (unit0 .running) ∧ s.ctx 0 = some x ∧ x.freeRec = some 0 ∧
     (∀ m ∈ (unit0 .running).members, (s.core m).abandons = false) ∧
     (s.waiters.any fun w => decide (rankOf (unit0 .running).prio ≤ rankOf w.prio ∧ (w.ctx ≠ 0 ∨ w.lid ≠ 1)) &&
       w.needs (unit0 .running).members) = true) := by
  decide +kernel
/-- A unit that stands at a boundary, its stop request holding the first record of the reserve, and what its save writes. -/
def stopping : UnitRec := unit0 (.stopping 4096)
def standing : State := hubState (launch true 1 1) [stopping] { idle := false, stopped := true, unit := some (0, 1, 0), ckQp := true }
def finished : State := stopping.members.foldl (fun s m => ((s.finishAccesses m).drainStreams m).settleLate m) standing
def parts : State × Option Rec :=
  let r := { (finished.findUnit 0 1 0).getD stopping with
    ucnt := stopping.ucnt + (if (finished.core (stopping.members.headD 0)).partDone then 1 else 0) }
  finished.saveParts (context [launch true 1 1]) (launch true 1 1) r (finished.recordAt (context [launch true 1 1]) 4096)
    (finished.atBoundary (launch true 1 1) r)
theorem witness_unitSave :
    standing.findUnit 0 1 0 = some stopping ∧ standing.maySave stopping = true ∧
    (∃ m ∈ stopping.members, (standing.core m).halted = false) ∧ stopping.cancel = false ∧ standing.ctl.hnext = none ∧
    standing.ctx 0 = some (context [launch true 1 1]) ∧ standing.launchOf 0 1 = some (launch true 1 1) ∧ stopping.prio ≠ 255 ∧
    parts = (parts.1, none) ∧ (∀ e ∈ parts.1.units, e.prio ≠ 255) ∧ (parts.1.findUnit 0 1 0).isSome = true ∧
    (let r := { unit0 (.stopping 5000) with cancel := true }
     let y := launch true 4 1
     let s := hubState y [r] { idle := false, stopped := true, unit := some (0, 1, 0) }
     s.findUnit 0 1 0 = some r ∧ s.maySave r = true ∧ (∃ m ∈ r.members, (s.core m).halted = false) ∧ r.cancel = true ∧
     r.sampled = false ∧ AtRest s r ∧ Settled s ∧ s.launchOf 0 1 = some y ∧ y.status = 4 ∧
     ∀ x g, s.ctx 0 = some x → findGroup x.graphs (graphKey y.phase y.graph) = some g → g.sealed = false) := by
  refine ⟨by decide, by decide, by decide, rfl, rfl, by decide, by decide, by decide, pair_none (by decide +kernel), by decide +kernel,
    by decide +kernel, by decide, by decide, by decide, rfl, rfl, by unfold AtRest; decide, by unfold Settled; decide, by decide, rfl, ?_⟩
  intro x g hx hg
  obtain rfl := Option.some.inj hx
  cases hg
/-- Core 0 waits, with this hold, for the answer to this request on sync counter 5. -/
def asking (op hold : Nat) (y : Word) : State :=
  { hubState (launch true 1 1) [] { idle := false, sv := true, nid := 1, hold := hold } with
    hubq := [{ agent := 0, id := 1, op := op, func := 0, x := 5, y := y, ctx := 0, sv := true, enc := 0 }] }
theorem witness_hubAnswer :
    let q : HubReq := { agent := 0, id := 1, op := 0x33, func := 0, x := 5, y := 9, ctx := 0, sv := true, enc := 0 }
    let x := context [launch true 1 1]
    let holds := fun (s : State) (q : HubReq) => s.hubq = [q] ∧ Settled s ∧ s.ctx (hCtx q.x) = some x ∧
      s.handleOk q q.x [0, 1, 2, 3, 4] = true ∧ (s.core q.agent).nid = q.id ∧ (s.core q.agent).stopped = false ∧
      s.unitOf q.agent = none
    holds (asking 0x33 1 9) q ∧ hLvl q.x = 0 ∧ ((asking 0x33 1 9).core 0).hold = 1 ∧ holds (asking 0x34 1 9) { q with op := 0x34 } ∧
    holds (asking 0x31 8 9) { q with op := 0x31 } ∧ ((asking 0x31 8 9).core 0).hold = 8 ∧
    ((asking 0x31 8 9).item q.x).val.toNat < q.y.toNat ∧ 5 < ((asking 0x31 8 9).item q.x).state ∧ x.cancelled = false ∧
    holds (asking 0x31 8 0) { q with op := 0x31, y := 0 } ∧ (0 : Word).toNat ≤ ((asking 0x31 8 0).item q.x).val.toNat := by
  unfold Settled; decide
theorem witness_auditReplay :
    let a : Audit := { ctx := 0, lid := 1, u := 0, size := 1, die := 0, sig := 0xABC }
    let s : State := { State.reset with audits := [a] }
    s.audits[0]? = some a ∧ (0xABC : Word) = a.sig ∧ (0xABD : Word) ≠ a.sig ∧ s.audits[1]? = none := by decide
/-- A job image header at 0x10000, whose descriptor is at 0x20000 and whose four bytes of code are at 0x30000. -/
def jobState : State :=
  (({ State.reset with ctl := { jimg := 0x10000, sem := [(2, 1)] } } : State).setBytes 0x10000
    (toBytes 8 0x30000 ++ toBytes 8 4 ++ toBytes 8 0x20000))
theorem witness_jstart :
    let s := jobState
    let v : Word := 0x82
    v.getLsbD 7 = true ∧ (1 : BitVec 2) ≠ 0 ∧ s.ctl.owner (v.toNat % 8) = 1 ∧ s.ctl.jbusy = false ∧ s.xmask.getLsbD 0 = true ∧ s.freeCtx = some 0 ∧
    (∃ h d k : List Byte, ∃ u1 u2 u3 : State,
      ({ s with ctl := { s.ctl with jrej := false } } : State).readHbmRange s.ctl.jimg.toNat 64 = (u1, some h) ∧ jobHeaderOk h = true ∧
      u1.readHbmRange (fieldOf h 16 8) 64 = (u2, some d) ∧ u2.readHbmRange (fieldOf h 0 8) (fieldOf h 8 4) = (u3, some k)) ∧
    s.ctl.owner 3 ≠ 1 ∧ (0x02 : Word).getLsbD 7 = false ∧ jobHeaderOk (List.replicate 64 0) = false := by
  refine ⟨by decide, by decide, by decide, by decide, by decide, by decide, ?_, by decide, by decide, by decide⟩
  let s0 : State := { jobState with ctl := { jobState.ctl with jrej := false } }
  obtain ⟨h, hh⟩ := some_of (x := s0.readHbmRange 0x10000 64) (by decide +kernel)
  have hb : (s0.readHbmRange 0x10000 64).2 = some (toBytes 8 0x30000 ++ toBytes 8 4 ++ toBytes 8 0x20000 ++ List.replicate 40 0) := by
    decide +kernel
  have hv : h = toBytes 8 0x30000 ++ toBytes 8 4 ++ toBytes 8 0x20000 ++ List.replicate 40 0 := by
    rw [hh] at hb; exact Option.some.inj hb
  subst hv
  obtain ⟨d, hd⟩ := some_of (x := (s0.readHbmRange 0x10000 64).1.readHbmRange 0x20000 64) (by decide +kernel)
  obtain ⟨k, hk⟩ := some_of (x := ((s0.readHbmRange 0x10000 64).1.readHbmRange 0x20000 64).1.readHbmRange 0x30000 4) (by decide +kernel)
  exact ⟨_, d, k, _, _, _, hh, by decide +kernel, hd, hk⟩
/-- Core 0's tile. -/
def tiled (t : Tile) : State := { State.reset with tiles := [(0, t)] }
theorem witness_TileSteps :
    (let o : TileOp := { num := 1, kind := .mfence }
     let t := (tiled { queue := [o] }).tile 0
     t.busyOp = none ∧ t.queue = o :: [] ∧ o.kind = .mfence) ∧
    (let o : TileOp := { num := 1, kind := .query 7 1 true }
     o.kind = .query 7 1 true ∧ ((tiled { queue := [o] }).tile 0).queue = o :: []) ∧
    (let o : TileOp := { num := 1, kind := .mcall 5, mp := List.replicate 8 0, sv := true }
     let s := { ((tiled { queue := [o], boot := false }).setBytes (microAddr 0 (0x8000 + 20)) (toBytes 4 0xC0000040)) with
       cur := { core := 0 }, cores := [(0, { vc := 18 })] }
     (s.tile 0).queue = o :: [] ∧ (s.tile 0).busyOp = none ∧ o.vc + 18 ≤ (s.core 0).vc ∧ (s.tile 0).round = none ∧
     (s.tile 0).due = false ∧ (s.tile 0).boot = false ∧ s.callOpen 0 o = false ∧ Undamaged s ∧
     s.stale = [] ∧ o.mp.length = 8 ∧
     (s.entryWord 0 5).getLsbD 31 = true ∧ ((s.entryWord 0 5).getLsbD 30 = true → o.sv = true)) ∧
    (let o : TileOp := { num := 1, kind := .mfence }
     let t := (tiled { busyOp := some o, fin := true }).tile 0
     t.busyOp = some o ∧ t.fin = true) ∧
    (let t := (tiled {}).tile 0
     t.wdrn = false ∧ ¬ t.intv.toNat * 1000000 ≤ (State.reset.gtc - t.trgtc).toNat ∧ t.round = none ∧ t.ballast = none ∧ t.ainc = false ∧
     t.inRound = false) ∧ ((tiled { round := some { arr := 0 } }).tile 0).inRound = true ∧
    ((tiled { ballast := some {} }).tile 0).inRound = false ∧ ((tiled { ballast := some { arrs := 1 } }).tile 0).inRound = true ∧
    (let t := (tiled { due := true, ainc := true, word := 3582 }).tile 0
     t.due = true ∧ t.run = none ∧ t.round = none ∧ t.ainc = true ∧ t.word.toNat < 3583) ∧
    (let r : Round := { arr := 3 }
     let t := (tiled { round := some r }).tile 0
     t.round = some r ∧ r.held = true ∧ t.ballast = none ∧ r.arr < 4) ∧
    (let o : TileOp := { num := 1, kind := .mcall 5 }
     let s := tiled { queue := [o], round := some { arr := 0 } }
     (s.core 0).lets o = true ∧ (s.tile 0).lets o = false ∧ (s.core 0).lets { o with vc := 1 } = true ∧
     (({ s with cores := [(0, { idle := false })] } : State).core 0).lets o = false) := by
  refine ⟨by decide, by decide, ⟨rfl, rfl, by decide, rfl, rfl, rfl, by decide, ⟨rfl, rfl⟩, rfl, by decide, by decide +kernel, fun _ => rfl⟩,
    by decide, by decide, by decide, by decide, by decide, by decide, by decide, by decide⟩

/-- G-space address 0 of context 0 is HBM address 0, by a leaf of 1 GiB; the second page of core 0's vault maps the third
page of G-space, and the fill of its first line has started. -/
def mapped : State :=
  (((({ hubState (launch true 1 1) [] { fills := [(0x1000 / 64, 2)] } with cur := { core := 0 } } : State).setBytes 0x200000
    (toBytes 8 0x201001)).setBytes 0x201000 (toBytes 8 0x202001)).setBytes 0x202000 (toBytes 8 7)).setBytes (vaultAddr 0 regionTable)
    ({ voff := 0x1000, len := 0x1000, gva := 0x2000, wb := false, sv := false } : RDesc).bytes
/-- With nothing to predict from, a read is not predicted (09 R255). -/
theorem readPage_unpredicted (s : State) (w : Who) (va n : Nat) (h : s.predicted w.ctx va = none) :
    s.readPage w va n true = s.readPage w va n false := by
  unfold State.readPage
  simp [h]
theorem mapped_fills : (mapped.fillLine 0 (0x1000 / 64)).2 = none := by
  have hp : pagesOf (64 / 4096 + 2) 0x2000 64 = [(0x2000, 64)] := by decide
  have hr : mapped.readG { p := 0, ctx := 0, sv := false, eng := true } 0x2000 64 true =
      mapped.readG { p := 0, ctx := 0, sv := false, eng := true } 0x2000 64 false := by
    unfold State.readG
    rw [hp]
    simp only [List.foldl]
    rw [readPage_unpredicted]
    decide +kernel
  have hg : mapped.regionAt 0 (64 * (0x1000 / 64)) = some (0, { voff := 0x1000, len := 0x1000, gva := 0x2000, wb := false, sv := false }) := by
    decide +kernel
  have hf : (mapped.fillOf 0 (0x1000 / 64)).getLsbD 0 = false := by decide +kernel
  have hc : mapped.ctxOf 0 = 0 := by decide +kernel
  obtain ⟨x, hx, hv⟩ : ∃ x, mapped.peek { p := 0, ctx := 0, sv := false, eng := true } 0x2000 false false = .ok x ∧ inVault x.pa = false := by
    have h : (match mapped.peek { p := 0, ctx := 0, sv := false, eng := true } 0x2000 false false with
      | .ok x => inVault x.pa | .error _ => true) = false := by decide +kernel
    generalize mapped.peek _ _ _ _ = y at h ⊢
    cases y with
    | ok x => exact ⟨x, rfl, h⟩
    | error _ => cases h
  rw [State.fillLine, show 304 = 303 + 1 from rfl, State.fillDeep, hg]
  simp only [hf, hc, hx, hv, show 64 * (0x1000 / 64) - 0x1000 = 0 from rfl, Nat.add_zero, Bool.false_and, Bool.false_eq_true,
    if_false, hr]
  decide +kernel
theorem witness_lineFill :
    NonePassed mapped ∧ mapped.fillOf 0 (0x1000 / 64) = 2 ∧ mapped.ctl.hnext = none ∧ (mapped.regionAt 0 (64 * (0x1000 / 64))).isSome = true ∧
    (∃ w, mapped.fillLine 0 (0x1000 / 64) = (w, none)) ∧ mapped.fillOf 0 (0x2000 / 64) ≠ 2 := by
  have h := mapped_fills
  refine ⟨by unfold NonePassed; decide +kernel, by decide +kernel, by decide +kernel, by decide +kernel, ?_, by decide +kernel⟩
  generalize mapped.fillLine 0 (0x1000 / 64) = y at h ⊢
  exact ⟨y.1, Prod.ext rfl h⟩
/-- Two contributions to a sum of one element, of cores 0 and 144, one on each X-die engine. -/
def member (rank agent : Nat) : Coll :=
  { agent := agent, num := 1, addr := 0x8000000000001000, ctx := 0, sv := false, data := toBytes 4 0x3F800000, cls := [],
    desc := toBytes 16 5 ++ toBytes 4 (2 * 256 + rank * 65536) ++ toBytes 20 0 ++ toBytes 8 1 ++ toBytes 16 0,
    list := toBytes 2 511 ++ toBytes 2 (511 + 512) }
theorem witness_collComplete :
    let g : State → Coll → List Coll := fun s z => s.colls.filter (s.sameColl z)
    let byRank : State → Coll → List Coll := fun s z => (seqFrom 0 z.nm).filterMap fun r =>
      (g s z).find? fun y => y.rank == r && s.collHome y == z.entry r
    (let s : State := { State.reset with colls := [member 0 0] }
     let z := member 0 0
     s.colls[0]? = some z ∧ z.peer = none ∧
     (∀ y ∈ g s z, y.valid = true ∧ z.agrees y = true ∧ y.ceBad = false ∧ z.nm ≤ y.nm) ∧ (g s z).length < z.nm) ∧
    (let s : State := { State.reset with colls := [member 0 0, member 1 144] }
     let z := member 0 0
     s.colls[0]? = some z ∧ (∀ y ∈ g s z, y.valid = true ∧ z.agrees y = true ∧ y.ceBad = false ∧ z.nm ≤ y.nm) ∧
     z.nm ≤ (g s z).length ∧ (byRank s z).length = z.nm ∧ s.ctl.hnext = none) := by
  refine ⟨⟨by decide, rfl, ?_, by decide⟩, ⟨by decide, ?_, by decide, by decide, rfl⟩⟩ <;> decide
/-- Read port 1 at the last word of core 0's vault, and write port 2 with one word held for the last below the region table. -/
def streaming : State :=
  mk { ports := [(1, { bound := true, lsz := 2, base := 0x7FFFFC, str := [4, 0, 0, 0], ext := [1, 1, 1, 1] }),
                 (2, { bound := true, write := true, lsz := 2, ahead := [(0x7FFEFC, 5, 0)] })] }
theorem witness_EngineAndMemorySteps :
    (let o : EngOp := { num := 1, sub := 15 }
     ((mk { eng0 := [o] }).core 0).engOps 0 = o :: [] ∧ ((mk { eng3 := [o] }).core 0).engOps 3 = o :: []) ∧
    (let m : InMesh := { sender := 0, eng := 0, num := 1, target := 1, bytes := toBytes 8 7, pos := 0x16 }
     let s : State := { mk {} with mesh := [m] }
     s.mesh = [m] ∧ m.sender ≠ m.target ∧ s.primary m.target ≠ m.sender ∧ s.mayDeliver m = true ∧ (s.core m.target).recvq.length < 16) ∧
    (let g : InSig := { sender := 0, target := 1, k := 7, val := 9, due := none }
     let s : State := { mk {} with sigs := [g] }
     s.sigs = [g] ∧ g.due = none ∧ s.maySignal g.sender g.pos none = true ∧ g.k ≠ 8 ∧ ({ g with k := 8 } : InSig).k = 8) ∧
    (let s := streaming
     let x := (s.core 0).port 1
     let a := x.addr (x.pos + x.ahead.length)
     x.bound = true ∧ x.write = false ∧ x.ahead.length < 512 ∧ x.lsz < 3 ∧ x.part.length < 4 ∧ 0 ≤ a ∧ a + 4 ≤ 0x800000 ∧ a % 4 = 0 ∧
     s.vaultGone (vaultAddr 0 a.toNat) = false) ∧ Undamaged streaming ∧ NonePassed streaming ∧ (streaming.core 0).late = [] ∧
    (∀ l ∈ linesIn 0x7FFFFC 4, streaming.unfilled 0 l = false) ∧
    (let x := (streaming.core 0).port 2
     x.bound = true ∧ x.write = true ∧ x.lsz < 3 ∧ x.ahead = (0x7FFEFC, 5, 0) :: [] ∧ 0x7FFEFC % 4 = 0 ∧ 0x7FFEFC + 4 ≤ regionTable ∧
     x.part.length < 4 ∧ streaming.vaultGone (vaultAddr 0 0x7FFEFC) = false) ∧
    (∀ l ∈ linesIn 0x7FFEFC 4, streaming.unfilled 0 l = false) ∧
    (State.reset.torn = [] ∧ State.reset.err.lost = 0 ∧ State.reset.inHbm (0x1038 + (toBytes 8 7).length - 1) = true ∧
     0x1038 / 64 = (0x1038 + (toBytes 8 7).length - 1) / 64) ∧
    (let e : JEntry := { stripe := 3, sector := 1, delta := toBytes 64 7, meta4 := 0 }
     let s : State := { State.reset with journal := [(5, [e])] }
     SMap.get s.journal [] 5 = e :: [] ∧ e.delta.length = 64) ∧
    (State.reset.stackLost 11 = false ∧ State.reset.err.act = false ∧ ∀ k, (State.reset.core k).released = []) := by
  refine ⟨by decide, by decide, by decide, by decide, ⟨rfl, rfl⟩, by unfold NonePassed; decide, rfl, by decide +kernel, by decide,
    by decide +kernel, by decide, by decide, by decide, by decide, fun k => rfl⟩
/-- Port 71 of link 5 in training, link 5 formed, a peer, a key that admits one GiB for reading and writing. -/
def linked : State :=
  { State.reset with
    fab := { ports := [(71, { link := 5, state := 2, member := true })], links := [(5, { val := true, rx := 0xFFF })],
             peers := [(7, { val := true, link := 5 })], keys := [(0, { val := true, rwa := 7, key := 0xABC, len := 1, base := 0 })] },
    ctl := { sem := [(0, 1), (3, 1)] }, snap := { armed := true, en := 0x1F } }
theorem witness_FabricAndRegisterSteps :
    linked.portAbsent 71 = false ∧ (linked.fab.port 71).state ≠ (1 : BitVec 2) ∧ (1 : BitVec 2) ≠ 3 ∧ linked.snap.evsel = 0 ∧ (linked.fab.link 5).val = true ∧
    (linked.fab.port 71).member = true ∧ linked.fab.admits 0xABC 1 0 64 = true ∧ linked.fab.admits 0xABC 1 (2 ^ 30 - 1) 2 = false ∧
    linked.fab.admits 0xABD 0 0 1 = false ∧ linked.torn = [] ∧ linked.err.lost = 0 ∧ linked.inHbm (0 + 8 - 1) = true ∧
    (linked.rstBusy = false ∧ (1 : BitVec 2) ≠ 0) ∧ linked.ctl.mayWrite 1 = true ∧ linked.ctl.owner 3 = 1 ∧ linked.xmask.getLsbD 1 = true ∧ NothingOut linked ∧
    linked.noParty 1 = false ∧
    (let mine := (List.range 72).filter fun j => !linked.portAbsent j && (linked.fab.port j).link.toNat == 5
     mine ≠ [] ∧ (∀ j ∈ mine, 2 ≤ (linked.fab.port j).state.toNat) ∧ mine.length ≤ 8 ∧ ∀ j ∈ mine, 36 ≤ j) ∧
    linked.ctl.tigo = false ∧ (0x80010500 + 56 : Word).getLsbD 31 = true ∧ (800 ≤ (800 : BitVec 12).toNat ∧ (2200 : BitVec 12).toNat ≤ 2200) ∧
    linked.ptp.pend = false ∧ linked.ptp.sat.toNat ≤ linked.gtc.toNat ∧ State.reset.gtc.toNat < ({ sat := 5 } : Ptp).sat.toNat ∧
    linked.offline 7 = false ∧ (∀ r ∈ linked.units, ∀ m ∈ r.members, m / 36 ≠ 7) ∧ linked.err.viral = false ∧ linked.ctl.jbusy = false ∧
    linked.snap.en.getLsbD 4 = true ∧ linked.snap.armed = true := by
  refine ⟨by decide, by decide, by decide, by decide, by decide, by decide, by decide, by decide, by decide, rfl, by decide, by decide, by decide,
    by decide, by decide, by decide, ⟨rfl, fun _ => ⟨rfl, rfl, rfl, rfl⟩⟩, by decide, by decide +kernel, by decide, by decide, by decide, by decide, by decide, by decide, by decide,
    ?_, by decide, by decide, by decide, by decide⟩
  intro r hr; exact absurd hr (List.not_mem_nil)
theorem witness_DeviceSteps :
    (let s := mk { armed := true, evgtc := 0 }
     (s.core 0).armed = true ∧ (s.core 0).evgtc.toNat ≤ s.gtc.toNat) ∧
    (let s : State := { State.reset with ptp := { pend := true } }
     s.ptp.pend = true ∧ s.ptp.sat.toNat ≤ s.gtc.toNat) ∧
    (let s : State := { State.reset with snap := { armed := true, en := 0x1F, cmp := 0 } }
     s.snap.armed = true ∧ s.snap.en.getLsbD 2 = true ∧ s.snap.en.getLsbD 3 = true ∧ s.snap.hit = false ∧ s.snap.cmp.toNat ≤ s.gtc.toNat) ∧
    ({ trig := true } : Snap).trig = true ∧
    (let s : State := { State.reset with pow := { emerg := true } }
     s.pow.emerg = true ∧ ∀ k, k < 8 → 900 ≤ (s.heat k).cur.toNat) ∧
    (let t : State := { State.reset with pow := { telen := true } }
     t.pow.telen = true ∧ t.ctl.hnext = none ∧ State.reset.pow.telen = false) ∧
    (let now := 5000000
     let dwell := fun (l : Option Nat) => ∃ k, l = some k ∧ now - k < 2000000
     let at_ := fun (h : Heat) => ({ State.reset with gtc := 5000000, pow := { heat := [(7, h)] } } : State)
     let h3 : Heat := { thg := 3, lastf := some 4000000 }
     (at_ {}).gtc.toNat = now ∧ (at_ h3).heat 7 = h3 ∧ dwell (some 4000000) ∧ ¬ dwell (some 3000000) ∧ ¬ dwell none ∧
     (879 : BitVec 16).toInt < 880 ∧ ({} : Heat).thi.toInt ≤ (879 : BitVec 16).toInt ∧ ({} : Heat).thg.toNat < 3 ∧ ({} : Heat).thg = 0 ∧
     ¬ ({} : Heat).thi.toInt ≤ (720 : BitVec 16).toInt ∧ (720 : BitVec 16).toInt ≤ ({} : Heat).tlo.toInt ∧
     ¬ ({} : Heat).thi.toInt ≤ (721 : BitVec 16).toInt ∧ ¬ (721 : BitVec 16).toInt ≤ ({} : Heat).tlo.toInt ∧
     ({ h3 with cur := 1900 } : Heat).cur.toNat < ({ h3 with cur := 1900 } : Heat).setf.toNat ∧ ¬ h3.cur.toNat < h3.setf.toNat ∧ h3.thg ≠ 0) ∧
    (let s : State := { State.reset with ctl := { tigo := true } }
     s.ctl.tigo = true ∧ s.tiQuiet = true) ∧
    (State.reset.offline 7 = false ∧ (∀ r ∈ State.reset.units, ∀ m ∈ r.members, m / 36 ≠ 7) ∧ State.reset.vwrites = [] ∧
     State.reset.err.dabr.getLsbD 7 = false ∧ 880 ≤ (880 : BitVec 16).toInt ∧ (919 : BitVec 16).toInt < 920 ∧ 920 ≤ (920 : BitVec 16).toInt) ∧
    (State.reset.noParty 3 = false ∧ State.reset.rstBusy = false ∧ State.reset.ctl.mayWrite 3 = true) := by
  refine ⟨by decide, by decide, by decide, by decide, ⟨rfl, fun k _ => by simp [State.heat, SMap.get]⟩, by decide,
    ⟨rfl, rfl, ⟨_, rfl, by decide⟩, ?_, ?_, by decide, by decide, by decide, by decide, by decide, by decide, by decide, by decide, by decide,
      by decide, by decide⟩, by decide, ⟨by decide, ?_, rfl, by decide, by decide, by decide, by decide⟩, by decide⟩
  · rintro ⟨k, hk, hl⟩; obtain rfl := Option.some.inj hk; revert hl; decide
  · rintro ⟨k, hk, _⟩; cases hk
  intro r hr; exact absurd hr (List.not_mem_nil)

end Sys2Proof.Tests
end

section
/-! SUPPORT. The S slot's division, transfers and loop levels (05 R120, R122, R125 to R129): what division gives, what
a transfer notes, what the last repetition of a bundle makes of it, and which levels a branch leaves. -/

namespace Sys2Proof.Machine

open Sys2Proof Safety

/-! ### Division (05 R120) -/

theorem div_gives (s : State) (d a b : BitVec 5) :
    Gives (.div d a b) s (.s d.toNat) (.word (divS (s.me.gs a) (s.me.gs b))) 12 := gives_of rfl
theorem divu_gives (s : State) (d a b : BitVec 5) :
    Gives (.divu d a b) s (.s d.toNat) (.word (divU (s.me.gs a) (s.me.gs b))) 12 := gives_of rfl
theorem rem_gives (s : State) (d a b : BitVec 5) :
    Gives (.rem d a b) s (.s d.toNat) (.word (remS (s.me.gs a) (s.me.gs b))) 12 := gives_of rfl
theorem remu_gives (s : State) (d a b : BitVec 5) :
    Gives (.remu d a b) s (.s d.toNat) (.word (remU (s.me.gs a) (s.me.gs b))) 12 := gives_of rfl

theorem divS_of_ne_zero {x y : Word} (h : y ≠ 0) : divS x y = BitVec.ofInt 64 (x.toInt.tdiv y.toInt) := if_neg h
theorem remS_of_ne_zero {x y : Word} (h : y ≠ 0) : remS x y = BitVec.ofInt 64 (x.toInt.tmod y.toInt) := if_neg h

theorem divU_of_ne_zero {x y : Word} (h : y ≠ 0) : divU x y = x / y := by
  rw [divU, if_neg h, ← BitVec.toNat_udiv, BitVec.ofNat_toNat, BitVec.setWidth_eq]

theorem remU_of_ne_zero {x y : Word} (h : y ≠ 0) : remU x y = x % y := by
  rw [remU, if_neg h, ← BitVec.toNat_umod, BitVec.ofNat_toNat, BitVec.setWidth_eq]

theorem divS_zero (x : Word) : divS x 0 = 0xFFFFFFFFFFFFFFFF := rfl
theorem divU_zero (x : Word) : divU x 0 = 0xFFFFFFFFFFFFFFFF := rfl
theorem remS_zero (x : Word) : remS x 0 = x := rfl
theorem remU_zero (x : Word) : remU x 0 = x := rfl

/-- −2^63 divided by −1 wraps around to −2^63. -/
theorem divS_overflow : divS 0x8000000000000000 0xFFFFFFFFFFFFFFFF = 0x8000000000000000 := by decide
theorem remS_overflow : remS 0x8000000000000000 0xFFFFFFFFFFFFFFFF = 0 := by decide

/-- Settles O15: each operation gives its division function of the two registers, whose value is read off by the cases
of 05 R120. -/
theorem divisionResults : Obligations.DivisionResults := by
  intro s d a b x y gives
  have hdiv : gives (.div d a b) (divS x y) := div_gives s d a b
  have hdivu : gives (.divu d a b) (divU x y) := divu_gives s d a b
  have hrem : gives (.rem d a b) (remS x y) := rem_gives s d a b
  have hremu : gives (.remu d a b) (remU x y) := remu_gives s d a b
  refine ⟨fun hy => ?nonzero, fun hy => ?zero, fun hx hy => ?overflow⟩
  case nonzero =>
    rw [divS_of_ne_zero hy] at hdiv
    rw [divU_of_ne_zero hy] at hdivu
    rw [remS_of_ne_zero hy] at hrem
    rw [remU_of_ne_zero hy] at hremu
    exact ⟨hdiv, hdivu, hrem, hremu⟩
  case zero =>
    rw [hy, divS_zero] at hdiv
    rw [hy, divU_zero] at hdivu
    rw [hy, remS_zero] at hrem
    rw [hy, remU_zero] at hremu
    exact ⟨hdiv, hdivu, hrem, hremu⟩
  case overflow =>
    rw [hx, hy, divS_overflow] at hdiv
    rw [hx, hy, remS_overflow] at hrem
    exact ⟨hdiv, hrem⟩

/-! ### Transfers that an operation notes (05 R125 to R127) -/

theorem targetOk_of_window {w : Bool} {t : BitVec 12} (h : w = true → t.toNat ≤ 0x1FF) : targetOk w t = true := by
  cases w with
  | false => rfl
  | true => simpa [targetOk] using h rfl

/-- An operation whose target lies in its window has its effect. -/
theorem guarded_chkTarget {w : Bool} {t : BitVec 12} (h : targetOk w t = true) (s u : State) :
    guarded s (chkTarget w t s) u = .next u := by
  rw [chkTarget, State.inLimit, h, orUse_true, guarded_none]

theorem exec_br {w : Bool} {t : BitVec 12} (h : targetOk w t = true) (s : State) :
    exec (.br w t) s = .next (s.go (target w t) 1) := guarded_chkTarget h s _

theorem exec_brp {w : Bool} {t : BitVec 12} (h : targetOk w t = true) (s : State) (p : BitVec 3) :
    exec (.brp p w t) s = .next (if s.me.gp p then s.go (target w t) 1 else s) := guarded_chkTarget h s _

theorem exec_brpN {w : Bool} {t : BitVec 12} (h : targetOk w t = true) (s : State) (p : BitVec 3) :
    exec (.brpN p w t) s = .next (if s.me.gp p then s else s.go (target w t) 1) := guarded_chkTarget h s _

theorem exec_call {w : Bool} {t : BitVec 12} (h : targetOk w t = true) (s : State) (r : BitVec 5) :
    exec (.call r w t) s = .next ((s.landS r s.me.succ 1).go (target w t) 0) := guarded_chkTarget h s _

theorem exec_ret (s : State) (r : BitVec 5) : exec (.ret r) s = .next (s.go (s.me.gs r) 0) := rfl

@[simp] theorem Core.take_taken (c : Core) (w : Word) (k : Nat) : (c.take w k).taken = some { target := w, kind := k } := rfl

@[simp] theorem State.go_me (s : State) (w : Word) (k : Nat) : (s.go w k).me = s.me.take w k := State.me_upd s _

@[simp] theorem State.landS_me (s : State) (d : BitVec 5) (w : Word) (lat : Nat) :
    (s.landS d w lat).me = s.me.land s.cur.slot (.s d.toNat) (.word w) lat := State.me_upd s _

/-- Noting a transfer changes nothing else. -/
theorem go_notes (s : State) (w : Word) (k : Nat) :
    (s.go w k).me.taken = some { target := w, kind := k } ∧ OnlyMe s (s.go w k) ∧
      { (s.go w k).me with taken := s.me.taken } = s.me := by
  refine ⟨?_, onlyMe_upd s _, ?_⟩
  · rw [State.go_me, Core.take_taken]
  · rw [State.go_me, Core.take]

/-- An operation that notes a transfer beside what touches no level leaves the levels as they are until its bundle's
end. -/
theorem completes_go {i : Instr} {s u : State} {w : Word} {k : Nat} (h : exec i s = .next (u.go w k))
    (hloops : u.me.loops = s.me.loops) (hpush : u.me.loopPush = s.me.loopPush) :
    Completes i s fun t => t.me.loops = s.me.loops ∧ t.me.loopPush = s.me.loopPush ∧
      ∃ x, t.me.taken = some x ∧ x.kind = k := by
  refine ⟨u.go w k, h, ?_⟩
  simp only [State.go_me]
  exact ⟨hloops, hpush, { target := w, kind := k }, rfl, rfl⟩

/-! ### The end of a last repetition (04 R89; 05 R125, R131) -/

theorem gateDamages_of_gate_nil {s : State} {m : Nat} (h : (s.core m).gate = []) : s.gateDamages m = ([], []) := by
  simp [State.gateDamages, h]

theorem checkGate_of_gate_nil {s : State} {m : Nat} (h : (s.core m).gate = []) : s.checkGate m = (s, none) := by
  simp [State.checkGate, h]

theorem gateFaults_of_gates_nil {s : State} {ms : List Nat} (h : ∀ m ∈ ms, (s.core m).gate = []) :
    s.gateFaults ms = (s, []) := by
  unfold State.gateFaults
  induction ms with
  | nil => rfl
  | cons m ms ih =>
    obtain ⟨hm, hms⟩ := List.forall_mem_cons.1 h
    rw [List.foldl_cons, checkGate_of_gate_nil hm]
    exact ih hms

/-- Members without gated stores meet nothing at their release. -/
theorem meetRelease_of_gates_nil {s : State} {ms : List Nat} (p : Nat) (h : ∀ m ∈ ms, (s.core m).gate = []) :
    s.meetRelease p ms ([], []) = (s, none) := by
  have hd : ∀ m ∈ ms, s.gateDamages m = ([], []) := fun m hm => gateDamages_of_gate_nil (h m hm)
  have hbad : (ms.map s.gateDamages).flatMap (·.1) = [] := by
    rw [List.flatMap_map, List.flatMap_eq_nil_iff]
    intro m hm; rw [hd m hm]
  simp only [State.meetRelease, hbad, gateFaults_of_gates_nil h]
  rfl

theorem gateSide_of_nil {c : Core} (hg : c.gate = []) (ht : c.tchecks = []) : c.gateSide = ([], []) := by
  simp [Core.gateSide, hg, ht]

theorem agreed_of_retry_none {s : State} {p : Nat} (w : Word) (h : ∀ u, s.unitOf p = some u → u.retry = none) :
    s.agreed p w = s := by
  unfold State.agreed
  cases hu : s.unitOf p with
  | none => rfl
  | some u => simp [h u hu]

/-- Of members with nothing gated and nothing noted for a comparison, no pair differs. -/
theorem pairs_agree_of_sides_nil {s : State} {l : List Nat} (pairs : List (Nat × Nat))
    (h : ∀ m ∈ l, (s.core m).gate = [] ∧ (s.core m).tchecks = []) :
    (pairs.any fun x => l.contains x.1 && l.contains x.2 && (s.core x.1).gateSide != (s.core x.2).gateSide) = false := by
  have hside : ∀ m ∈ l, (s.core m).gateSide = ([], []) := fun m hm => gateSide_of_nil (h m hm).1 (h m hm).2
  rw [List.any_eq_false]
  rintro ⟨m, n⟩ -
  by_cases hmn : m ∈ l ∧ n ∈ l
  · simp [hside m hmn.1, hside n hmn.2]
  · simp only [List.contains_iff_mem, Bool.and_eq_true]
    exact fun ⟨hmem, _⟩ => hmn hmem

/-- Where bundles halt with nothing to release, the members that halt meet nothing. -/
theorem haltCheck_of_haltsQuietly {s : State} (h : HaltsQuietly s) {k : Nat} (hk : k ∈ s.lock s.cur.core)
    (hh : (s.core k).halting = true) : s.haltCheck s.cur.core = (s, none) := by
  obtain ⟨-, hq⟩ := h
  obtain ⟨-, -, hretry⟩ := hq k hk hh
  have hl : ∀ m ∈ (s.lock s.cur.core).filter fun m => (s.core m).halting,
      (s.core m).gate = [] ∧ (s.core m).tchecks = [] := by
    intro m hm
    obtain ⟨hmem, hmh⟩ := List.mem_filter.1 hm
    obtain ⟨hg, ht, -⟩ := hq m hmem hmh
    exact ⟨hg, ht⟩
  have hrecs : (((s.lock s.cur.core).filter fun m => (s.core m).halting).flatMap fun m => (s.gateDamages m).2) = [] := by
    rw [List.flatMap_eq_nil_iff]
    intro m hm; rw [gateDamages_of_gate_nil (hl m hm).1]
  simp only [State.haltCheck, pairs_agree_of_sides_nil _ hl, meetRelease_of_gates_nil _ fun m hm => (hl m hm).1,
    Bool.false_eq_true, if_false, agreed_of_retry_none _ hretry, hrecs]
  rfl

theorem countUnit_cores_cur (s : State) (p : Nat) : (s.countUnit p).cores = s.cores ∧ (s.countUnit p).cur = s.cur := by
  unfold State.countUnit
  split
  · exact ⟨rfl, rfl⟩
  · split
    · exact ⟨State.setUnit_cores s _, State.setUnit_cur s _⟩
    · exact ⟨rfl, rfl⟩

/-- Changing the acting sequencer in a state that has the same sequencers and the same one acting. -/
theorem me_updCore_of_same {s u : State} (h : u.cores = s.cores ∧ u.cur = s.cur) (f : Core → Core) :
    (u.updCore s.cur.core f).me = f s.me := by
  obtain ⟨hcores, hcur⟩ := h
  rw [State.me, State.updCore_cur, hcur, State.core_updCore_self, State.core, hcores, State.me, State.core]

/-- What the last repetition leaves of a core that does not halt with it. -/
def Core.ended (c : Core) : Core :=
  { c.complete.transfer with vc := c.complete.transfer.vc + 1, hold := 0, holdAt := false, again := false,
                             taken := none, loopPush := none, inIssue := {} }

/-- The last repetition of a bundle that neither halts nor waits, where the members that halt have nothing to release. -/
theorem endRepetition_me_last {s : State} (h : HaltsQuietly s) (hagain : s.me.again = false)
    (hlast : s.me.inIssue.rpt ≤ s.me.inIssue.rep) (hgo : s.me.halting = false) :
    (s.endRepetition s.cur.core).me = s.me.ended := by
  have hcheck : ∀ b : Bool, (if (b && (s.lock s.cur.core).any fun m => (s.core m).halting) = true
      then s.haltCheck s.cur.core else (s, none)) = (s, none) := by
    intro b
    split
    case isTrue hb =>
      obtain ⟨-, hany⟩ := Bool.and_eq_true_iff.1 hb
      obtain ⟨k, hk, hh⟩ := List.any_eq_true.1 hany
      exact haltCheck_of_haltsQuietly h hk hh
    case isFalse => rfl
  unfold State.endRepetition
  simp only [hcheck, hagain, hgo, Nat.not_lt.2 hlast, Bool.false_eq_true, if_false]
  rw [me_updCore_of_same (s := s)]
  · rfl
  · split <;> exact countUnit_cores_cur s _

theorem halting_eq_false {c : Core} {x : Taken} (h : c.taken = some x) (hk : x.kind ≠ 4) : c.halting = false := by
  simp [Core.halting, h, hk]

/-- A noted transfer that does not halt is taken with the last repetition. -/
theorem bundleRepetition_completes_last {s : State} {x : Taken} {P : State → Prop} (h : HaltsQuietly s)
    (hagain : s.me.again = false) (hlast : s.me.inIssue.rpt ≤ s.me.inIssue.rep) (htaken : s.me.taken = some x)
    (hk : x.kind ≠ 4) (hP : ∀ t : State, t.me = s.me.ended → P t) : Completes .bundleRepetition s P :=
  ⟨_, rfl, hP _ (endRepetition_me_last h hagain hlast (halting_eq_false htaken hk))⟩

@[simp] theorem Core.complete_taken (c : Core) : c.complete.taken = c.taken := by unfold Core.complete; split <;> rfl
@[simp] theorem Core.complete_loops (c : Core) : c.complete.loops = c.loops := by unfold Core.complete; split <;> rfl
@[simp] theorem Core.complete_inIssue (c : Core) : c.complete.inIssue = c.inIssue := by unfold Core.complete; split <;> rfl

/-- A transfer of call, ret or a trap goes to its target and leaves the levels (05 R129). -/
theorem Core.transfer_of_kind_zero {c : Core} {x : Taken} (h : c.taken = some x) (hk : x.kind = 0) :
    c.transfer = { c with pc := x.target } := by
  simp only [Core.transfer, h, hk]

/-- A branch goes to its target and pops levels (05 R129). -/
theorem Core.transfer_of_kind_one {c : Core} {x : Taken} (h : c.taken = some x) (hk : x.kind = 1) :
    c.transfer = { c with loops := popBranch c.inIssue.word x.target 5 c.loops, pc := x.target } := by
  simp only [Core.transfer, h, hk]

theorem Core.ended_of_kind_zero {c : Core} {x : Taken} (h : c.taken = some x) (hk : x.kind = 0) :
    c.ended.pc = x.target ∧ c.ended.loops = c.loops := by
  simp [Core.ended, Core.transfer_of_kind_zero ((Core.complete_taken c).trans h) hk]

theorem Core.ended_loops_of_kind_one {c : Core} {x : Taken} (h : c.taken = some x) (hk : x.kind = 1) :
    c.ended.loops = popBranch c.inIssue.word x.target 5 c.loops := by
  simp [Core.ended, Core.transfer_of_kind_one ((Core.complete_taken c).trans h) hk]

/-! ### The words of nop and ret (04 R103; 05 R122, R127) -/

theorem decodeS_of_major_nop {w : BitVec 32} (h : fld w 26 6 = 0) :
    decodeS w = need (fld w 0 26 == 0) .sReserved .nop := by
  simp [decodeS, h]

theorem decodeS_of_major_ret {w : BitVec 32} (h : fld w 26 6 = 0x13) :
    decodeS w = need (fld w 0 21 == 0) .sReserved (.ret (fld w 21 5)) := by
  simp [decodeS, h]

/-- A form with one field that must be 0 stands for its instruction exactly when that field is 0. -/
theorem need_zero_field {n : Nat} (x : BitVec n) (e : NotInstr) (i : Instr) :
    (x = 0 → need (x == 0) e i = .ok i) ∧ (x ≠ 0 → ∃ e', need (x == 0) e i = .error e') := by
  constructor
  · rintro rfl; simp [need]
  · intro h; exact ⟨e, by simp [need, show ¬x = 0#n from h]⟩

/-- With major 0x00, a word is 0 when its other bits are. -/
theorem low_field_eq_zero_iff {w : BitVec 32} (h : fld w 26 6 = 0) : fld w 0 26 = 0 ↔ w = 0 := by
  constructor
  · intro hl
    have hhigh : w.toNat / 2 ^ 26 % 2 ^ 6 = 0 := by
      rw [← Nat.shiftRight_eq_div_pow, ← BitVec.extractLsb'_toNat]; exact congrArg BitVec.toNat h
    have hlow : w.toNat % 2 ^ 26 = 0 := by
      rw [← Nat.shiftRight_zero (n := w.toNat), ← BitVec.extractLsb'_toNat]; exact congrArg BitVec.toNat hl
    have hlt := w.isLt
    exact BitVec.eq_of_toNat_eq (show w.toNat = 0 by omega)
  · rintro rfl; rfl

theorem decodeS_nop_words {w : BitVec 32} (h : fld w 26 6 = 0) :
    (w = 0 → decodeS w = .ok .nop) ∧ (w ≠ 0 → ∃ e, decodeS w = .error e) := by
  rw [decodeS_of_major_nop h, ne_eq, ← low_field_eq_zero_iff h]
  exact need_zero_field _ _ _

/-- Settles O22: the two encodings by their majors, nop's and ret's meanings, and the transfer that the last repetition
takes. -/
theorem nopAndReturn : Obligations.NopAndReturn := by
  refine ⟨fun w h => decodeS_nop_words h, fun w h => ?_, fun s r => ⟨⟨s, rfl, rfl⟩, ⟨_, exec_ret s r, go_notes s _ 0⟩, ?_⟩⟩
  · rw [decodeS_of_major_ret h]
    exact need_zero_field _ _ _
  · intro hquiet hagain hlast htaken
    refine bundleRepetition_completes_last hquiet hagain hlast htaken (Nat.zero_ne_add_one 3) fun t ht => ?_
    rw [ht]
    exact (Core.ended_of_kind_zero htaken rfl).1

/-! ### Loop levels that a branch leaves (05 R129) -/

/-- The body of level `x` holds word `y` and does not hold word `t`. -/
def Loop.LeftBy (x : Loop) (y t : Word) : Prop :=
  (x.start.toNat ≤ y.toNat ∧ y.toNat < x.stop.toNat) ∧ ¬ (x.start.toNat ≤ t.toNat ∧ t.toNat < x.stop.toNat)

/-- Whether a level is left, as `popBranch` computes it. -/
theorem Loop.leftBy_iff (x : Loop) (y t : Word) : x.LeftBy y t ↔
    ((x.start.toNat ≤ y.toNat && y.toNat < x.stop.toNat) && !(x.start.toNat ≤ t.toNat && t.toNat < x.stop.toNat)) = true := by
  simp [Loop.LeftBy, imp_iff_not_or]

theorem popBranch_nil (y t : Word) (n : Nat) : popBranch y t n [] = [] := by cases n <;> rfl

/-- A branch that leaves the innermost level goes on to the next one. -/
theorem popBranch_concat_of_leftBy {x : Loop} {y t : Word} (h : x.LeftBy y t) (n : Nat) (l : List Loop) :
    popBranch y t (n + 1) (l ++ [x]) = popBranch y t n l := by
  simp only [popBranch, List.getLast?_concat, List.dropLast_concat]
  exact if_pos ((x.leftBy_iff y t).1 h)

/-- A branch that stays in the innermost level pops none. -/
theorem popBranch_concat_of_not_leftBy {x : Loop} {y t : Word} (h : ¬ x.LeftBy y t) (n : Nat) (l : List Loop) :
    popBranch y t n (l ++ [x]) = l ++ [x] := by
  cases n with
  | zero => rfl
  | succ n =>
    simp only [popBranch, List.getLast?_concat]
    exact if_neg ((x.leftBy_iff y t).not.1 h)

/-- With as much fuel as levels, a branch leaves the longest run of innermost levels that hold it and not its target. -/
theorem popBranch_leaves (y t : Word) (l : List Loop) : ∀ n, l.length ≤ n →
    ∃ a b, l = a ++ b ∧ popBranch y t n l = a ∧ (∀ x ∈ b, x.LeftBy y t) ∧
      ∀ x, a.getLast? = some x → ¬ x.LeftBy y t := by
  induction l using List.reverseRecOn with
  | nil => exact fun n _ => ⟨[], [], rfl, popBranch_nil y t n, by simp, by simp⟩
  | append_singleton l x ih =>
    intro n hn
    rw [List.length_append, List.length_singleton] at hn
    by_cases hx : x.LeftBy y t
    · obtain ⟨n, rfl⟩ : ∃ k, n = k + 1 := ⟨n - 1, by omega⟩
      obtain ⟨a, b, rfl, hpop, hb, ha⟩ := ih n (by omega)
      refine ⟨a, b ++ [x], List.append_assoc a b [x], ?_, ?_, ha⟩
      · rw [popBranch_concat_of_leftBy hx, hpop]
      · simpa [or_imp, forall_and, hx] using hb
    · refine ⟨l ++ [x], [], (List.append_nil _).symm, popBranch_concat_of_not_leftBy hx n l, by simp, ?_⟩
      simpa using hx

/-- Settles O26: the transfers note their kind and leave the levels; the last repetition pops what `popBranch` does for
a branch and nothing for call and ret; and `popBranch` leaves the levels of 05 R129. -/
theorem branchLeavesLoops : Obligations.BranchLeavesLoops := by
  refine ⟨fun s p r w t hwin => ?transfers, fun s x hquiet hagain hlast htaken => ⟨fun hk => ?branch, fun hk => ?other⟩,
    fun y t l hl => ?levels⟩
  case transfers =>
    have hok := targetOk_of_window hwin
    refine ⟨completes_go (exec_br hok s) rfl rfl, fun hp => completes_go (u := s) (w := target w t) ?_ rfl rfl,
      fun hp => completes_go (u := s) (w := target w t) ?_ rfl rfl, completes_go (exec_call hok s r) (by simp) (by simp),
      completes_go (exec_ret s r) rfl rfl⟩
    · rw [exec_brp hok, if_pos hp]
    · rw [exec_brpN hok, hp, if_neg Bool.false_ne_true]
  case branch =>
    refine bundleRepetition_completes_last hquiet hagain hlast htaken (by omega) fun u hu => ?_
    rw [hu]
    exact Core.ended_loops_of_kind_one htaken hk
  case other =>
    refine bundleRepetition_completes_last hquiet hagain hlast htaken (by omega) fun u hu => ?_
    rw [hu]
    exact (Core.ended_of_kind_zero htaken hk).2
  case levels =>
    obtain ⟨a, b, rfl, hpop, hb, ha⟩ := popBranch_leaves y t l 5 (by omega)
    refine ⟨a.length, ?_, ?_, ?_⟩
    · rw [hpop, List.take_left]
    · rwa [List.drop_left]
    · rwa [List.take_left]

end Sys2Proof.Machine
end

section
/-! SUPPORT. Encodings (04 R94, R103 to R109): each decoder reads an instruction from the instruction's own word. -/

namespace Sys2Proof.Machine

-- one proof after another: the memory of the whole text stands under one limit
set_option Elab.async false

open Sys2Proof Safety

/-- An instruction of a part of the core, well formed, whose encoding is this word. -/
structure IsWordOf (w : BitVec 32) (place : Nat) (i : Instr) : Prop where
  placeOf_eq : placeOf i = place
  wf : i.wf = true
  encode_eq : encode i = some w

/-! ### Fields of words -/

/-- A field is two strings put together when its parts are these. -/
theorem fld_eq_append_iff (n : Nat) {w : BitVec 32} {lo k : Nat} {x : BitVec k} {y : BitVec n} :
    fld w lo (k + n) = x ++ y ↔ fld w (lo + n) k = x ∧ fld w lo n = y := by
  simp only [BitVec.eq_of_getLsbD_eq_iff, BitVec.getLsbD_append, BitVec.getLsbD_extractLsb']
  constructor
  · intro h
    refine ⟨fun j hj => ?_, fun j hj => ?_⟩
    · simpa [hj, Nat.add_comm n j, Nat.add_assoc, show ¬ j + n < n by omega,
        show j + n < k + n by omega] using h (j + n) (by omega)
    · simpa [hj, show j < k + n by omega] using h j (by omega)
  · rintro ⟨hx, hy⟩ j hj
    by_cases h : j < n
    · simpa [h, hj] using hy j h
    · simpa [h, hj, show lo + n + (j - n) = lo + j by omega, show j - n < k by omega] using hx (j - n) (by omega)

/-- A field has a value when its parts have the parts of the value. -/
theorem fld_eq_iff (n k : Nat) {w : BitVec 32} {lo : Nat} {c : BitVec (k + n)} :
    fld w lo (k + n) = c ↔ fld w (lo + n) k = c.extractLsb' n k ∧ fld w lo n = c.extractLsb' 0 n := by
  rw [← fld_eq_append_iff n, BitVec.extractLsb'_append_extractLsb'_eq_extractLsb' (Nat.zero_add n).symm,
    BitVec.extractLsb'_eq_self]

theorem flag_eq_false_iff (w : BitVec 32) (k : Nat) : flag w k = false ↔ fld w k 1 = 0#1 := by
  simp [BitVec.eq_of_getLsbD_eq_iff]

theorem flag_eq_true_iff (w : BitVec 32) (k : Nat) : flag w k = true ↔ fld w k 1 = 1#1 := by
  simp [BitVec.eq_of_getLsbD_eq_iff]

theorem bit_ne_one_iff (w : BitVec 32) (k : Nat) : ¬ fld w k 1 = 1#1 ↔ fld w k 1 = 0#1 := by
  rw [← flag_eq_true_iff, ← flag_eq_false_iff, Bool.not_eq_true]

theorem ofBool_flag (w : BitVec 32) (k : Nat) : BitVec.ofBool (flag w k) = fld w k 1 := by
  refine BitVec.eq_of_getLsbD_eq fun j hj => ?_
  obtain rfl : j = 0 := by omega
  simp

theorem fld_toNat_eq_iff {w : BitVec 32} {lo n k : Nat} : (fld w lo n).toNat = k ↔ k < 2 ^ n ∧ fld w lo n = BitVec.ofNat n k := by
  constructor
  · rintro rfl
    exact ⟨BitVec.isLt _, by rw [BitVec.ofNat_toNat, BitVec.setWidth_eq]⟩
  · rintro ⟨hk, h⟩
    rw [h, BitVec.toNat_ofNat, Nat.mod_eq_of_lt hk]

theorem fld_eq_ofBool_iff {w : BitVec 32} {k : Nat} {x : Bool} : fld w k 1 = BitVec.ofBool x ↔ flag w k = x := by
  cases x
  · exact (flag_eq_false_iff w k).symm
  · exact (flag_eq_true_iff w k).symm

theorem fld_zero_two_eq_zero_iff {w : BitVec 32} : fld w 0 2 = 0#2 ↔ flag w 1 = false ∧ flag w 0 = false := by
  simp only [fld_eq_iff 1 1 (lo := 0), flag_eq_false_iff]; rfl

theorem fld_eq_a5_iff {w : BitVec 32} {lo : Nat} {a : BitVec 4} :
    fld w lo 5 = a5 a ↔ flag w (lo + 4) = false ∧ fld w lo 4 = a := by
  simp only [a5, fld_eq_append_iff 4, flag_eq_false_iff, BitVec.ofNat_eq_ofNat]

theorem fld_eq_n5_iff {w : BitVec 32} {lo : Nat} {n : BitVec 4} :
    fld w lo 5 = n5 n ↔ flag w (lo + 4) = false ∧ fld w lo 4 = n := fld_eq_a5_iff

theorem fld_eq_p5_iff {w : BitVec 32} {lo : Nat} {p : BitVec 3} :
    fld w lo 5 = p5 p ↔ fld w (lo + 3) 2 = 0 ∧ fld w lo 3 = p := by
  simp only [p5, fld_eq_append_iff 3]

/-! Each format's fields (04 R94, R103, R106, R107, R109). -/

theorem word_eq_encSR_iff {w : BitVec 32} {m : BitVec 6} {d a b : BitVec 5} {f : BitVec 11} :
    fld w 0 32 = encSR m d a b f ↔ fld w 26 6 = m ∧ fld w 21 5 = d ∧ fld w 16 5 = a ∧ fld w 11 5 = b ∧ fld w 6 5 = f.extractLsb' 6 5 ∧
      fld w 0 6 = f.extractLsb' 0 6 := by
  simp only [encSR, fld_eq_append_iff 5, fld_eq_append_iff 11, fld_eq_iff 6 5 (lo := 0), and_assoc]

theorem word_eq_encSI_iff {w : BitVec 32} {m : BitVec 6} {d a : BitVec 5} {i : BitVec 16} :
    fld w 0 32 = encSI m d a i ↔ fld w 26 6 = m ∧ fld w 21 5 = d ∧ fld w 16 5 = a ∧ fld w 0 16 = i := by
  simp only [encSI, fld_eq_append_iff 5, fld_eq_append_iff 16, and_assoc]

theorem word_eq_encSB_iff {w : BitVec 32} {m : BitVec 6} {x : BitVec 13} {s : Bool} {t : BitVec 12} :
    fld w 0 32 = encSB m x s t ↔ fld w 26 6 = m ∧ fld w 13 13 = x ∧ flag w 12 = s ∧ fld w 0 12 = t := by
  simp only [encSB, fld_eq_append_iff 1, fld_eq_append_iff 12, fld_eq_append_iff 13, fld_eq_ofBool_iff, and_assoc]

theorem word_eq_encSN_iff {w : BitVec 32} {m : BitVec 6} {x : BitVec 26} :
    fld w 0 32 = encSN m x ↔ fld w 26 6 = m ∧ fld w 0 26 = x := by
  simp only [encSN, fld_eq_append_iff 26]

theorem word_eq_encL_iff {w : BitVec 32} {op : BitVec 7} {d a b c : BitVec 5} {et : BitVec 3} {qd qa : Bool} :
    fld w 0 32 = encL op d a b c et qd qa ↔ fld w 25 7 = op ∧ fld w 20 5 = d ∧ fld w 15 5 = a ∧ fld w 10 5 = b ∧
      fld w 5 5 = c ∧ fld w 2 3 = et ∧ flag w 1 = qa ∧ flag w 0 = qd := by
  simp only [encL, fld_eq_append_iff 1, fld_eq_append_iff 3, fld_eq_append_iff 5, fld_eq_ofBool_iff, and_assoc]

theorem word_eq_encRace_iff {w : BitVec 32} {op : BitVec 4} {d a : BitVec 5} {ty : BitVec 4} {n k : BitVec 7} :
    fld w 0 32 = encRace op d a ty n k ↔ fld w 28 4 = op ∧ fld w 23 5 = d ∧ fld w 18 5 = a ∧ fld w 14 4 = ty ∧
      fld w 7 7 = n ∧ fld w 0 7 = k := by
  simp only [encRace, fld_eq_append_iff 4, fld_eq_append_iff 5, fld_eq_append_iff 7, and_assoc]

theorem word_eq_encC_iff {w : BitVec 32} {op : BitVec 5} {a : BitVec 4} {x : BitVec 23} :
    fld w 0 32 = encC op a x ↔ fld w 27 5 = op ∧ fld w 23 4 = a ∧ fld w 0 23 = x := by
  simp only [encC, fld_eq_append_iff 4, fld_eq_append_iff 23, and_assoc]

theorem word_eq_encC3_iff {w : BitVec 32} {op : BitVec 5} {a : BitVec 4} {q : BitVec 3} {r : BitVec 5} {x : BitVec 15} :
    fld w 0 32 = encC3 op a q r x ↔ fld w 27 5 = op ∧ fld w 23 4 = a ∧ fld w 20 3 = q ∧ fld w 15 5 = r ∧ fld w 0 15 = x := by
  simp only [encC3, word_eq_encC_iff, fld_eq_append_iff 5, fld_eq_append_iff 15, and_assoc]

theorem word_eq_encCpy_iff {w : BitVec 32} {sub : BitVec 3} {ad as : BitVec 4} {sl sn : BitVec 5} {e : Bool} :
    fld w 0 32 = encCpy sub ad as sl sn e ↔ fld w 27 5 = 0x06 ∧ fld w 23 4 = ad ∧ fld w 20 3 = sub ∧ fld w 16 4 = as ∧
      fld w 11 5 = sl ∧ fld w 6 5 = sn ∧ flag w 5 = e ∧ fld w 0 5 = 0 := by
  simp only [encCpy, word_eq_encC_iff, fld_eq_append_iff 1, fld_eq_append_iff 4, fld_eq_append_iff 5, fld_eq_ofBool_iff,
    and_assoc]

theorem word_eq_encAtom_iff {w : BitVec 32} {sub : BitVec 3} {d : BitVec 5} {a : BitVec 4} {ss sc : BitVec 5} {wd u : Bool}
    {sem : BitVec 2} :
    fld w 0 32 = encAtom sub d a ss sc wd u sem ↔ fld w 27 5 = 0x0A ∧ fld w 23 4 = a ∧ fld w 20 3 = sub ∧ fld w 15 5 = d ∧
      fld w 10 5 = ss ∧ fld w 5 5 = sc ∧ flag w 4 = wd ∧ flag w 3 = u ∧ fld w 1 2 = sem ∧ flag w 0 = false := by
  simp only [encAtom, word_eq_encC_iff, fld_eq_append_iff 1, fld_eq_append_iff 2, fld_eq_append_iff 5, fld_eq_ofBool_iff,
    flag_eq_false_iff, BitVec.ofNat_eq_ofNat, and_assoc]

theorem word_eq_encT_iff {w : BitVec 32} {op : BitVec 6} {a b : BitVec 4} {x : BitVec 18} :
    fld w 0 32 = encT op a b x ↔ fld w 26 6 = op ∧ fld w 22 4 = a ∧ fld w 18 4 = b ∧ fld w 0 18 = x := by
  simp only [encT, fld_eq_append_iff 4, fld_eq_append_iff 18, and_assoc]

theorem word_eq_encTRace_iff {w : BitVec 32} {op : BitVec 6} {a b ty : BitVec 4} {n k : BitVec 7} :
    fld w 0 32 = encTRace op a b ty n k ↔ fld w 26 6 = op ∧ fld w 22 4 = a ∧ fld w 18 4 = b ∧ fld w 14 4 = ty ∧
      fld w 7 7 = n ∧ fld w 0 7 = k := by
  simp only [encTRace, word_eq_encT_iff, fld_eq_append_iff 7, and_assoc]

/-- The decoder of each part of the core. -/
def decoderOf : Nat → BitVec 32 → Decoded
  | 2 => decodeS
  | 3 => decodeLgop
  | 5 => decodeM
  | 6 => decodeC
  | _ => decodeTsc

/-- The decoder of its part of the core reads the instruction, where it is well formed, from its own word. -/
def ReadBack (i : Instr) : Prop := i.wf = true → ∀ w, encode i = some w → decoderOf (placeOf i) w = .ok i

/-- An instruction is read back when its decoder reads it from every word with its encoding's fields. -/
theorem readBack_of_fields {dec : BitVec 32 → Decoded} {i : Instr} {v : BitVec 32} (hd : decoderOf (placeOf i) = dec)
    (he : encode i = some v) (h : i.wf = true → ∀ w, fld w 0 32 = v → dec w = .ok i) : ReadBack i := by
  subst hd
  exact fun hwf w hw => h hwf w (BitVec.extractLsb'_eq_self.trans (Option.some.inj (hw.symm.trans he)))

/-! ### Decoders at a number

A decoder reads a number from its opcode field and goes to that number's form. Each definition below names that form; its
property says that it is what the decoder gives. -/

noncomputable def decodeSForm (w : BitVec 32) (n : Nat) : { x : Decoded // (fld w 26 6).toNat = n → decodeS w = x } :=
  ⟨_, fun h => by rw [decodeS, h]⟩

noncomputable def decodeOpForm (w : BitVec 32) (n : Nat) : { x : Decoded // (fld w 0 6).toNat = n → decodeOp w = x } :=
  ⟨_, fun h => by rw [decodeOp, h]⟩

noncomputable def decodeAdrForm (w : BitVec 32) (n : Nat) : { x : Decoded // (fld w 0 6).toNat = n → decodeAdr w = x } :=
  ⟨_, fun h => by rw [decodeAdr, h]⟩

noncomputable def decodeCmpForm (w : BitVec 32) (n : Nat) : { x : Decoded // (fld w 0 6).toNat = n → decodeCmp w = x } :=
  ⟨_, fun h => by rw [decodeCmp, h]⟩

noncomputable def decodePrdForm (w : BitVec 32) (n : Nat) : { x : Decoded // (fld w 0 6).toNat = n → decodePrd w = x } :=
  ⟨_, fun h => by rw [decodePrd, h]⟩

noncomputable def decodeLgopForm (w : BitVec 32) (n : Nat) : { x : Decoded // (fld w 25 7).toNat = n → decodeLgop w = x } :=
  ⟨_, fun h => by rw [decodeLgop, h]⟩

noncomputable def decodeMForm (w : BitVec 32) (n : Nat) : { x : Decoded // (fld w 28 4).toNat = n → decodeM w = x } :=
  ⟨_, fun h => by rw [decodeM, h]⟩

noncomputable def decodeCForm (w : BitVec 32) (n : Nat) : { x : Decoded // (fld w 27 5).toNat = n → decodeC w = x } :=
  ⟨_, fun h => by rw [decodeC, h]⟩

noncomputable def decodeCopyForm (w : BitVec 32) (n : Nat) : { x : Decoded // (fld w 20 3).toNat = n → decodeCopy w = x } :=
  ⟨_, fun h => by rw [decodeCopy, h]⟩

noncomputable def decodeAtomForm (w : BitVec 32) (n : Nat) : { x : Decoded // (fld w 20 3).toNat = n → decodeAtom w = x } :=
  ⟨_, fun h => by rw [decodeAtom, h]⟩

noncomputable def decodeTscForm (w : BitVec 32) (n : Nat) : { x : Decoded // (fld w 26 6).toNat = n → decodeTsc w = x } :=
  ⟨_, fun h => by rw [decodeTsc, h]⟩

noncomputable def decodeHubForm (m : Nat) (w : BitVec 32) (n : Nat) : { x : Decoded // (fld w 0 6).toNat = n → decodeHub m w = x } :=
  ⟨_, fun h => by delta decodeHub; rw [h]⟩

/-! ### S slot (04 R103, R104) -/

/-- Majors with a sub-table. -/
theorem decodeS_eq_decodeOp {w : BitVec 32} (h : fld w 26 6 = 1) : decodeS w = decodeOp w :=
  (decodeSForm w _).2 (congrArg BitVec.toNat h)

theorem decodeS_eq_decodeAdr {w : BitVec 32} (h : fld w 26 6 = 0x0B) : decodeS w = decodeAdr w :=
  (decodeSForm w _).2 (congrArg BitVec.toNat h)

theorem decodeS_eq_decodeCmp {w : BitVec 32} (h : fld w 26 6 = 0x0D) : decodeS w = decodeCmp w :=
  (decodeSForm w _).2 (congrArg BitVec.toNat h)

theorem decodeS_eq_decodePrd {w : BitVec 32} (h : fld w 26 6 = 0x0E) : decodeS w = decodePrd w :=
  (decodeSForm w _).2 (congrArg BitVec.toNat h)

theorem decodeS_eq_decodeHub {w : BitVec 32} {m : BitVec 6} (hlo : 48 ≤ m.toNat) (hhi : m.toNat < 56) (h : fld w 26 6 = m) :
    decodeS w = decodeHub m.toNat w := by
  refine ((decodeSForm w _).2 (congrArg BitVec.toNat h)).trans ?_
  generalize m.toNat = n at hlo hhi ⊢
  interval_cases n
  all_goals rfl

@[simp] theorem decodeOp_reads_arithmetic :
    (∀ d a b, ReadBack (.add d a b)) ∧ (∀ d a b, ReadBack (.sub d a b)) ∧
    (∀ d a b, ReadBack (.and d a b)) ∧ (∀ d a b, ReadBack (.or d a b)) ∧
    (∀ d a b, ReadBack (.xor d a b)) ∧ (∀ d a b, ReadBack (.sll d a b)) ∧
    (∀ d a b, ReadBack (.srl d a b)) ∧ (∀ d a b, ReadBack (.sra d a b)) ∧
    (∀ d a b, ReadBack (.mul d a b)) ∧ (∀ d a b, ReadBack (.mulh d a b)) ∧
    (∀ d a b, ReadBack (.mulhu d a b)) ∧ (∀ d a b, ReadBack (.div d a b)) ∧
    (∀ d a b, ReadBack (.divu d a b)) ∧ (∀ d a b, ReadBack (.rem d a b)) ∧
    (∀ d a b, ReadBack (.remu d a b)) := by
  and_intros
  all_goals
    intros
    refine readBack_of_fields (dec := decodeS) rfl rfl fun _ w hw => ?_
    simp only [word_eq_encSR_iff] at hw
    refine ((decodeS_eq_decodeOp hw.1).trans ((decodeOpForm w _).2 (congrArg BitVec.toNat hw.2.2.2.2.2))).trans ?_
    show need _ _ _ = _
    simp [need, hw, -BitVec.getLsbD_eq_getElem, -BitVec.extractLsb'_toNat]

@[simp] theorem decodeOp_reads_orders_and_counts :
    (∀ d a b, ReadBack (.min d a b)) ∧ (∀ d a b, ReadBack (.max d a b)) ∧ (∀ d a b, ReadBack (.minu d a b)) ∧
    (∀ d a b, ReadBack (.maxu d a b)) ∧ (∀ d a b, ReadBack (.slt d a b)) ∧
    (∀ d a b, ReadBack (.sltu d a b)) ∧ (∀ d a, ReadBack (.clz d a)) ∧ (∀ d a, ReadBack (.ctz d a)) ∧
    (∀ d a, ReadBack (.popc d a)) := by
  and_intros
  all_goals
    intros
    refine readBack_of_fields (dec := decodeS) rfl rfl fun _ w hw => ?_
    simp only [word_eq_encSR_iff] at hw
    refine ((decodeS_eq_decodeOp hw.1).trans ((decodeOpForm w _).2 (congrArg BitVec.toNat hw.2.2.2.2.2))).trans ?_
    show need _ _ _ = _
    simp [need, hw, -BitVec.getLsbD_eq_getElem, -BitVec.extractLsb'_toNat]

@[simp] theorem decodeOp_reads_extensions :
    (∀ d a, ReadBack (.sextB d a)) ∧ (∀ d a, ReadBack (.sextH d a)) ∧ (∀ d a, ReadBack (.sextW d a)) ∧
    (∀ d a, ReadBack (.zextB d a)) ∧ (∀ d a, ReadBack (.zextH d a)) ∧ (∀ d a, ReadBack (.zextW d a)) := by
  and_intros
  all_goals
    intros
    refine readBack_of_fields (dec := decodeS) rfl rfl fun _ w hw => ?_
    simp only [word_eq_encSR_iff, fld_eq_iff 2 3 (lo := 6), Nat.reduceAdd] at hw
    rw [decodeS_eq_decodeOp hw.1, decodeOp, congrArg BitVec.toNat hw.2.2.2.2.2, congrArg BitVec.toNat hw.2.2.2.2.1.2]
    show need _ _ _ = _
    simp [need, hw, -BitVec.getLsbD_eq_getElem, -BitVec.extractLsb'_toNat]

@[simp] theorem decodeS_reads_immediates :
    (∀ d a imm, ReadBack (.addi d a imm)) ∧ (∀ d a imm, ReadBack (.andi d a imm)) ∧
    (∀ d a imm, ReadBack (.ori d a imm)) ∧ (∀ d a imm, ReadBack (.xori d a imm)) ∧
    (∀ d a imm, ReadBack (.slti d a imm)) ∧ (∀ d a imm, ReadBack (.lih d a imm)) := by
  and_intros
  all_goals
    intros
    refine readBack_of_fields (dec := decodeS) rfl rfl fun _ w hw => ?_
    simp only [word_eq_encSI_iff] at hw
    refine ((decodeSForm w _).2 (congrArg BitVec.toNat hw.1)).trans ?_
    show Except.ok _ = _
    simp [hw, -BitVec.getLsbD_eq_getElem, -BitVec.extractLsb'_toNat]

@[simp] theorem decodeS_reads_shift_immediates :
    (∀ d a sh, ReadBack (.slli d a sh)) ∧ (∀ d a sh, ReadBack (.srli d a sh)) ∧
    (∀ d a sh, ReadBack (.srai d a sh)) := by
  and_intros
  all_goals
    intros
    refine readBack_of_fields (dec := decodeS) rfl rfl fun _ w hw => ?_
    simp only [word_eq_encSI_iff, fld_eq_append_iff 6, Nat.reduceAdd] at hw
    refine ((decodeSForm w _).2 (congrArg BitVec.toNat hw.1)).trans ?_
    show need _ _ _ = _
    simp [need, hw, -BitVec.getLsbD_eq_getElem, -BitVec.extractLsb'_toNat]

@[simp] theorem decodeAdr_reads :
    (∀ d a b, ReadBack (.aadd d a b)) ∧ (∀ d a, ReadBack (.amov d a)) ∧ (∀ d a, ReadBack (.movsa d a)) ∧
    (∀ d a, ReadBack (.movas d a)) := by
  and_intros
  all_goals
    intros
    refine readBack_of_fields (dec := decodeS) rfl rfl fun _ w hw => ?_
    simp only [word_eq_encSR_iff, fld_eq_a5_iff, Nat.reduceAdd] at hw
    refine ((decodeS_eq_decodeAdr hw.1).trans ((decodeAdrForm w _).2 (congrArg BitVec.toNat hw.2.2.2.2.2))).trans ?_
    show need _ _ _ = _
    simp [need, hw, -BitVec.getLsbD_eq_getElem, -BitVec.extractLsb'_toNat]

@[simp] theorem decodeS_reads_aaddi :
    (∀ d a imm, ReadBack (.aaddi d a imm)) := by
  intros
  refine readBack_of_fields (dec := decodeS) rfl rfl fun _ w hw => ?_
  simp only [word_eq_encSI_iff, fld_eq_a5_iff, Nat.reduceAdd] at hw
  refine ((decodeSForm w _).2 (congrArg BitVec.toNat hw.1)).trans ?_
  show need _ _ _ = _
  simp [need, hw, -BitVec.getLsbD_eq_getElem, -BitVec.extractLsb'_toNat]

@[simp] theorem decodeCmp_reads :
    (∀ p a b, ReadBack (.cmpEq p a b)) ∧ (∀ p a b, ReadBack (.cmpNe p a b)) ∧
    (∀ p a b, ReadBack (.cmpLt p a b)) ∧ (∀ p a b, ReadBack (.cmpGe p a b)) ∧
    (∀ p a b, ReadBack (.cmpLtu p a b)) ∧ (∀ p a b, ReadBack (.cmpGeu p a b)) := by
  and_intros
  all_goals
    intros
    refine readBack_of_fields (dec := decodeS) rfl rfl fun _ w hw => ?_
    simp only [word_eq_encSR_iff, fld_eq_p5_iff, Nat.reduceAdd] at hw
    refine ((decodeS_eq_decodeCmp hw.1).trans ((decodeCmpForm w _).2 (congrArg BitVec.toNat hw.2.2.2.2.2))).trans ?_
    show need _ _ _ = _
    simp [need, hw, -BitVec.getLsbD_eq_getElem, -BitVec.extractLsb'_toNat]

@[simp] theorem decodePrd_reads :
    (∀ d a b, ReadBack (.pand d a b)) ∧ (∀ d a b, ReadBack (.por d a b)) := by
  and_intros
  all_goals
    intros
    refine readBack_of_fields (dec := decodeS) rfl rfl fun _ w hw => ?_
    simp only [word_eq_encSR_iff, fld_eq_p5_iff, Nat.reduceAdd] at hw
    refine ((decodeS_eq_decodePrd hw.1).trans ((decodePrdForm w _).2 (congrArg BitVec.toNat hw.2.2.2.2.2))).trans ?_
    show need _ _ _ = _
    simp [need, hw, -BitVec.getLsbD_eq_getElem, -BitVec.extractLsb'_toNat]

@[simp] theorem decodePrd_reads_pnot :
    (∀ d a, ReadBack (.pnot d a)) := by
  intros
  refine readBack_of_fields (dec := decodeS) rfl rfl fun _ w hw => ?_
  simp only [word_eq_encSR_iff, fld_eq_p5_iff, fld_eq_iff 3 2 (lo := 11), Nat.reduceAdd] at hw
  refine ((decodeS_eq_decodePrd hw.1).trans ((decodePrdForm w _).2 (congrArg BitVec.toNat hw.2.2.2.2.2))).trans ?_
  show need _ _ _ = _
  simp [need, hw, -BitVec.getLsbD_eq_getElem, -BitVec.extractLsb'_toNat]

@[simp] theorem decodeS_reads_transfers :
    ReadBack .nop ∧ (∀ w t, ReadBack (.br w t)) ∧ (∀ p w t, ReadBack (.brp p w t)) ∧
    (∀ p w t, ReadBack (.brpN p w t)) ∧ (∀ r w t, ReadBack (.call r w t)) ∧
    (∀ r, ReadBack (.ret r)) ∧ (∀ r w t, ReadBack (.loop r w t)) ∧
    (∀ w t, ReadBack (.bswap w t)) ∧ ReadBack .halt := by
  and_intros
  all_goals
    intros
    refine readBack_of_fields (dec := decodeS) rfl rfl fun _ w hw => ?_
    simp only [word_eq_encSB_iff, word_eq_encSN_iff, fld_eq_append_iff 1, fld_eq_append_iff 8, fld_eq_append_iff 9,
      fld_eq_append_iff 10, fld_eq_append_iff 21, fld_eq_iff 9 1 (lo := 13), BitVec.reduceExtractLsb',
      BitVec.ofNat_eq_ofNat, ← flag_eq_false_iff, ← flag_eq_true_iff, Nat.reduceAdd] at hw
    refine ((decodeSForm w _).2 (congrArg BitVec.toNat hw.1)).trans ?_
    show need _ _ _ = _
    simp [need, hw, -BitVec.getLsbD_eq_getElem, -BitVec.extractLsb'_toNat]

@[simp] theorem decodeS_reads_loads_and_stores :
    (∀ r a imm, ReadBack (.sldB r a imm)) ∧ (∀ r a imm, ReadBack (.sldH r a imm)) ∧
    (∀ r a imm, ReadBack (.sldW r a imm)) ∧ (∀ r a imm, ReadBack (.sldD r a imm)) ∧
    (∀ r a imm, ReadBack (.sstB r a imm)) ∧ (∀ r a imm, ReadBack (.sstH r a imm)) ∧
    (∀ r a imm, ReadBack (.sstW r a imm)) ∧ (∀ r a imm, ReadBack (.sstD r a imm)) ∧
    (∀ r a off wid acq inv, ReadBack (.gld r a off wid acq inv)) ∧
    (∀ r a off wid rel, ReadBack (.gst r a off wid rel)) := by
  and_intros
  all_goals
    intros
    refine readBack_of_fields (dec := decodeS) rfl rfl fun _ w hw => ?_
    simp only [word_eq_encSI_iff, fld_eq_a5_iff, fld_eq_append_iff 1, fld_eq_append_iff 2, fld_eq_ofBool_iff,
      fld_zero_two_eq_zero_iff, BitVec.ofNat_eq_ofNat, ← flag_eq_false_iff, Nat.reduceAdd] at hw
    refine ((decodeSForm w _).2 (congrArg BitVec.toNat hw.1)).trans ?_
    show need _ _ _ = _
    simp [need, hw, -BitVec.getLsbD_eq_getElem, -BitVec.extractLsb'_toNat]

@[simp] theorem decodeS_reads_parameters_and_modes :
    (∀ k a, ReadBack (.msetp k a)) ∧ (∀ d k, ReadBack (.mgetp d k)) ∧
    (∀ a, ReadBack (.setfmt a)) ∧ (∀ a, ReadBack (.setmpc a)) ∧ (∀ d, ReadBack (.getmpc d)) ∧
    (∀ d n, ReadBack (.sysrd d n)) ∧ (∀ n a, ReadBack (.syswr n a)) ∧
    (∀ code, ReadBack (.trap code)) ∧ ReadBack .tret ∧ ReadBack .ifence ∧
    (∀ tag, ReadBack (.snap tag)) ∧ ReadBack .wfe := by
  and_intros
  all_goals
    intros
    refine readBack_of_fields (dec := decodeS) rfl rfl fun _ w hw => ?_
    simp only [word_eq_encSR_iff, word_eq_encSI_iff, word_eq_encSN_iff, fld_eq_p5_iff, fld_eq_append_iff 8,
      fld_eq_append_iff 16, Nat.reduceAdd] at hw
    refine ((decodeSForm w _).2 (congrArg BitVec.toNat hw.1)).trans ?_
    show need _ _ _ = _
    simp [need, fld_eq_iff 16 5 (lo := 0), fld_eq_iff 11 5 (lo := 0), fld_eq_iff 6 5 (lo := 0), hw,
      -BitVec.getLsbD_eq_getElem, -BitVec.extractLsb'_toNat]

@[simp] theorem decodeHub_reads_launches_and_counters :
    (∀ d a, ReadBack (.hlaunch d a)) ∧ (∀ a, ReadBack (.hlaunchSealg a)) ∧ ReadBack .hlaunchSealp ∧
    ReadBack .hlaunchEnd ∧ (∀ d a b, ReadBack (.hwaitc d a b)) ∧ (∀ a, ReadBack (.hcancel a)) ∧
    (∀ a b, ReadBack (.hsetc a b)) ∧ (∀ a b, ReadBack (.hsetcAdd a b)) ∧ (∀ d a, ReadBack (.hreadc d a)) ∧
    (∀ d a, ReadBack (.hreadcSt d a)) := by
  and_intros
  all_goals
    intros
    refine readBack_of_fields (dec := decodeS) rfl rfl fun _ w hw => ?_
    simp only [word_eq_encSR_iff] at hw
    refine ((decodeS_eq_decodeHub (by decide) (by decide) hw.1).trans
      ((decodeHubForm _ w _).2 (congrArg BitVec.toNat hw.2.2.2.2.2))).trans ?_
    show need _ _ _ = _
    simp [need, hw, -BitVec.getLsbD_eq_getElem, -BitVec.extractLsb'_toNat]

@[simp] theorem decodeHub_reads_stops_contexts_and_deals :
    (∀ a, ReadBack (.hstop a)) ∧ (∀ a b, ReadBack (.hstopU a b)) ∧ (∀ d a, ReadBack (.hctx d a)) ∧
    (∀ a, ReadBack (.hctxKill a)) ∧ (∀ a, ReadBack (.hctxHold a)) ∧ (∀ a, ReadBack (.hctxRun a)) ∧
    (∀ d a b, ReadBack (.hdeal d a b)) ∧ (∀ d a, ReadBack (.hdealE d a)) ∧
    (∀ a b, ReadBack (.hdealRing a b)) := by
  and_intros
  all_goals
    intros
    refine readBack_of_fields (dec := decodeS) rfl rfl fun _ w hw => ?_
    simp only [word_eq_encSR_iff] at hw
    refine ((decodeS_eq_decodeHub (by decide) (by decide) hw.1).trans
      ((decodeHubForm _ w _).2 (congrArg BitVec.toNat hw.2.2.2.2.2))).trans ?_
    show need _ _ _ = _
    simp [need, hw, -BitVec.getLsbD_eq_getElem, -BitVec.extractLsb'_toNat]

/-! ### LGOPs (04 R94, R105) -/

@[simp] theorem decodeLgop_reads_integer :
    (∀ d a b et qd qa, ReadBack (.vadd d a b et qd qa)) ∧
    (∀ d a b et qd qa, ReadBack (.vsub d a b et qd qa)) ∧
    (∀ d a b et qd qa, ReadBack (.vmul d a b et qd qa)) ∧
    (∀ d a b et qd qa, ReadBack (.vmulh d a b et qd qa)) ∧
    (∀ d a b et qd qa, ReadBack (.vmin d a b et qd qa)) ∧
    (∀ d a b et qd qa, ReadBack (.vmax d a b et qd qa)) ∧
    (∀ d a b et qd qa, ReadBack (.vshl d a b et qd qa)) ∧
    (∀ d a b et qd qa, ReadBack (.vshr d a b et qd qa)) ∧
    (∀ d a b et qd qa, ReadBack (.vsra d a b et qd qa)) ∧
    (∀ d a et qd qa, ReadBack (.vabs d a et qd qa)) ∧
    (∀ d a et qd qa, ReadBack (.vneg d a et qd qa)) := by
  and_intros
  all_goals
    intros
    refine readBack_of_fields (dec := decodeLgop) rfl rfl fun (hwf : etInt _ = true) w hw => ?_
    simp only [word_eq_encL_iff] at hw
    refine ((decodeLgopForm w _).2 (congrArg BitVec.toNat hw.1)).trans ?_
    show need _ _ _ = _
    simp [need, hw, hwf, -BitVec.getLsbD_eq_getElem, -BitVec.extractLsb'_toNat]

@[simp] theorem decodeLgop_reads_integer_compares :
    (∀ kd a b et qa, ReadBack (.vcmpEq kd a b et qa)) ∧
    (∀ kd a b et qa, ReadBack (.vcmpNe kd a b et qa)) ∧
    (∀ kd a b et qa, ReadBack (.vcmpLt kd a b et qa)) ∧
    (∀ kd a b et qa, ReadBack (.vcmpLe kd a b et qa)) ∧
    (∀ kd a b et qa, ReadBack (.vcmpGt kd a b et qa)) ∧
    (∀ kd a b et qa, ReadBack (.vcmpGe kd a b et qa)) := by
  and_intros
  all_goals
    intros
    refine readBack_of_fields (dec := decodeLgop) rfl rfl fun (hwf : etInt _ = true) w hw => ?_
    simp only [word_eq_encL_iff, fld_eq_p5_iff, Nat.reduceAdd] at hw
    refine ((decodeLgopForm w _).2 (congrArg BitVec.toNat hw.1)).trans ?_
    show need _ _ _ = _
    simp [need, hw, hwf, -BitVec.getLsbD_eq_getElem, -BitVec.extractLsb'_toNat]

@[simp] theorem decodeLgop_reads_float :
    (∀ d a b et qd qa, ReadBack (.vfadd d a b et qd qa)) ∧
    (∀ d a b et qd qa, ReadBack (.vfsub d a b et qd qa)) ∧
    (∀ d a b et qd qa, ReadBack (.vfmul d a b et qd qa)) ∧
    (∀ d a b et qd qa, ReadBack (.vfmin d a b et qd qa)) ∧
    (∀ d a b et qd qa, ReadBack (.vfmax d a b et qd qa)) ∧
    (∀ d a b et qd qa, ReadBack (.vscale d a b et qd qa)) ∧
    (∀ d a et qd qa, ReadBack (.vfabs d a et qd qa)) ∧
    (∀ d a et qd qa, ReadBack (.vfneg d a et qd qa)) ∧
    (∀ d a et qd qa, ReadBack (.vfrcp d a et qd qa)) ∧
    (∀ d a et qd qa, ReadBack (.vfrsq d a et qd qa)) := by
  and_intros
  all_goals
    intros
    refine readBack_of_fields (dec := decodeLgop) rfl rfl fun (hwf : etFp _ = true) w hw => ?_
    simp only [word_eq_encL_iff] at hw
    refine ((decodeLgopForm w _).2 (congrArg BitVec.toNat hw.1)).trans ?_
    show need _ _ _ = _
    simp [need, hw, hwf, -BitVec.getLsbD_eq_getElem, -BitVec.extractLsb'_toNat]

@[simp] theorem decodeLgop_reads_float_compares_and_blocks :
    (∀ kd a b et qa, ReadBack (.vfcmpEq kd a b et qa)) ∧
    (∀ kd a b et qa, ReadBack (.vfcmpNe kd a b et qa)) ∧
    (∀ kd a b et qa, ReadBack (.vfcmpLt kd a b et qa)) ∧
    (∀ kd a b et qa, ReadBack (.vfcmpLe kd a b et qa)) ∧
    (∀ kd a b et qa, ReadBack (.vfcmpGt kd a b et qa)) ∧
    (∀ kd a b et qa, ReadBack (.vfcmpGe kd a b et qa)) ∧ (∀ d a et, ReadBack (.vbfpi d a et)) ∧
    (∀ d a et, ReadBack (.vbfpo d a et)) := by
  and_intros
  all_goals
    intros
    refine readBack_of_fields (dec := decodeLgop) rfl rfl fun (hwf : etFp _ = true) w hw => ?_
    simp only [word_eq_encL_iff, fld_eq_p5_iff, Nat.reduceAdd] at hw
    refine ((decodeLgopForm w _).2 (congrArg BitVec.toNat hw.1)).trans ?_
    show need _ _ _ = _
    simp [need, fld_zero_two_eq_zero_iff, hw, hwf, -BitVec.getLsbD_eq_getElem, -BitVec.extractLsb'_toNat]

@[simp] theorem decodeLgop_reads_fused_and_special :
    (∀ d a b c et qd qa, ReadBack (.vfma d a b c et qd qa)) ∧
    (∀ d a b c et qd qa, ReadBack (.vfms d a b c et qd qa)) ∧
    (∀ d a b c et qd qa, ReadBack (.vfnma d a b c et qd qa)) ∧
    (∀ d a et qd qa, ReadBack (.vfexp2 d a et qd qa)) ∧
    (∀ d a et qd qa, ReadBack (.vflog2 d a et qd qa)) ∧
    (∀ d a et qd qa, ReadBack (.vftanh d a et qd qa)) ∧
    (∀ d a et qd qa, ReadBack (.vfsigm d a et qd qa)) := by
  and_intros
  all_goals
    intros
    refine readBack_of_fields (dec := decodeLgop) rfl rfl fun (hwf : etFp _ = true) w hw => ?_
    simp only [word_eq_encL_iff] at hw
    refine ((decodeLgopForm w _).2 (congrArg BitVec.toNat hw.1)).trans ?_
    show need _ _ _ = _
    simp [need, hw, hwf, -BitVec.getLsbD_eq_getElem, -BitVec.extractLsb'_toNat]

@[simp] theorem decodeLgop_reads_logic_and_moves :
    (∀ d a b et qd qa, ReadBack (.vand d a b et qd qa)) ∧
    (∀ d a b et qd qa, ReadBack (.vor d a b et qd qa)) ∧
    (∀ d a b et qd qa, ReadBack (.vxor d a b et qd qa)) ∧
    (∀ d a et qd qa, ReadBack (.vnot d a et qd qa)) ∧
    (∀ d a b kc et qd qa, ReadBack (.vsel d a b kc et qd qa)) ∧
    (∀ d a et qd qa, ReadBack (.vmov d a et qd qa)) ∧
    (∀ d imm et qd, ReadBack (.vmovi d imm et qd)) ∧
    (∀ d a et qd, ReadBack (.vmovs d a et qd)) := by
  and_intros
  all_goals
    intros
    refine readBack_of_fields (dec := decodeLgop) rfl rfl fun (hwf : etAll _ = true) w hw => ?_
    simp only [and_assoc, word_eq_encL_iff, fld_eq_p5_iff, fld_eq_append_iff 1, fld_eq_append_iff 3, fld_eq_append_iff 5,
      fld_eq_append_iff 15, fld_eq_ofBool_iff, BitVec.ofNat_eq_ofNat, ← flag_eq_false_iff, Nat.reduceAdd] at hw
    refine ((decodeLgopForm w _).2 (congrArg BitVec.toNat hw.1)).trans ?_
    show need _ _ _ = _
    simp [need, hw, hwf, -BitVec.getLsbD_eq_getElem, -BitVec.extractLsb'_toNat]

@[simp] theorem decodeLgop_reads_shuffles_and_reductions :
    (∀ d a b et, ReadBack (.vshuf d a b et)) ∧ (∀ d a n et, ReadBack (.vrot d a n et)) ∧
    (∀ d a n et, ReadBack (.vbcast d a n et)) ∧ (∀ d a et, ReadBack (.vredadd d a et)) ∧
    (∀ d a et, ReadBack (.vredmax d a et)) ∧ (∀ d a et, ReadBack (.vredmin d a et)) ∧
    (∀ d a et, ReadBack (.vcompress d a et)) ∧ (∀ d a gs et, ReadBack (.vxg d a gs et)) ∧
    (∀ d a gs n et, ReadBack (.vxgb d a gs n et)) := by
  and_intros
  all_goals
    intros
    refine readBack_of_fields (dec := decodeLgop) rfl rfl fun (hwf : etAll _ = true) w hw => ?_
    simp only [word_eq_encL_iff, fld_eq_p5_iff, fld_eq_n5_iff, Nat.reduceAdd] at hw
    refine ((decodeLgopForm w _).2 (congrArg BitVec.toNat hw.1)).trans ?_
    show need _ _ _ = _
    simp [need, fld_zero_two_eq_zero_iff, hw, hwf, -BitVec.getLsbD_eq_getElem, -BitVec.extractLsb'_toNat]

@[simp] theorem decodeLgop_reads_masks :
    (∀ kd ka kb et, ReadBack (.kand kd ka kb et)) ∧ (∀ kd ka kb et, ReadBack (.kor kd ka kb et)) ∧
    (∀ kd ka kb et, ReadBack (.kxor kd ka kb et)) ∧ (∀ kd ka et, ReadBack (.knot kd ka et)) := by
  and_intros
  all_goals
    intros
    refine readBack_of_fields (dec := decodeLgop) rfl rfl fun (hwf : etAll _ = true) w hw => ?_
    simp only [word_eq_encL_iff, fld_eq_p5_iff, Nat.reduceAdd] at hw
    refine ((decodeLgopForm w _).2 (congrArg BitVec.toNat hw.1)).trans ?_
    show need _ _ _ = _
    simp [need, fld_zero_two_eq_zero_iff, hw, hwf, -BitVec.getLsbD_eq_getElem, -BitVec.extractLsb'_toNat]

@[simp] theorem decodeLgop_reads_kset :
    (∀ kd a et, ReadBack (.kset kd a et)) := by
  intros
  refine readBack_of_fields (dec := decodeLgop) rfl rfl fun (hwf : etAll _ = true) w hw => ?_
  simp only [word_eq_encL_iff, fld_eq_p5_iff, Nat.reduceAdd] at hw
  refine ((decodeLgopForm w _).2 (congrArg BitVec.toNat hw.1)).trans ?_
  show (if _ then _ else if _ then _ else _) = _
  simp [need, hw, hwf, -BitVec.getLsbD_eq_getElem, -BitVec.extractLsb'_toNat]

@[simp] theorem decodeLgop_reads_kpopc :
    (∀ d ka, ReadBack (.kpopc d ka)) := by
  intros
  refine readBack_of_fields (dec := decodeLgop) rfl rfl fun _ w hw => ?_
  simp only [word_eq_encL_iff, fld_eq_p5_iff, Nat.reduceAdd] at hw
  refine ((decodeLgopForm w _).2 (congrArg BitVec.toNat hw.1)).trans ?_
  show need _ _ _ = _
  simp [need, fld_zero_two_eq_zero_iff, hw, -BitVec.getLsbD_eq_getElem, -BitVec.extractLsb'_toNat]

@[simp] theorem decodeLgop_reads_seeds :
    (∀ a, ReadBack (.vrandSeed a)) ∧ (∀ d, ReadBack (.vrandGet d)) := by
  and_intros
  all_goals
    intros
    refine readBack_of_fields (dec := decodeLgop) rfl rfl fun _ w hw => ?_
    simp only [word_eq_encL_iff] at hw
    rw [decodeLgop, congrArg BitVec.toNat hw.1, hw.2.2.2.2.2.2.1, hw.2.2.2.2.2.2.2]
    show need _ _ _ = _
    simp [need, hw, -BitVec.getLsbD_eq_getElem, -BitVec.extractLsb'_toNat]

@[simp] theorem decodeLgop_reads_vnop : ReadBack .vnop := by
  refine readBack_of_fields (dec := decodeLgop) rfl rfl fun _ w hw => ?_
  rw [fld_eq_iff 25 7] at hw
  refine ((decodeLgopForm w _).2 (congrArg BitVec.toNat hw.1)).trans ?_
  show need _ _ _ = _
  simp [need, hw, -BitVec.getLsbD_eq_getElem, -BitVec.extractLsb'_toNat]

@[simp] theorem decodeLgop_reads_vcvt :
    (∀ d a c et qd qa, ReadBack (.vcvt d a c et qd qa)) := by
  intros
  refine readBack_of_fields (dec := decodeLgop) rfl rfl fun (hwf : (etAll _ && codeAny _) = true) w hw => ?_
  simp only [word_eq_encL_iff] at hw
  refine ((decodeLgopForm w _).2 (congrArg BitVec.toNat hw.1)).trans ?_
  show need _ _ _ = _
  simpa [need, hw, -BitVec.getLsbD_eq_getElem, -BitVec.extractLsb'_toNat] using hwf

@[simp] theorem decodeLgop_reads_vcvtm :
    (∀ d a c et qd qa, ReadBack (.vcvtm d a c et qd qa)) := by
  intros
  refine readBack_of_fields (dec := decodeLgop) rfl rfl fun (hwf : (etAll _ && codeMat _) = true) w hw => ?_
  simp only [word_eq_encL_iff] at hw
  refine ((decodeLgopForm w _).2 (congrArg BitVec.toNat hw.1)).trans ?_
  show need _ _ _ = _
  simpa [need, hw, -BitVec.getLsbD_eq_getElem, -BitVec.extractLsb'_toNat] using hwf

@[simp] theorem decodeLgop_reads_vcvtTwq :
    (∀ d a b c qd qa, ReadBack (.vcvtTwq d a b c qd qa)) := by
  intros
  refine readBack_of_fields (dec := decodeLgop) rfl rfl fun (hwf : codeTwq _ = true) w hw => ?_
  simp only [word_eq_encL_iff] at hw
  refine ((decodeLgopForm w _).2 (congrArg BitVec.toNat hw.1)).trans ?_
  show need _ _ _ = _
  simp [need, hw, hwf, -BitVec.getLsbD_eq_getElem, -BitVec.extractLsb'_toNat]

@[simp] theorem decodeLgop_reads_vscan :
    (∀ d a op et, ReadBack (.vscan d a op et)) := by
  intros
  refine readBack_of_fields (dec := decodeLgop) rfl rfl fun (hwf : (scanOp _ && etAll _) = true) w hw => ?_
  simp only [word_eq_encL_iff] at hw
  refine ((decodeLgopForm w _).2 (congrArg BitVec.toNat hw.1)).trans ?_
  show need _ _ _ = _
  simpa [need, fld_zero_two_eq_zero_iff, hw, -BitVec.getLsbD_eq_getElem, -BitVec.extractLsb'_toNat] using hwf

@[simp] theorem decodeLgop_reads_ksetN :
    (∀ kd n et, ReadBack (.ksetN kd n et)) := by
  intros
  refine readBack_of_fields (dec := decodeLgop) rfl rfl fun (hwf : (maskLen _ && etAll _) = true) w hw => ?_
  simp only [word_eq_encL_iff, fld_eq_p5_iff, Nat.reduceAdd] at hw
  refine ((decodeLgopForm w _).2 (congrArg BitVec.toNat hw.1)).trans ?_
  show (if _ then _ else if _ then _ else _) = _
  simpa [need, hw, -BitVec.getLsbD_eq_getElem, -BitVec.extractLsb'_toNat] using hwf

@[simp] theorem decodeLgop_reads_vrand :
    (∀ d et, ReadBack (.vrand d et)) := by
  intros
  refine readBack_of_fields (dec := decodeLgop) rfl rfl fun (hwf : etRand _ = true) w hw => ?_
  simp only [word_eq_encL_iff] at hw
  rw [decodeLgop, congrArg BitVec.toNat hw.1, hw.2.2.2.2.2.2.1, hw.2.2.2.2.2.2.2]
  show need _ _ _ = _
  simp [need, hw, hwf, -BitVec.getLsbD_eq_getElem, -BitVec.extractLsb'_toNat]

/-! ### M slot (04 R106) and C slots (04 R107) -/

@[simp] theorem decodeM_reads_races :
    (∀ d a ty n, ReadBack (.mrmin d a ty n)) ∧ (∀ d a ty n, ReadBack (.mrmax d a ty n)) ∧
    (∀ d a ty n, ReadBack (.mrank d a ty n)) ∧ (∀ d a ty n k, ReadBack (.mtopk d a ty n k)) := by
  and_intros
  all_goals
    intros
    refine readBack_of_fields (dec := decodeM) rfl rfl fun (hwf : keyType _ = true) w hw => ?_
    simp only [word_eq_encRace_iff] at hw
    refine ((decodeMForm w _).2 (congrArg BitVec.toNat hw.1)).trans ?_
    show need _ _ _ = _
    simp [need, hw, hwf, -BitVec.getLsbD_eq_getElem, -BitVec.extractLsb'_toNat]

@[simp] theorem decodeM_reads_calls :
    (∀ idx, ReadBack (.mcall idx)) ∧ (∀ m, ReadBack (.mspill m)) ∧
    (∀ m, ReadBack (.mfill m)) := by
  and_intros
  all_goals
    intros
    refine readBack_of_fields (dec := decodeM) rfl rfl fun _ w hw => ?_
    simp only [and_assoc, fld_eq_append_iff 4, fld_eq_append_iff 10, fld_eq_append_iff 18, fld_eq_append_iff 24,
      Nat.reduceAdd] at hw
    refine ((decodeMForm w _).2 (congrArg BitVec.toNat hw.1)).trans ?_
    show need _ _ _ = _
    simp [need, hw, -BitVec.getLsbD_eq_getElem, -BitVec.extractLsb'_toNat]

@[simp] theorem decodeM_reads_plain : ReadBack .mtrue ∧ ReadBack .mfence := by
  and_intros
  all_goals
    refine readBack_of_fields (dec := decodeM) rfl rfl fun _ w hw => ?_
    rw [fld_eq_iff 28 4] at hw
    refine ((decodeMForm w _).2 (congrArg BitVec.toNat hw.1)).trans ?_
    show need _ _ _ = _
    simp [need, hw, -BitVec.getLsbD_eq_getElem, -BitVec.extractLsb'_toNat]

@[simp] theorem decodeM_reads_mqry :
    (∀ d sel clr, ReadBack (.mqry d sel clr)) := by
  intros
  refine readBack_of_fields (dec := decodeM) rfl rfl fun (hwf : querySel _ = true) w hw => ?_
  simp only [and_assoc, fld_eq_append_iff 1, fld_eq_append_iff 2, fld_eq_append_iff 5, fld_eq_append_iff 20,
    fld_eq_ofBool_iff,
    Nat.reduceAdd] at hw
  refine ((decodeMForm w _).2 (congrArg BitVec.toNat hw.1)).trans ?_
  show need _ _ _ = _
  simp [need, hw, hwf, -BitVec.getLsbD_eq_getElem, -BitVec.extractLsb'_toNat]

@[simp] theorem decodeC_reads_vector_access :
    (∀ v a ms wid gsc pi off, ReadBack (.vld v a ms wid gsc pi off)) ∧
    (∀ v a ms wid gsc pi off, ReadBack (.vst v a ms wid gsc pi off)) ∧
    (∀ v a ms wid gsc pi off, ReadBack (.vldInv v a ms wid gsc pi off)) := by
  and_intros
  all_goals
    intros
    refine readBack_of_fields (dec := decodeC) rfl rfl fun (hwf : (widthOk _ && widthOk _) = true) w hw => ?_
    simp only [word_eq_encC_iff, fld_eq_append_iff 1, fld_eq_append_iff 2, fld_eq_append_iff 3, fld_eq_append_iff 10,
      fld_eq_ofBool_iff, Nat.reduceAdd] at hw
    refine ((decodeCForm w _).2 (congrArg BitVec.toNat hw.1)).trans ?_
    show (if _ then _ else _) = _
    simpa [need, hw, widthOk, -BitVec.getLsbD_eq_getElem, -BitVec.extractLsb'_toNat] using hwf

@[simp] theorem decodeC_reads_gathers :
    (∀ v vi a ms wid sc, ReadBack (.vldx v vi a ms wid sc)) ∧
    (∀ v vi a ms wid sc, ReadBack (.vstx v vi a ms wid sc)) := by
  and_intros
  all_goals
    intros
    refine readBack_of_fields (dec := decodeC) rfl rfl fun (hwf : widthOk _ = true) w hw => ?_
    simp only [word_eq_encC_iff, fld_eq_append_iff 2, fld_eq_append_iff 3, fld_eq_append_iff 5, fld_eq_append_iff 6,
      Nat.reduceAdd] at hw
    refine ((decodeCForm w _).2 (congrArg BitVec.toNat hw.1)).trans ?_
    show (if _ then _ else _) = _
    simpa [need, hw, widthOk, -BitVec.getLsbD_eq_getElem, -BitVec.extractLsb'_toNat] using hwf

/-- Opcodes with a sub-table. -/
theorem decodeC_eq_decodeCopy {w : BitVec 32} (h : fld w 27 5 = 0x06) : decodeC w = decodeCopy w :=
  (decodeCForm w _).2 (congrArg BitVec.toNat h)

theorem decodeC_eq_decodeAtom {w : BitVec 32} (h : fld w 27 5 = 0x0A) : decodeC w = decodeAtom w :=
  (decodeCForm w _).2 (congrArg BitVec.toNat h)

@[simp] theorem decodeC_reads_copies :
    (∀ ad as sl sn e, ReadBack (.cpys ad as sl sn e)) ∧ (∀ ad as sl sn e, ReadBack (.cpyg ad as sl sn e)) ∧
    (∀ ad as sl sn e, ReadBack (.cpysc ad as sl sn e)) ∧
    (∀ ad as sl sn e, ReadBack (.cpySum ad as sl sn e)) ∧
    (∀ ad sl sn e, ReadBack (.cpyFill ad sl sn e)) := by
  and_intros
  all_goals
    intros
    refine readBack_of_fields (dec := decodeC) rfl rfl fun (hwf : pairReg _ = true) w hw => ?_
    simp only [word_eq_encCpy_iff] at hw
    refine ((decodeC_eq_decodeCopy hw.1).trans ((decodeCopyForm w _).2 (congrArg BitVec.toNat hw.2.2.1))).trans ?_
    show (if _ then _ else _) = _
    simpa [need, hw, pairReg, -BitVec.getLsbD_eq_getElem, -BitVec.extractLsb'_toNat] using hwf

@[simp] theorem decodeC_reads_cpy :
    (∀ ad as sl sn e, ReadBack (.cpy ad as sl sn e)) := by
  intros
  refine readBack_of_fields (dec := decodeC) rfl rfl fun _ w hw => ?_
  simp only [word_eq_encCpy_iff] at hw
  refine ((decodeC_eq_decodeCopy hw.1).trans ((decodeCopyForm w _).2 (congrArg BitVec.toNat hw.2.2.1))).trans ?_
  show need _ _ _ = _
  simp [need, hw, -BitVec.getLsbD_eq_getElem, -BitVec.extractLsb'_toNat]

@[simp] theorem decodeC_reads_ports :
    (∀ q a, ReadBack (.bind q a)) ∧ (∀ q, ReadBack (.unbind q)) ∧ (∀ d q, ReadBack (.qstat d q)) := by
  and_intros
  all_goals
    intros
    refine readBack_of_fields (dec := decodeC) rfl rfl fun _ w hw => ?_
    simp only [word_eq_encC_iff, word_eq_encC3_iff, fld_eq_append_iff 3, fld_eq_append_iff 15,
      Nat.reduceAdd] at hw
    refine ((decodeCForm w _).2 (congrArg BitVec.toNat hw.1)).trans ?_
    show need _ _ _ = _
    simp [need, fld_eq_iff 15 5 (lo := 0), hw, -BitVec.getLsbD_eq_getElem, -BitVec.extractLsb'_toNat]

@[simp] theorem decodeC_reads_atomics :
    (∀ d a ss wd sem, ReadBack (.atomAdd d a ss wd sem)) ∧
    (∀ d a ss wd sem, ReadBack (.atomAnd d a ss wd sem)) ∧
    (∀ d a ss wd sem, ReadBack (.atomOr d a ss wd sem)) ∧
    (∀ d a ss wd sem, ReadBack (.atomXor d a ss wd sem)) ∧
    (∀ d a ss wd sem, ReadBack (.atomSwap d a ss wd sem)) ∧
    (∀ d a ss wd u sem, ReadBack (.atomMin d a ss wd u sem)) ∧
    (∀ d a ss wd u sem, ReadBack (.atomMax d a ss wd u sem)) ∧
    (∀ d a ss sc wd sem, ReadBack (.atomCas d a ss sc wd sem)) := by
  and_intros
  all_goals
    intros
    refine readBack_of_fields (dec := decodeC) rfl rfl fun _ w hw => ?_
    simp only [word_eq_encAtom_iff] at hw
    refine ((decodeC_eq_decodeAtom hw.1).trans ((decodeAtomForm w _).2 (congrArg BitVec.toNat hw.2.2.1))).trans ?_
    show need _ _ _ = _
    simp [need, hw, -BitVec.getLsbD_eq_getElem, -BitVec.extractLsb'_toNat]

@[simp] theorem decodeC_reads_cells_and_timelines :
    (∀ a ss bf, ReadBack (.atomFadd a ss bf)) ∧ (∀ a ce, ReadBack (.wcinit a ce)) ∧
    (∀ d a bf, ReadBack (.wcread d a bf)) ∧ (∀ k ss, ReadBack (.tlwait k ss)) ∧
    (∀ d k, ReadBack (.tlread d k)) ∧ (∀ k ss, ReadBack (.tladv k ss)) ∧
    (∀ k ss a, ReadBack (.tlsig k ss a)) := by
  and_intros
  all_goals
    intros
    refine readBack_of_fields (dec := decodeC) rfl rfl fun _ w hw => ?_
    simp only [word_eq_encC_iff, word_eq_encC3_iff, fld_eq_append_iff 1, fld_eq_append_iff 5, fld_eq_append_iff 8,
      fld_eq_append_iff 9, fld_eq_append_iff 12, fld_eq_append_iff 14, fld_eq_ofBool_iff, Nat.reduceAdd] at hw
    refine ((decodeCForm w _).2 (congrArg BitVec.toNat hw.1)).trans ?_
    show need _ _ _ = _
    simp [need, hw, -BitVec.getLsbD_eq_getElem, -BitVec.extractLsb'_toNat]

@[simp] theorem decodeC_reads_fences :
    (∀ s, ReadBack (.fence s)) ∧ (∀ s, ReadBack (.fenceAcq s)) ∧ (∀ s, ReadBack (.fenceRel s)) := by
  and_intros
  all_goals
    intros
    refine readBack_of_fields (dec := decodeC) rfl rfl fun (hwf : scopeOk _ = true) w hw => ?_
    simp only [word_eq_encC_iff, fld_eq_append_iff 2, fld_eq_append_iff 18, Nat.reduceAdd] at hw
    rw [decodeC, congrArg BitVec.toNat hw.1, congrArg BitVec.toNat hw.2.2.1.2]
    show (if _ then _ else need _ _ _) = _
    simpa [need, hw, scopeOk, -BitVec.getLsbD_eq_getElem, -BitVec.extractLsb'_toNat] using hwf

@[simp] theorem decodeC_reads_drains :
    (∀ a sn e, ReadBack (.drainPath a sn e)) ∧ (∀ sn e, ReadBack (.drainPathStreams sn e)) := by
  and_intros
  all_goals
    intros
    refine readBack_of_fields (dec := decodeC) rfl rfl fun _ w hw => ?_
    simp only [word_eq_encC_iff, fld_eq_append_iff 1, fld_eq_append_iff 5, 
      fld_eq_append_iff 16, fld_eq_ofBool_iff, BitVec.ofNat_eq_ofNat, ← flag_eq_false_iff,
      ← flag_eq_true_iff, Nat.reduceAdd] at hw
    refine ((decodeCForm w _).2 (congrArg BitVec.toNat hw.1)).trans ?_
    show (if _ then _ else _) = _
    simp [need, hw, -BitVec.getLsbD_eq_getElem, -BitVec.extractLsb'_toNat]

@[simp] theorem decodeC_reads_regions :
    (∀ i a sl wb, ReadBack (.mapreg i a sl wb)) ∧ (∀ i sn e, ReadBack (.unmapreg i sn e)) ∧
    (∀ i sn e, ReadBack (.wbreg i sn e)) ∧ (∀ a sl sn e, ReadBack (.touch a sl sn e)) := by
  and_intros
  all_goals
    intros
    refine readBack_of_fields (dec := decodeC) rfl rfl fun _ w hw => ?_
    simp only [word_eq_encC3_iff, fld_eq_append_iff 1, fld_eq_append_iff 9,
      fld_eq_append_iff 14, fld_eq_ofBool_iff, BitVec.ofNat_eq_ofNat, 
      Nat.reduceAdd] at hw
    refine ((decodeCForm w _).2 (congrArg BitVec.toNat hw.1)).trans ?_
    show need _ _ _ = _
    simp [need, hw, -BitVec.getLsbD_eq_getElem, -BitVec.extractLsb'_toNat]

@[simp] theorem decodeC_reads_messages :
    (∀ a st ln sn e, ReadBack (.send a st ln sn e)) ∧ (∀ d a, ReadBack (.recv d a)) ∧
    (∀ sn a, ReadBack (.coll sn a)) ∧ ReadBack .cxclose := by
  and_intros
  all_goals
    intros
    refine readBack_of_fields (dec := decodeC) rfl rfl fun _ w hw => ?_
    simp only [word_eq_encC_iff, word_eq_encC3_iff, fld_eq_append_iff 1, fld_eq_append_iff 5, fld_eq_append_iff 6,
      fld_eq_ofBool_iff, Nat.reduceAdd] at hw
    refine ((decodeCForm w _).2 (congrArg BitVec.toNat hw.1)).trans ?_
    show need _ _ _ = _
    simp [need, fld_eq_iff 23 4 (lo := 0), hw, -BitVec.getLsbD_eq_getElem, -BitVec.extractLsb'_toNat]

@[simp] theorem decodeC_reads_controls :
    (∀ ss, ReadBack (.audmark ss)) ∧ ReadBack .audoff ∧ (∀ ss, ReadBack (.tcheck ss)) := by
  and_intros
  all_goals
    intros
    refine readBack_of_fields (dec := decodeC) rfl rfl fun _ w hw => ?_
    simp only [word_eq_encC3_iff] at hw
    rw [decodeC, congrArg BitVec.toNat hw.1, congrArg BitVec.toNat hw.2.2.1]
    show need _ _ _ = _
    simp [need, hw, -BitVec.getLsbD_eq_getElem, -BitVec.extractLsb'_toNat]

@[simp] theorem decodeC_reads_cxopen :
    (∀ a tol w t, ReadBack (.cxopen a tol w t)) := by
  intros
  refine readBack_of_fields (dec := decodeC) rfl rfl fun (hwf : tolOk _ = true) w hw => ?_
  simp only [word_eq_encC_iff, fld_eq_append_iff 1, fld_eq_append_iff 8, fld_eq_append_iff 12, fld_eq_ofBool_iff,
    Nat.reduceAdd] at hw
  refine ((decodeCForm w _).2 (congrArg BitVec.toNat hw.1)).trans ?_
  show (if _ then _ else _) = _
  simpa [need, hw, tolOk, -BitVec.getLsbD_eq_getElem, -BitVec.extractLsb'_toNat] using hwf

/-! ### Tile stream code (04 R109; 08 R227) -/

@[simp] theorem decodeTsc_reads_single_operands :
    (∀ a, ReadBack (.tscWld a)) ∧ (∀ a, ReadBack (.tscWconv a)) ∧
    (∀ a, ReadBack (.tscXstr a)) ∧ (∀ a, ReadBack (.tscAccmode a)) ∧
    (∀ a, ReadBack (.tscAccsel a)) ∧ (∀ a, ReadBack (.tscHandoff a)) ∧
    (∀ a, ReadBack (.tscEmit a)) := by
  and_intros
  all_goals
    intros
    refine readBack_of_fields (dec := decodeTsc) rfl rfl fun _ w hw => ?_
    simp only [word_eq_encT_iff] at hw
    refine ((decodeTscForm w _).2 (congrArg BitVec.toNat hw.1)).trans ?_
    show need _ _ _ = _
    simp [need, fld_eq_iff 18 4 (lo := 0), hw, -BitVec.getLsbD_eq_getElem, -BitVec.extractLsb'_toNat]

@[simp] theorem decodeTsc_reads_control :
    ReadBack .tscRace ∧ ReadBack .tscEndl ∧ ReadBack .tscWaitq ∧ ReadBack .tscHalt := by
  and_intros
  all_goals
    refine readBack_of_fields (dec := decodeTsc) rfl rfl fun _ w hw => ?_
    simp only [word_eq_encT_iff, fld_eq_iff 2 2 (lo := 22), Nat.reduceAdd] at hw
    refine ((decodeTscForm w _).2 (congrArg BitVec.toNat hw.1)).trans ?_
    show need _ _ _ = _
    simp [need, fld_eq_iff 18 8 (lo := 0), fld_eq_iff 4 4 (lo := 18), fld_eq_iff 2 2 (lo := 22), hw,
      -BitVec.getLsbD_eq_getElem, -BitVec.extractLsb'_toNat]

@[simp] theorem decodeTsc_reads_loops :
    ReadBack .tscLoopKb ∧ (∀ c, ReadBack (.tscLoopReg c)) := by
  and_intros
  all_goals
    intros
    refine readBack_of_fields (dec := decodeTsc) rfl rfl fun _ w hw => ?_
    simp only [word_eq_encT_iff, fld_eq_iff 2 2 (lo := 22), Nat.reduceAdd] at hw
    rw [decodeTsc, congrArg BitVec.toNat hw.1, congrArg BitVec.toNat hw.2.1.1]
    show need _ _ _ = _
    simp [need, fld_eq_iff 18 6 (lo := 0), fld_eq_iff 4 2 (lo := 18), hw, -BitVec.getLsbD_eq_getElem,
      -BitVec.extractLsb'_toNat]

@[simp] theorem decodeTsc_reads_tscSkip :
    (∀ n, ReadBack (.tscSkip n)) := by
  intros
  refine readBack_of_fields (dec := decodeTsc) rfl rfl fun _ w hw => ?_
  simp only [word_eq_encT_iff, fld_eq_append_iff 6, Nat.reduceAdd] at hw
  refine ((decodeTscForm w _).2 (congrArg BitVec.toNat hw.1)).trans ?_
  show need _ _ _ = _
  simp [need, fld_eq_iff 12 8 (lo := 6), fld_eq_iff 4 4 (lo := 18), hw, -BitVec.getLsbD_eq_getElem,
    -BitVec.extractLsb'_toNat]

@[simp] theorem decodeTsc_reads_tscLoopImm :
    (∀ c, ReadBack (.tscLoopImm c)) := by
  intros
  refine readBack_of_fields (dec := decodeTsc) rfl rfl fun _ w hw => ?_
  simp only [word_eq_encT_iff, fld_eq_append_iff 16, fld_eq_iff 2 2 (lo := 22), Nat.reduceAdd] at hw
  rw [decodeTsc, congrArg BitVec.toNat hw.1, congrArg BitVec.toNat hw.2.1.1]
  show need _ _ _ = _
  simp [need, fld_eq_iff 2 6 (lo := 16), fld_eq_iff 4 2 (lo := 18), hw, -BitVec.getLsbD_eq_getElem,
    -BitVec.extractLsb'_toNat]

@[simp] theorem decodeTsc_reads_tri : ReadBack .tscTriOff ∧ (∀ a b, ReadBack (.tscTri a b)) := by
  and_intros
  all_goals
    intros
    refine readBack_of_fields (dec := decodeTsc) rfl rfl fun _ w hw => ?_
    simp only [word_eq_encT_iff, fld_eq_iff 1 17 (lo := 0), ← flag_eq_false_iff, ← flag_eq_true_iff, Nat.reduceAdd,
      BitVec.reduceExtractLsb'] at hw
    refine ((decodeTscForm w _).2 (congrArg BitVec.toNat hw.1)).trans ?_
    show (if _ then _ else _) = _
    simp [need, fld_eq_iff 18 8 (lo := 0), fld_eq_iff 4 4 (lo := 18), fld_eq_iff 1 17 (lo := 0), ← flag_eq_false_iff, hw,
      -BitVec.getLsbD_eq_getElem, -BitVec.extractLsb'_toNat]

@[simp] theorem decodeTsc_reads_registers :
    (∀ a b v t, ReadBack (.tscBrc a b v t)) ∧ (∀ d a, ReadBack (.tscTrimrd d a)) ∧
    (∀ a b, ReadBack (.tscTrimwr a b)) := by
  and_intros
  all_goals
    intros
    refine readBack_of_fields (dec := decodeTsc) rfl rfl fun _ w hw => ?_
    simp only [word_eq_encT_iff, fld_eq_append_iff 1, fld_eq_append_iff 2, fld_eq_append_iff 4, fld_eq_append_iff 6,
      fld_eq_append_iff 13, fld_eq_ofBool_iff, and_assoc,
      BitVec.ofNat_eq_ofNat, Nat.reduceAdd] at hw
    refine ((decodeTscForm w _).2 (congrArg BitVec.toNat hw.1)).trans ?_
    show need _ _ _ = _
    simp [need, hw, -BitVec.getLsbD_eq_getElem, -BitVec.extractLsb'_toNat]

@[simp] theorem decodeTsc_reads_setp :
    (∀ d a imm, ReadBack (.tscSetp d a imm)) ∧ (∀ d a imm, ReadBack (.tscSetpHi d a imm)) ∧
    (∀ d a b, ReadBack (.tscSetpReg d a b)) := by
  and_intros
  all_goals
    intros
    refine readBack_of_fields (dec := decodeTsc) rfl rfl fun _ w hw => ?_
    simp only [word_eq_encT_iff, fld_eq_append_iff 4, 
      fld_eq_append_iff 12, fld_eq_append_iff 16, fld_eq_iff 1 1 (lo := 16), and_assoc,
      BitVec.reduceExtractLsb', BitVec.ofNat_eq_ofNat, ← flag_eq_false_iff, ← flag_eq_true_iff, Nat.reduceAdd] at hw
    refine ((decodeTscForm w _).2 (congrArg BitVec.toNat hw.1)).trans ?_
    show (if _ then _ else if _ then _ else _) = _
    simp [need, hw, -BitVec.getLsbD_eq_getElem, -BitVec.extractLsb'_toNat]

@[simp] theorem decodeTsc_reads_races :
    (∀ a b ty n, ReadBack (.tscRmin a b ty n)) ∧ (∀ a b ty n, ReadBack (.tscRmax a b ty n)) ∧
    (∀ a b ty n, ReadBack (.tscRank a b ty n)) ∧
    (∀ a b ty n k, ReadBack (.tscTopk a b ty n k)) := by
  and_intros
  all_goals
    intros
    refine readBack_of_fields (dec := decodeTsc) rfl rfl fun (hwf : keyType _ = true) w hw => ?_
    simp only [word_eq_encTRace_iff] at hw
    refine ((decodeTscForm w _).2 (congrArg BitVec.toNat hw.1)).trans ?_
    show need _ _ _ = _
    simp [need, hw, hwf, -BitVec.getLsbD_eq_getElem, -BitVec.extractLsb'_toNat]

@[simp] theorem decodeTsc_reads_tscRefrace :
    (∀ d a kind, ReadBack (.tscRefrace d a kind)) := by
  intros
  refine readBack_of_fields (dec := decodeTsc) rfl rfl fun (hwf : refKind _ = true) w hw => ?_
  simp only [word_eq_encT_iff, fld_eq_append_iff 16, Nat.reduceAdd] at hw
  refine ((decodeTscForm w _).2 (congrArg BitVec.toNat hw.1)).trans ?_
  show need _ _ _ = _
  simp [need, hw, hwf, -BitVec.getLsbD_eq_getElem, -BitVec.extractLsb'_toNat]

/-! ### Every instruction -/

/-- Every instruction with an encoding is read back from its own word. -/
theorem readBack {i : Instr} (h : placeOf i ≠ 0) : ReadBack i := by
  cases i
  all_goals try simp
  all_goals exact absurd rfl h

/-- The decoder of a part of the core reads that part's instructions back. -/
theorem decoderOf_reads {i : Instr} {w : BitVec 32} {n : Nat} (hn : n ≠ 0) (hp : placeOf i = n) (hwf : i.wf = true)
    (he : encode i = some w) : decoderOf n w = .ok i := by
  subst hp
  exact readBack hn hwf w he

/-- Settles O1: each format's fields are those that its words were put together from. -/
theorem slotSRoundTrip : Obligations.SlotSRoundTrip := fun _ _ => decoderOf_reads (n := 2) (by decide)

/-- Settles O2: the fields of 04 R94 are those that a word was put together from. -/
theorem lgopRoundTrip : Obligations.LgopRoundTrip := fun _ _ => decoderOf_reads (n := 3) (by decide)

/-- Settles O3: as for the S slot, by the fields of 04 R106 and R107. -/
theorem matrixAndCopyRoundTrip : Obligations.MatrixAndCopyRoundTrip := fun _ _ hwf he =>
  ⟨fun hp => decoderOf_reads (n := 5) (by decide) hp hwf he, fun hp => decoderOf_reads (n := 6) (by decide) hp hwf he⟩

/-- Settles O4: as for the S slot, by the fields of 08 R227. -/
theorem tileCodeRoundTrip : Obligations.TileCodeRoundTrip := fun _ _ => decoderOf_reads (n := 8) (by decide)

end Sys2Proof.Machine
end

section
/-! SUPPORT. Encodings, the other way (04 R103 to R109; 17 R414): the word that a decoder accepts is the encoding of what
it reads, since every bit of it is in a field or required to be 0. -/

namespace Sys2Proof.Machine

-- one proof after another: the memory of the whole text stands under one limit
set_option Elab.async false

open Sys2Proof Safety

theorem need_eq_ok_iff {c : Bool} {e : NotInstr} {i j : Instr} : need c e i = .ok j ↔ c = true ∧ i = j := by
  cases c <;> simp [need]

theorem IsWordOf.parts {w : BitVec 32} {p : Nat} {i : Instr} (h : IsWordOf w p i) :
    placeOf i = p ∧ i.wf = true ∧ encode i = some w := ⟨h.placeOf_eq, h.wf, h.encode_eq⟩

/-- What is read of a word is its encoding's instruction when every field of the encoding is the word's. -/
theorem isWordOf_of_fields {w v : BitVec 32} {p : Nat} {i : Instr} (hp : placeOf i = p) (hwf : i.wf = true)
    (he : encode i = some v) (hv : fld w 0 32 = v) : IsWordOf w p i :=
  ⟨hp, hwf, he.trans (congrArg some (hv.symm.trans BitVec.extractLsb'_eq_self))⟩

theorem isWordOf_of_need {w v : BitVec 32} {p : Nat} {c : Bool} {e : NotInstr} {i j : Instr} (h : need c e j = .ok i)
    (hp : placeOf j = p) (he : encode j = some v) (hwf : c = true → j.wf = true) (hv : c = true → fld w 0 32 = v) :
    IsWordOf w p i := by
  obtain ⟨hc, rfl⟩ := need_eq_ok_iff.1 h
  exact isWordOf_of_fields hp (hwf hc) he (hv hc)

theorem error_ne_ok {P : Prop} {e : NotInstr} {i : Instr} (h : (.error e : Decoded) = .ok i) : P := nomatch h

theorem fld_eq_of_toNat {w : BitVec 32} {lo k n : Nat} (h : (fld w lo k).toNat = n) : fld w lo k = BitVec.ofNat k n :=
  (fld_toNat_eq_iff.1 h).2

/-- A decoder that first refuses some words. -/
theorem unless_eq_ok_iff {c : Prop} [Decidable c] {e : NotInstr} {x : Decoded} {i : Instr} :
    (if c then .error e else x) = .ok i ↔ ¬c ∧ x = .ok i := by
  split <;> simp [*]

/-- A decoder of two forms. -/
theorem forms_eq_ok_iff {c : Prop} [Decidable c] {x y : Decoded} {i : Instr} :
    (if c then x else y) = .ok i ↔ c ∧ x = .ok i ∨ ¬c ∧ y = .ok i := by
  split <;> simp [*]

/-! ### S slot (04 R103, R104) -/

theorem decodeOp_isWordOf {w : BitVec 32} {i : Instr} (hm : fld w 26 6 = 1) (h : decodeOp w = .ok i) :
    IsWordOf w 2 i := by
  obtain ⟨n, hn⟩ : ∃ n, (fld w 0 6).toNat = n := ⟨_, rfl⟩
  replace h := ((decodeOpForm w n).2 hn).symm.trans h
  have hlt : n < 64 := hn ▸ (fld w 0 6).isLt
  replace hn := fld_eq_of_toNat hn
  interval_cases n
  any_goals
    change (match (fld w 6 2).toNat with | 0 => need _ _ _ | 1 => need _ _ _ | 2 => need _ _ _ | _ => _) = _ at h
    generalize hk : (fld w 6 2).toNat = k at h
    have hkt : k < 4 := hk ▸ (fld w 6 2).isLt
    replace hk := fld_eq_of_toNat hk
    interval_cases k
  all_goals try exact error_ne_ok h
  all_goals
    refine isWordOf_of_need h rfl rfl (fun _ => rfl) fun hz => ?_
    simp_all [word_eq_encSR_iff, fld_eq_iff 2 3 (lo := 6), -BitVec.extractLsb'_eq_self, -BitVec.reduceAppend]

theorem decodeAdr_isWordOf {w : BitVec 32} {i : Instr} (hm : fld w 26 6 = 0x0B) (h : decodeAdr w = .ok i) :
    IsWordOf w 2 i := by
  obtain ⟨n, hn⟩ : ∃ n, (fld w 0 6).toNat = n := ⟨_, rfl⟩
  replace h := ((decodeAdrForm w n).2 hn).symm.trans h
  have hlt : n < 64 := hn ▸ (fld w 0 6).isLt
  replace hn := fld_eq_of_toNat hn
  interval_cases n
  all_goals try exact error_ne_ok h
  all_goals
    refine isWordOf_of_need h rfl rfl (fun _ => rfl) fun hz => ?_
    simp_all [word_eq_encSR_iff, fld_eq_a5_iff, -BitVec.extractLsb'_eq_self, -BitVec.getLsbD_eq_getElem]

theorem decodeCmp_isWordOf {w : BitVec 32} {i : Instr} (hm : fld w 26 6 = 0x0D) (h : decodeCmp w = .ok i) :
    IsWordOf w 2 i := by
  obtain ⟨n, hn⟩ : ∃ n, (fld w 0 6).toNat = n := ⟨_, rfl⟩
  replace h := ((decodeCmpForm w n).2 hn).symm.trans h
  have hlt : n < 64 := hn ▸ (fld w 0 6).isLt
  replace hn := fld_eq_of_toNat hn
  interval_cases n
  all_goals try exact error_ne_ok h
  all_goals
    refine isWordOf_of_need h rfl rfl (fun _ => rfl) fun hz => ?_
    simp_all [word_eq_encSR_iff, fld_eq_p5_iff, -BitVec.extractLsb'_eq_self, -BitVec.reduceAppend]

theorem decodePrd_isWordOf {w : BitVec 32} {i : Instr} (hm : fld w 26 6 = 0x0E) (h : decodePrd w = .ok i) :
    IsWordOf w 2 i := by
  obtain ⟨n, hn⟩ : ∃ n, (fld w 0 6).toNat = n := ⟨_, rfl⟩
  replace h := ((decodePrdForm w n).2 hn).symm.trans h
  have hlt : n < 64 := hn ▸ (fld w 0 6).isLt
  replace hn := fld_eq_of_toNat hn
  interval_cases n
  all_goals try exact error_ne_ok h
  all_goals
    refine isWordOf_of_need h rfl rfl (fun _ => rfl) fun hz => ?_
    simp_all [word_eq_encSR_iff, fld_eq_p5_iff, fld_eq_iff 3 2 (lo := 11) (c := 0#5), -BitVec.extractLsb'_eq_self,
      -BitVec.reduceAppend]

theorem decodeHub_isWordOf {w : BitVec 32} {i : Instr} {m : Nat} (hm : fld w 26 6 = BitVec.ofNat 6 m)
    (h : decodeHub m w = .ok i) : IsWordOf w 2 i := by
  dsimp only [decodeHub] at h
  split at h
  case h_20 => cases h
  all_goals
    refine isWordOf_of_need h rfl rfl (fun _ => rfl) fun hz => ?_
    simp_all [word_eq_encSR_iff, fld_toNat_eq_iff, -BitVec.extractLsb'_toNat, -BitVec.extractLsb'_eq_self,
      -BitVec.reduceAppend]

theorem decodeS_isWordOf {w : BitVec 32} {i : Instr} (h : decodeS w = .ok i) : IsWordOf w 2 i := by
  obtain ⟨n, hn⟩ : ∃ n, (fld w 26 6).toNat = n := ⟨_, rfl⟩
  replace h := ((decodeSForm w n).2 hn).symm.trans h
  have hlt : n < 64 := hn ▸ (fld w 26 6).isLt
  replace hn := fld_eq_of_toNat hn
  obtain hlo | hge := Nat.lt_or_ge n 48
  · interval_cases n
    on_goal 18 =>
      obtain ⟨hz, rfl⟩ := need_eq_ok_iff.1 h
      cases hneg : flag w 22
      all_goals
        refine isWordOf_of_fields rfl rfl rfl ?_
        simp_all [word_eq_encSB_iff, fld_eq_append_iff 1, fld_eq_append_iff 9, fld_eq_append_iff 10,
          fld_eq_iff 9 1 (lo := 13), ← flag_eq_false_iff, ← flag_eq_true_iff, -BitVec.extractLsb'_eq_self,
          -BitVec.reduceAppend, -BitVec.getLsbD_eq_getElem]
    on_goal 15 => exact decodePrd_isWordOf hn h
    on_goal 14 => exact decodeCmp_isWordOf hn h
    on_goal 12 => exact decodeAdr_isWordOf hn h
    on_goal 2 => exact decodeOp_isWordOf hn h
    all_goals try exact error_ne_ok h
    any_goals
      obtain rfl := Except.ok.inj h
      refine isWordOf_of_fields rfl rfl rfl ?_
      simp_all [word_eq_encSI_iff, -BitVec.extractLsb'_eq_self]
    all_goals
      refine isWordOf_of_need h rfl rfl (fun _ => rfl) fun hz => ?_
      simp_all [word_eq_encSR_iff, word_eq_encSI_iff, word_eq_encSB_iff, word_eq_encSN_iff, fld_eq_a5_iff, fld_eq_p5_iff,
        fld_eq_ofBool_iff, ← flag_eq_false_iff, fld_eq_append_iff 1, fld_eq_append_iff 2, fld_eq_append_iff 6,
        fld_eq_append_iff 8, fld_eq_append_iff 16, fld_eq_append_iff 21,
        fld_zero_two_eq_zero_iff, fld_eq_iff 6 5 (lo := 0), fld_eq_iff 11 5 (lo := 0), fld_eq_iff 11 10 (lo := 0),
        fld_eq_iff 5 5 (lo := 11), -BitVec.extractLsb'_eq_self, -BitVec.reduceAppend, -BitVec.getLsbD_eq_getElem]
  · obtain hhub | hge' := Nat.lt_or_ge n 56
    · interval_cases n
      all_goals exact decodeHub_isWordOf hn h
    · interval_cases n
      all_goals exact error_ne_ok h

/-! ### LGOPs (04 R94, R105) -/

/-- Integer forms and vnop. -/
theorem decodeLgop_isWordOf_integer {w : BitVec 32} {i : Instr} (hop : (fld w 25 7).toNat < 0x20)
    (h : decodeLgop w = .ok i) : IsWordOf w 3 i := by
  obtain ⟨n, hn⟩ : ∃ n, (fld w 25 7).toNat = n := ⟨_, rfl⟩
  replace h := ((decodeLgopForm w n).2 hn).symm.trans h
  rw [hn] at hop
  replace hn := fld_eq_of_toNat hn
  interval_cases n
  on_goal 1 =>
    refine isWordOf_of_need h rfl rfl (fun _ => rfl) fun hz => ?_
    have hall : fld w 0 (7 + 25) = 0#(7 + 25) := (fld_eq_iff 25 7).2 ⟨hn, beq_iff_eq.1 hz⟩
    exact hall
  all_goals try exact error_ne_ok h
  all_goals
    refine isWordOf_of_need h rfl rfl (fun hz => (Bool.and_eq_true_iff.1 hz).2) fun hz => ?_
    replace hz := (Bool.and_eq_true_iff.1 hz).1
    simp_all [word_eq_encL_iff, fld_eq_p5_iff, -BitVec.extractLsb'_eq_self, -BitVec.reduceAppend, -BitVec.getLsbD_eq_getElem]

/-- Floating-point forms. -/
theorem decodeLgop_isWordOf_float {w : BitVec 32} {i : Instr}
    (hlo : 0x20 ≤ (fld w 25 7).toNat) (hhi : (fld w 25 7).toNat < 0x40)
    (h : decodeLgop w = .ok i) : IsWordOf w 3 i := by
  obtain ⟨n, hn⟩ : ∃ n, (fld w 25 7).toNat = n := ⟨_, rfl⟩
  replace h := ((decodeLgopForm w n).2 hn).symm.trans h
  rw [hn] at hlo hhi
  replace hn := fld_eq_of_toNat hn
  interval_cases n
  all_goals try exact error_ne_ok h
  all_goals try
    refine isWordOf_of_need h rfl rfl (fun hwf => hwf) fun hwf => ?_
    simp_all [word_eq_encL_iff, -BitVec.extractLsb'_eq_self, -BitVec.reduceAppend, -BitVec.getLsbD_eq_getElem]
  all_goals
    refine isWordOf_of_need h rfl rfl (fun hz => (Bool.and_eq_true_iff.1 hz).2) fun hz => ?_
    replace hz := (Bool.and_eq_true_iff.1 hz).1
    simp_all [word_eq_encL_iff, fld_eq_p5_iff, -BitVec.extractLsb'_eq_self, -BitVec.reduceAppend, -BitVec.getLsbD_eq_getElem]

/-- Conversions, moves, masks and random values. -/
theorem decodeLgop_isWordOf_moves {w : BitVec 32} {i : Instr} (hop : 0x40 ≤ (fld w 25 7).toNat)
    (h : decodeLgop w = .ok i) : IsWordOf w 3 i := by
  have hlt : (fld w 25 7).toNat < 0x80 := (fld w 25 7).isLt
  obtain ⟨n, hn⟩ : ∃ n, (fld w 25 7).toNat = n := ⟨_, rfl⟩
  replace h := ((decodeLgopForm w n).2 hn).symm.trans h
  rw [hn] at hop hlt
  replace hn := fld_eq_of_toNat hn
  interval_cases n
  on_goal 45 =>
    change (match flag w 1, flag w 0 with
      | false, false => need _ _ _ | false, true => need _ _ _ | true, false => need _ _ _ | true, true => _) = _ at h
    cases hqa : flag w 1
    all_goals
      cases hqd : flag w 0
    all_goals
      rw [hqa, hqd] at h
  on_goal 38 =>
    replace h := unless_eq_ok_iff.1 h
    obtain ⟨hqa, h⟩ := h
    replace h := forms_eq_ok_iff.1 h
    obtain ⟨hqd, h⟩ | ⟨hqd, h⟩ := h
  all_goals try exact error_ne_ok h
  all_goals try
    refine isWordOf_of_need h rfl rfl (fun hz => (Bool.and_eq_true_iff.1 hz).2) fun hz => ?_
    replace hz := (Bool.and_eq_true_iff.1 hz).1
    simp_all [word_eq_encL_iff, fld_eq_p5_iff, fld_eq_n5_iff, fld_eq_ofBool_iff, ← flag_eq_false_iff, fld_eq_append_iff 1,
      fld_eq_append_iff 3, fld_eq_append_iff 5, fld_eq_append_iff 15, fld_zero_two_eq_zero_iff, -BitVec.extractLsb'_eq_self,
      -BitVec.reduceAppend, -BitVec.getLsbD_eq_getElem]
  all_goals
    refine isWordOf_of_need h rfl rfl (fun hz => ?_) fun hz => ?_
    · delta Instr.wf; simp_all
    · simp_all [word_eq_encL_iff, fld_eq_p5_iff, fld_zero_two_eq_zero_iff, -BitVec.extractLsb'_eq_self,
        -BitVec.reduceAppend, -BitVec.getLsbD_eq_getElem]

theorem decodeLgop_isWordOf {w : BitVec 32} {i : Instr} (h : decodeLgop w = .ok i) : IsWordOf w 3 i := by
  obtain hlt | hge := Nat.lt_or_ge (fld w 25 7).toNat 0x20
  · exact decodeLgop_isWordOf_integer hlt h
  · obtain hlt | hge' := Nat.lt_or_ge (fld w 25 7).toNat 0x40
    · exact decodeLgop_isWordOf_float hge hlt h
    · exact decodeLgop_isWordOf_moves hge' h

/-! ### M slot (04 R106) -/

theorem decodeM_isWordOf {w : BitVec 32} {i : Instr} (h : decodeM w = .ok i) : IsWordOf w 5 i := by
  obtain ⟨n, hn⟩ : ∃ n, (fld w 28 4).toNat = n := ⟨_, rfl⟩
  replace h := ((decodeMForm w n).2 hn).symm.trans h
  have hlt : n < 16 := hn ▸ (fld w 28 4).isLt
  replace hn := fld_eq_of_toNat hn
  interval_cases n
  on_goal 10 =>
    exact isWordOf_of_need h rfl rfl (fun _ => rfl) fun hz => (fld_eq_append_iff 28 (k := 4)).2 ⟨hn, beq_iff_eq.1 hz⟩
  on_goal 9 =>
    exact isWordOf_of_need h rfl rfl (fun _ => rfl) fun hz => (fld_eq_append_iff 28 (k := 4)).2 ⟨hn, beq_iff_eq.1 hz⟩
  all_goals try exact error_ne_ok h
  all_goals
    refine isWordOf_of_need h rfl rfl (fun hz => ?_) fun hz => ?_
    · delta Instr.wf; simp_all
    · simp_all [word_eq_encRace_iff, fld_eq_ofBool_iff, fld_eq_append_iff 1, fld_eq_append_iff 2, fld_eq_append_iff 4,
        fld_eq_append_iff 5, fld_eq_append_iff 10, fld_eq_append_iff 18, fld_eq_append_iff 20, fld_eq_append_iff 24,
        -BitVec.extractLsb'_eq_self, -BitVec.reduceAppend, -BitVec.getLsbD_eq_getElem]

/-! ### C slots (04 R107) -/

theorem decodeCopy_isWordOf {w : BitVec 32} {i : Instr} (hm : fld w 27 5 = 0x06) (h : decodeCopy w = .ok i) :
    IsWordOf w 6 i := by
  obtain ⟨n, hn⟩ : ∃ n, (fld w 20 3).toNat = n := ⟨_, rfl⟩
  replace h := ((decodeCopyForm w n).2 hn).symm.trans h
  have hlt : n < 8 := hn ▸ (fld w 20 3).isLt
  replace hn := fld_eq_of_toNat hn
  interval_cases n
  all_goals try exact error_ne_ok h
  any_goals
    replace h := unless_eq_ok_iff.1 h
    obtain ⟨hsl, h⟩ := h
  all_goals
    refine isWordOf_of_need h rfl rfl (fun hz => ?_) fun hz => ?_
    · delta Instr.wf; simp_all [pairReg]
    · simp_all [word_eq_encCpy_iff, -BitVec.extractLsb'_eq_self, -BitVec.reduceAppend, -BitVec.getLsbD_eq_getElem]

theorem decodeAtom_isWordOf {w : BitVec 32} {i : Instr} (hm : fld w 27 5 = 0x0A) (h : decodeAtom w = .ok i) :
    IsWordOf w 6 i := by
  obtain ⟨n, hn⟩ : ∃ n, (fld w 20 3).toNat = n := ⟨_, rfl⟩
  replace h := ((decodeAtomForm w n).2 hn).symm.trans h
  have hlt : n < 8 := hn ▸ (fld w 20 3).isLt
  replace hn := fld_eq_of_toNat hn
  interval_cases n
  all_goals
    refine isWordOf_of_need h rfl rfl (fun _ => rfl) fun hz => ?_
    simp_all [word_eq_encAtom_iff, -BitVec.extractLsb'_eq_self, -BitVec.reduceAppend, -BitVec.getLsbD_eq_getElem]

theorem decodeC_isWordOf {w : BitVec 32} {i : Instr} (h : decodeC w = .ok i) : IsWordOf w 6 i := by
  obtain ⟨n, hn⟩ : ∃ n, (fld w 27 5).toNat = n := ⟨_, rfl⟩
  replace h := ((decodeCForm w n).2 hn).symm.trans h
  have hlt : n < 32 := hn ▸ (fld w 27 5).isLt
  replace hn := fld_eq_of_toNat hn
  interval_cases n
  on_goal 30 =>
    change (match (fld w 20 3).toNat with | 0 => need _ _ _ | 1 => need _ _ _ | 2 => need _ _ _ | _ => _) = _ at h
    generalize hk : (fld w 20 3).toNat = k at h
    have hkt : k < 8 := hk ▸ (fld w 20 3).isLt
    replace hk := fld_eq_of_toNat hk
    interval_cases k
  on_goal 29 =>
    refine isWordOf_of_need h rfl rfl (fun _ => rfl) fun hz => ?_
    have hall : fld w 0 (5 + 27) = 0x1C#5 ++ 0#27 := (fld_eq_append_iff 27).2 ⟨hn, beq_iff_eq.1 hz⟩
    exact hall.trans (by decide)
  on_goal 20 =>
    replace h := forms_eq_ok_iff.1 h
    obtain ⟨hst, h⟩ | ⟨hst, h⟩ := h
  on_goal 11 => exact decodeAtom_isWordOf hn h
  on_goal 7 => exact decodeCopy_isWordOf hn h
  any_goals
    replace h := unless_eq_ok_iff.1 h
    obtain ⟨hno, h⟩ := h
  any_goals
    obtain rfl := Except.ok.inj h
    obtain ⟨hwid, hgsc⟩ := not_or.1 hno
    refine isWordOf_of_fields rfl ?_ rfl ?_
    · delta Instr.wf; simp_all [widthOk]
    · simp_all [word_eq_encC_iff, fld_eq_ofBool_iff, fld_eq_append_iff 1, fld_eq_append_iff 2, fld_eq_append_iff 3,
        fld_eq_append_iff 10, -BitVec.extractLsb'_eq_self, -BitVec.reduceAppend, -BitVec.getLsbD_eq_getElem]
  any_goals
    change (match (fld w 18 2).toNat with | 0 => need _ _ _ | 1 => need _ _ _ | 2 => need _ _ _ | _ => _) = _ at h
    generalize hk : (fld w 18 2).toNat = k at h
    have hkt : k < 4 := hk ▸ (fld w 18 2).isLt
    replace hk := fld_eq_of_toNat hk
    interval_cases k
  all_goals try exact error_ne_ok h
  all_goals
    refine isWordOf_of_need h rfl rfl (fun hz => ?_) fun hz => ?_
    · delta Instr.wf; simp_all [widthOk, scopeOk, tolOk]
    · simp_all [word_eq_encC3_iff, word_eq_encC_iff, fld_eq_ofBool_iff, ← flag_eq_false_iff, ← flag_eq_true_iff,
        fld_eq_append_iff 1, fld_eq_append_iff 2, fld_eq_append_iff 3, fld_eq_append_iff 5, fld_eq_append_iff 6,
        fld_eq_append_iff 8, fld_eq_append_iff 9, fld_eq_append_iff 12, fld_eq_append_iff 14, fld_eq_append_iff 15,
        fld_eq_append_iff 16, fld_eq_append_iff 18, fld_eq_iff 15 5 (lo := 0), -BitVec.extractLsb'_eq_self,
        -BitVec.reduceAppend, -BitVec.getLsbD_eq_getElem]

/-! ### Tile stream code (04 R109; 08 R227) -/

theorem decodeTsc_isWordOf {w : BitVec 32} {i : Instr} (h : decodeTsc w = .ok i) : IsWordOf w 8 i := by
  obtain ⟨n, hn⟩ : ∃ n, (fld w 26 6).toNat = n := ⟨_, rfl⟩
  replace h := ((decodeTscForm w n).2 hn).symm.trans h
  have hlt : n < 64 := hn ▸ (fld w 26 6).isLt
  replace hn := fld_eq_of_toNat hn
  interval_cases n
  on_goal 14 =>
    obtain ⟨hreg, h⟩ | ⟨hreg, h⟩ := forms_eq_ok_iff.1 h
    · refine isWordOf_of_need h rfl rfl (fun _ => rfl) fun hz => ?_
      simp_all [word_eq_encT_iff, ← flag_eq_false_iff, ← flag_eq_true_iff, fld_eq_append_iff 4, fld_eq_append_iff 12,
        fld_eq_iff 1 1 (lo := 16), -BitVec.extractLsb'_eq_self, -BitVec.reduceAppend, -BitVec.getLsbD_eq_getElem]
    · obtain ⟨hhi, h⟩ | ⟨hhi, h⟩ := forms_eq_ok_iff.1 h
      all_goals
        obtain rfl := Except.ok.inj h
        refine isWordOf_of_fields rfl rfl rfl ?_
        simp_all [word_eq_encT_iff, ← flag_eq_false_iff, ← flag_eq_true_iff, fld_eq_append_iff 16, fld_eq_iff 1 1 (lo := 16),
          -BitVec.extractLsb'_eq_self, -BitVec.reduceAppend, -BitVec.getLsbD_eq_getElem]
  on_goal 11 =>
    change (match (fld w 24 2).toNat with | 0 => need _ _ _ | 1 => need _ _ _ | 2 => need _ _ _ | _ => _) = _ at h
    generalize hk : (fld w 24 2).toNat = k at h
    have hkt : k < 4 := hk ▸ (fld w 24 2).isLt
    replace hk := fld_eq_of_toNat hk
    interval_cases k
  on_goal 9 =>
    replace h := forms_eq_ok_iff.1 h
    obtain ⟨ht, h⟩ | ⟨ht, h⟩ := h
  all_goals try exact error_ne_ok h
  all_goals
    refine isWordOf_of_need h rfl rfl (fun hz => ?_) fun hz => ?_
    · delta Instr.wf; simp_all
    · simp_all [word_eq_encT_iff, word_eq_encTRace_iff, fld_eq_ofBool_iff, ← flag_eq_false_iff, ← flag_eq_true_iff,
        fld_eq_append_iff 1, fld_eq_append_iff 2, fld_eq_append_iff 4, fld_eq_append_iff 6, fld_eq_append_iff 13,
        fld_eq_append_iff 16, fld_eq_iff 18 4 (lo := 0), fld_eq_iff 18 8 (lo := 0), fld_eq_iff 18 6 (lo := 0),
        fld_eq_iff 4 4 (lo := 18), fld_eq_iff 2 6 (lo := 16), fld_eq_iff 4 2 (lo := 18), fld_eq_iff 2 2 (lo := 22),
        fld_eq_iff 1 17 (lo := 0), fld_eq_iff 12 8 (lo := 6), -BitVec.extractLsb'_eq_self, -BitVec.reduceAppend,
        -BitVec.getLsbD_eq_getElem]

/-- Settles O5: decoder by decoder, each accepted word's fields are those of the encoding of what it reads. -/
theorem decodedWordsAreEncodings : Obligations.DecodedWordsAreEncodings := fun _ _ =>
  ⟨fun h => (decodeS_isWordOf h).parts, fun h => (decodeM_isWordOf h).parts, fun h => (decodeC_isWordOf h).parts,
    fun h => (decodeTsc_isWordOf h).parts, fun h => (decodeLgop_isWordOf h).parts⟩

end Sys2Proof.Machine
end

section
/-! SUPPORT. Reset, headers, stored bytes and the results of the S slot's operations (04 R84; 05 R119 to R124, R137 to
R139; 09; 13 R357). -/

namespace Sys2Proof.Machine

-- one proof after another: the memory of the whole text stands under one limit
set_option Elab.async false

open Sys2Proof Safety

/-! ### Words, headers and reset -/

/-- Settles O6: each word is read by its decoder. -/
theorem printedWordsDecode : Obligations.PrintedWordsDecode :=
  ⟨rfl, rfl, rfl, rfl, rfl, rfl, rfl, rfl, rfl, rfl⟩

/-- A bundle starts with its format code, with reserved bits 0, QP only beside CK, and fill bits 0. -/
theorem decodeBundle_cons (h : BitVec 32) (r : List (BitVec 32)) :
    (∀ b, decodeBundle (h :: r) = .ok b →
      (fld h 28 4 = 0xA ∧ fld h 20 8 = 0 ∧ (flag h 19 → flag h 18)) ∧
      b.ck = flag h 18 ∧ b.qp = flag h 19 ∧ b.rpt = (fld h 7 6).toNat ∧ b.reis = fld h 13 5) ∧
    (¬ (fld h 28 4 = 0xA ∧ fld h 20 8 = 0 ∧ (flag h 19 → flag h 18)) → decodeBundle (h :: r) = .error .header) := by
  simp only [decodeBundle]
  split
  case isTrue hc =>
    obtain ⟨hform, hres, hqp, -⟩ := hc
    refine ⟨?_, fun hno => absurd ⟨hform, hres, hqp⟩ hno⟩
    rintro b hb
    obtain rfl := Except.ok.inj hb
    exact ⟨⟨hform, hres, hqp⟩, rfl, rfl, rfl, rfl⟩
  case isFalse => exact ⟨nofun, fun _ => rfl⟩

/-- Settles O7: the decoder's own conditions on a header, and the fields it takes from it. -/
theorem headerFields : Obligations.HeaderFields := by
  intro h r
  obtain ⟨hok, herr⟩ := decodeBundle_cons h r
  refine ⟨fun b hb => ?_, fun hbad => herr ?_⟩
  · obtain ⟨⟨hform, hres, hqp⟩, hck, hb', hrpt, hreis⟩ := hok b hb
    exact ⟨hck, hb', hrpt, hreis, hform, hres, hqp⟩
  · rintro ⟨hform, hres, hqp⟩
    obtain hn | hn | ⟨hq, hc⟩ := hbad
    · exact hn hform
    · exact hn hres
    · exact Bool.false_ne_true (hc.symm.trans (hqp hq))

/-- Settles O8: the reset state's own fields. -/
theorem resetState : Obligations.ResetState :=
  ⟨rfl, rfl, rfl, rfl, rfl, rfl, rfl, rfl, fun _ =>
    ⟨rfl, rfl, rfl, rfl, fun r => by unfold Core.gs; split <;> rfl, fun _ => rfl, fun r => BitVec.getLsbD_zero, rfl, rfl⟩⟩

/-- Settles O9. -/
theorem resetMemoryCanonical : Obligations.ResetMemoryCanonical := State.reset_wf

/-- Settles O11: a store's bytes inside and outside its range. -/
theorem storedBytesReadBack : Obligations.StoredBytesReadBack := fun s a d =>
  ⟨fun i h => State.byte_setBytes_inside s a i d h, fun _ h => State.byte_setBytes_outside s a d h, State.setBytes_wf a d⟩

/-! ### Integer, address, predicate and parameter operations -/

theorem highWord_eq (x : Int) : highWord x = BitVec.ofInt 64 (x / 2 ^ 64) := rfl

/-- The high half of an unsigned product is a quotient of numbers. -/
theorem highWord_natCast (n : Nat) : highWord (n : Int) = BitVec.ofNat 64 (n / 2 ^ 64) := by
  rw [highWord_eq, ← BitVec.ofInt_natCast]; norm_cast

theorem boolWord_eq (b : Bool) : boolWord b = if b then 1 else 0 := rfl

theorem boolWord_decide (P : Prop) [Decidable P] : boolWord (decide P) = if P then 1 else 0 := by
  simp [boolWord_eq]

/-- Settles O14: each operation lands the value of its function of the two registers. -/
theorem integerResults : Obligations.IntegerResults := by
  intro s d a b x y gives
  have hmulhu : gives (.mulhu d a b) (highWord ((x.toNat * y.toNat : Nat) : Int)) 3 := gives_of rfl
  have hslt : gives (.slt d a b) (boolWord (decide (x.toInt < y.toInt))) 1 := gives_of rfl
  have hsltu : gives (.sltu d a b) (boolWord (decide ((x.toNat : Int) < y.toNat))) 1 := gives_of rfl
  rw [highWord_natCast] at hmulhu
  rw [boolWord_decide] at hslt hsltu
  simp only [Nat.cast_lt] at hsltu
  exact ⟨gives_of rfl, gives_of rfl, gives_of rfl, gives_of rfl, gives_of rfl, gives_of rfl, gives_of rfl, gives_of rfl,
    gives_of rfl, gives_of rfl, hmulhu, gives_of rfl, gives_of rfl, gives_of rfl, gives_of rfl, hslt, hsltu⟩

theorem zeroLow_eq_and (n : Nat) (x : Word) : zeroLow n x = x &&& (BitVec.allOnes n).setWidth 64 := by
  refine BitVec.eq_of_getLsbD_eq fun i hi => ?_
  by_cases h : i < n <;> simp [zeroLow, hi, h]

/-- Settles O17: each form lands the value of its function of the register and the immediate. -/
theorem immediateResults : Obligations.ImmediateResults := by
  intro s d a imm sh x gives
  have hb : gives (.zextB d a) (zeroLow 8 x) := gives_of rfl
  have hh : gives (.zextH d a) (zeroLow 16 x) := gives_of rfl
  have hw : gives (.zextW d a) (zeroLow 32 x) := gives_of rfl
  have hslti : gives (.slti d a imm) (boolWord (decide (x.toInt < (imm.signExtend 64).toInt))) := gives_of rfl
  rw [zeroLow_eq_and] at hb hh hw
  rw [boolWord_decide, BitVec.toInt_signExtend_of_le (by decide)] at hslti
  exact ⟨gives_of rfl, gives_of rfl, gives_of rfl, hb, hh, hw, gives_of rfl, gives_of rfl, gives_of rfl, gives_of rfl,
    gives_of rfl, gives_of rfl, gives_of rfl, hslti, gives_of rfl⟩

theorem exec_cmp (s : State) (p : BitVec 3) (a b : BitVec 5) (r : Rel) (signed : Bool) {i : Instr}
    (h : exec i s = s.cmpP p a b r signed) :
    Gives i s (.p p.toNat) (.word (if r.word signed (s.me.gs a) (s.me.gs b) then 1 else 0)) 1 := gives_of h

/-- Equality of words is equality of their signed values. -/
theorem Rel.word_eq (x y : Word) : Rel.eq.word true x y = (x == y) ∧ Rel.ne.word true x y = (x != y) := by
  simp [Rel.word, Rel.int, bne, BitVec.toInt_inj, Bool.beq_eq_decide_eq]

theorem Rel.word_unsigned (x y : Word) :
    Rel.lt.word false x y = decide (x.toNat < y.toNat) ∧ Rel.ge.word false x y = decide (y.toNat ≤ x.toNat) := by
  simp [Rel.word, Rel.int]

/-- Settles O18: address forms directly, compares through their relation. -/
theorem addressAndPredicateResults : Obligations.AddressAndPredicateResults := by
  refine ⟨fun s ad as sd sa imm => ⟨gives_of rfl, gives_of rfl, gives_of rfl, gives_of rfl, gives_of rfl⟩, ?_⟩
  intro s pd pa pb a b x y gives
  have heq : gives (.cmpEq pd a b) (Rel.eq.word true x y) := exec_cmp s pd a b .eq true rfl
  have hne : gives (.cmpNe pd a b) (Rel.ne.word true x y) := exec_cmp s pd a b .ne true rfl
  have hltu : gives (.cmpLtu pd a b) (Rel.lt.word false x y) := exec_cmp s pd a b .lt false rfl
  have hgeu : gives (.cmpGeu pd a b) (Rel.ge.word false x y) := exec_cmp s pd a b .ge false rfl
  rw [(Rel.word_eq x y).1] at heq
  rw [(Rel.word_eq x y).2] at hne
  rw [(Rel.word_unsigned x y).1] at hltu
  rw [(Rel.word_unsigned x y).2] at hgeu
  exact ⟨heq, hne, gives_of rfl, gives_of rfl, hltu, hgeu, gives_of rfl, gives_of rfl, gives_of rfl⟩

/-- Fields of a number are those of its word. -/
theorem nbits_toNat (v : Word) (lo n : Nat) : nbits v.toNat lo n = (v.extractLsb' lo n).toNat := by
  rw [nbits, BitVec.extractLsb'_toNat, Nat.shiftRight_eq_div_pow]

theorem chkSetfmt_eq_none {s : State} {a : BitVec 5} (hlt : (s.me.gs a).toNat < 128)
    (hwf : (s.me.gs a).extractLsb' 3 2 ≠ 3) (haf : (s.me.gs a).extractLsb' 0 3 ≠ 7) : chkSetfmt a s = none := by
  have hwf' : nbits (s.me.gs a).toNat 3 2 ≠ 3 := by
    rw [nbits_toNat]; exact fun h => hwf (BitVec.eq_of_toNat_eq h)
  have haf' : nbits (s.me.gs a).toNat 0 3 ≠ 7 := by
    rw [nbits_toNat]; exact fun h => haf (BitVec.eq_of_toNat_eq h)
  simp [chkSetfmt, State.inLimit, orUse_eq_none, hlt, hwf', haf']

theorem chkSetmpc_eq_none {s : State} {a : BitVec 5}
    (h : (s.me.gs a).toNat < 0x200 ∨ (0x1000 ≤ (s.me.gs a).toNat ∧ (s.me.gs a).toNat < 0x2000)) : chkSetmpc a s = none := by
  simpa [chkSetmpc, State.inLimit, orUse_eq_none, codeRange] using h

/-- Settles O19: the values as read, FMT and MPC once their check finds nothing. -/
theorem parameterResults : Obligations.ParameterResults := by
  intro s k d a v
  refine ⟨gives_of rfl, gives_of rfl, gives_of rfl, fun hlt hwf haf => gives_of ?_, fun h => gives_of ?_⟩
  · exact (congrArg (guarded s · _) (chkSetfmt_eq_none hlt hwf haf)).trans (guarded_none _ _)
  · exact (congrArg (guarded s · _) (chkSetmpc_eq_none h)).trans (guarded_none _ _)

/-! ### Counted bits -/

theorem leadingZeros_spec (x : Word) : ∃ n, leadingZeros x = BitVec.ofNat 64 n ∧ n ≤ 64 ∧
    (∀ k, 64 - n ≤ k → x.getLsbD k = false) ∧ (n < 64 → x.getLsbD (63 - n) = true) := by
  by_cases hx : x = 0
  · exact ⟨64, by simp [leadingZeros, hx], le_rfl, by simp [hx], by omega⟩
  · have hne : x.toNat ≠ 0 := fun h => hx (BitVec.eq_of_toNat_eq h)
    have hlog : Nat.log2 x.toNat < 64 := (Nat.log2_lt hne).2 x.isLt
    refine ⟨63 - Nat.log2 x.toNat, if_neg hx, by omega, fun k hk => ?_, fun _ => ?_⟩
    · rw [BitVec.getLsbD, Nat.testBit_lt_two_pow]
      exact (Nat.log2_lt hne).1 (by omega)
    · rw [BitVec.getLsbD, show 63 - (63 - Nat.log2 x.toNat) = Nat.log2 x.toNat by omega]
      exact Nat.testBit_log2 hne

/-- The numbers at the front of a run that lack a property, and the first that has it. -/
theorem takeWhile_seqFrom (f : Nat → Bool) (a n : Nat) :
    let m := ((seqFrom a n).takeWhile fun i => !f i).length
    m ≤ n ∧ (∀ k, k < m → f (a + k) = false) ∧ (m < n → f (a + m) = true) := by
  induction n generalizing a with
  | zero => simp [seqFrom]
  | succ n ih =>
    obtain ⟨hle, hbelow, hat⟩ := ih (a + 1)
    simp only [seqFrom, List.takeWhile_cons]
    cases hf : f a with
    | true => simp [hf]
    | false =>
      refine ⟨Nat.succ_le_succ hle, fun k hk => ?_, fun h => ?_⟩
      · cases k with
        | zero => exact hf
        | succ k => rw [show a + (k + 1) = a + 1 + k by omega]; exact hbelow k (Nat.lt_of_succ_lt_succ hk)
      · simpa [Nat.add_assoc, Nat.add_comm 1] using hat (Nat.lt_of_succ_lt_succ h)

theorem seqFrom_eq_range' (a n : Nat) : seqFrom a n = List.range' a n := by
  induction n generalizing a with
  | zero => rfl
  | succ n ih => rw [seqFrom, ih, List.range'_succ]

/-- Settles O16: leading zeros by the binary logarithm, trailing zeros by the first set bit. -/
theorem countedBits : Obligations.CountedBits := by
  intro s d a x gives
  refine ⟨?_, ?_, ?_⟩
  · obtain ⟨n, hn, h⟩ := leadingZeros_spec x
    have hclz : Gives (.clz d a) s (.s d.toNat) (.word (leadingZeros x)) 1 := gives_of rfl
    rw [hn] at hclz
    exact ⟨n, hclz, h⟩
  · obtain ⟨hle, hbelow, hat⟩ := takeWhile_seqFrom (fun i => x.getLsbD i) 0 64
    simp only [Nat.zero_add] at hbelow hat
    exact ⟨_, gives_of rfl, hle, hbelow, hat⟩
  · rw [List.range_eq_range', ← seqFrom_eq_range', List.countP_eq_length_filter]
    exact gives_of rfl

end Sys2Proof.Machine
end

section
/-! SUPPORT. Transfers that an operation notes, modes, system registers, waiting and snapshots (05 R125 to R128, R131, R140
to R151; 13 R358). -/

namespace Sys2Proof.Machine

-- one proof after another: the memory of the whole text stands under one limit
set_option Elab.async false

open Sys2Proof Safety

/-! ### Checks of the S slot -/

theorem placed_eq_none {s : State} (h : InCk s) : s.placed = none := by
  rw [State.placed, show s.me.inIssue.ck = true from h, orUse_true]

theorem placed_eq_some {s : State} (h : ¬ InCk s) : s.placed = some (s.use { cause := 0x29 }) := by
  rw [State.placed, show s.me.inIssue.ck = false from Bool.eq_false_iff.2 h, orUse_false]

/-- An operation of a checkpoint bundle has its effect there. -/
theorem guarded_placed {s : State} (h : InCk s) (t : State) : guarded s s.placed t = .next t := by
  rw [placed_eq_none h, guarded_none]

/-- An operation whose whole effect is a change of the acting core. -/
theorem completes_upd {i : Instr} {s : State} {f : Core → Core} {P : State → Prop} (h : exec i s = .next (s.upd f))
    (hP : ∀ t : State, t.me = f s.me → OnlyMe s t → P t) : Completes i s P :=
  ⟨_, h, hP _ (State.me_upd s f) (onlyMe_upd s f)⟩

/-! ### Transfers (05 R125 to R128, R131) -/

/-- An operation whose whole effect is a noted transfer. -/
theorem completes_notes {i : Instr} {s : State} {w : Word} {k : Nat} (h : exec i s = .next (s.go w k)) :
    Completes i s fun t => t.me.taken = some { target := w, kind := k } ∧ OnlyMe s t ∧ { t.me with taken := s.me.taken } = s.me :=
  ⟨_, h, go_notes s w k⟩

theorem exec_bswap {w : Bool} {t : BitVec 12} (h : targetOk w t = true) (s : State) :
    exec (.bswap w t) s = .next (s.go (target w t) 3) := guarded_chkTarget h s _

theorem exec_halt {s : State} (h : InCk s) : exec .halt s = .next (s.go 0 4) := guarded_placed h _

theorem exec_brp_true {w : Bool} {t : BitVec 12} {s : State} {p : BitVec 3} (h : targetOk w t = true) (hp : s.me.gp p = true) :
    exec (.brp p w t) s = .next (s.go (target w t) 1) ∧ exec (.brpN p w t) s = .next s := by
  rw [exec_brp h, exec_brpN h, if_pos hp, if_pos hp]; exact ⟨rfl, rfl⟩

theorem exec_brp_false {w : Bool} {t : BitVec 12} {s : State} {p : BitVec 3} (h : targetOk w t = true) (hp : s.me.gp p = false) :
    exec (.brp p w t) s = .next s ∧ exec (.brpN p w t) s = .next (s.go (target w t) 1) := by
  rw [exec_brp h, exec_brpN h, hp]; exact ⟨rfl, rfl⟩

/-- A link that lands and a noted transfer are the whole effect of a call. -/
theorem landS_go_notes (s : State) (r : BitVec 5) (v w : Word) (k : Nat) :
    let u := (s.landS r v 1).go w k
    u.me.taken = some { target := w, kind := k } ∧ OnlyMe s u ∧ Gains s u (inFlight s (.s r.toNat) (.word v) 0 1) ∧
      { u.me with taken := s.me.taken, pend := s.me.pend } = s.me := by
  refine ⟨by simp, onlyMe_trans (onlyMe_upd s _) (onlyMe_upd _ _) rfl, ?_, ?_⟩
  · simp only [Gains, State.go_me, State.landS_me]; rfl
  · simp only [State.go_me, State.landS_me]; rfl

/-- Settles O23: each transfer is noted once its target lies in its window. -/
theorem transfersAreTaken : Obligations.TransfersAreTaken := by
  intro s p r w t goes stays tw
  refine ⟨fun hck => completes_notes (exec_halt hck), fun hwin => ?_⟩
  have hok := targetOk_of_window hwin
  refine ⟨completes_notes (exec_br hok s), completes_notes (exec_bswap hok s), fun hp => ?_, fun hp => ?_,
    ⟨_, exec_call hok s r, landS_go_notes s r _ _ 0⟩⟩
  · obtain ⟨hgo, hstay⟩ := exec_brp_true hok hp
    exact ⟨completes_notes hgo, s, hstay, rfl⟩
  · obtain ⟨hstay, hgo⟩ := exec_brp_false hok hp
    exact ⟨⟨s, hstay, rfl⟩, completes_notes hgo⟩

theorem chkLoop_eq_none {s : State} {r : BitVec 5} {w : Bool} {t : BitVec 12} (hwin : w = true → t.toNat ≤ 0x1FF)
    (hnext : s.me.succ.toNat < (target w t).toNat)
    (hin : ∀ l, s.me.loops.getLast? = some l → (target w t).toNat ≤ l.stop.toNat)
    (hroom : s.me.gs r = 0 ∨ s.me.loops.length < 4) : chkLoop r w t s = none := by
  cases hl : s.me.loops.getLast? with
  | none => simpa [chkLoop, State.inLimit, targetOk_of_window hwin, hnext, hl, firstUse_eq_none, orUse_eq_none] using hroom
  | some l =>
    simpa [chkLoop, State.inLimit, targetOk_of_window hwin, hnext, hl, hin l hl, firstUse_eq_none, orUse_eq_none] using hroom

/-- Settles O24: a count of 0 notes a transfer, any other count a level to push. -/
theorem loopPushesALevel : Obligations.LoopPushesALevel := by
  intro s r w t c tw next hwin hnext hin hroom
  refine ⟨if s.me.gs r = 0 then s.go (target w t) 2 else s.upd fun c => { c with loopPush := some ⟨c.succ, target w t, s.me.gs r⟩ },
    ?_, ?_⟩
  · exact (congrArg (guarded s · _) (chkLoop_eq_none hwin hnext hin hroom)).trans (guarded_none _ _)
  · split
    case isTrue h0 =>
      obtain ⟨htaken, hme, hrest⟩ := go_notes s (target w t) 2
      exact ⟨hme, fun _ => ⟨htaken, hrest⟩, fun hne => absurd h0 hne⟩
    case isFalse hne =>
      exact ⟨onlyMe_upd s _, fun h0 => absurd h0 hne, fun _ => by rw [State.me_upd]; exact ⟨rfl, rfl⟩⟩

/-! ### Modes (05 R140 to R142) -/

/-- The core after a trap. -/
def Core.trapped (c : Core) (code : BitVec 16) : Core :=
  { (c.enterTrap c.succ code).take c.handler 0 with needCk := true }

theorem exec_trap {s : State} (h : InCk s) (code : BitVec 16) : exec (.trap code) s = .next (s.upd (·.trapped code)) :=
  guarded_placed h _

/-- Settles O27: the fields that a trap writes. -/
theorem trapEntersSupervisor : Obligations.TrapEntersSupervisor := by
  intro s code hck
  refine completes_upd (exec_trap hck code) fun t ht hme => ?_
  rw [ht]
  exact ⟨rfl, rfl, rfl, rfl, rfl, rfl, hme, by simp only [Core.trapped, Core.enterTrap, Core.take]⟩

/-- The core after a return from a handler. -/
def Core.returned (c : Core) (slot : Bool) : Core :=
  { c.leaveTrap.take c.epc 0 with needCk := true, sv := slot || c.psv }

theorem chkTret_eq_none {s : State} (hck : InCk s) (hsv : s.cur.sv = true) : chkTret s = none := by
  rw [chkTret, placed_eq_none hck, State.privileged, hsv]; rfl

theorem exec_tret {s : State} (hck : InCk s) (hsv : s.cur.sv = true) :
    exec .tret s = .next (s.upd (·.returned (isSlot s.cur.core))) :=
  (congrArg (guarded s · _) (chkTret_eq_none hck hsv)).trans (guarded_none _ _)

/-- Settles O28: the mode and the word that a return takes are those that the trap saved. -/
theorem tretReturns : Obligations.TretReturns := by
  refine ⟨fun s hck hsv => completes_upd (exec_tret hck hsv) fun t ht hme => ?_, fun s t u code hck htrap hut hsv => ?_⟩
  · rw [ht]
    exact ⟨rfl, rfl, rfl, hme, by simp only [Core.returned, Core.leaveTrap, Core.take]⟩
  · obtain rfl : s.upd (·.trapped code) = t := Host.Outcome.next.inj ((exec_trap hck code).symm.trans htrap)
    rw [State.me_upd] at hut
    have hcku : InCk u := by rw [InCk, hut]; exact hck
    refine completes_upd (exec_tret hcku hsv) fun v hv _ => ?_
    rw [hv, hut]
    exact ⟨rfl, rfl⟩

/-- Settles O29: the first check that fails names the fault. -/
theorem privilegedFormsFault : Obligations.PrivilegedFormsFault := by
  intro s code tag htrial
  have hfault : ∀ (u : Option Use) (x : Use) (t : State), u = some x → guarded s u t = .next (s.deliverUse x) := by
    rintro _ x t rfl; exact guarded_some htrial x t
  refine ⟨fun hck hsv => hfault _ _ _ ?_, fun hsv hen => hfault _ _ _ ?_, fun hno => ⟨hfault _ _ _ (placed_eq_some hno),
    hfault _ _ _ ?_, hfault _ _ _ (placed_eq_some hno)⟩⟩
  · rw [chkTret, placed_eq_none hck, State.privileged, hsv]; rfl
  · rw [chkSnap, State.privileged, hsv, hen]; rfl
  · rw [chkTret, placed_eq_some hno]; rfl

/-! ### System registers (05 R144 to R148) -/

/-- The bits of EVT after a write that clears them. -/
theorem evt_cleared (e : BitVec 5) (v : Word) {k : Nat} (hk : k < 5) :
    (e &&& ~~~(v.setWidth 5 &&& 0x1E)).getLsbD k = (e.getLsbD k && !(decide (1 ≤ k) && v.getLsbD k)) := by
  have hbits : (0x1E : BitVec 5).getLsbD k = decide (1 ≤ k) := by
    revert hk; revert k; decide
  rw [BitVec.getLsbD_and, BitVec.getLsbD_not, BitVec.getLsbD_and, BitVec.getLsbD_setWidth, hbits]
  simp [hk, Bool.and_comm]

theorem chkSys_of_kind {s : State} {n : BitVec 16} {k : Nat} (h : sysKind n.toNat s.cur.sv = some k) (hk : 2 ≤ k) :
    chkSys n true s = none := by
  obtain ⟨k, rfl⟩ := Nat.exists_eq_add_of_le' hk
  simp only [chkSys, h]

/-- A supervisor's write of a register that the core holds changes the core alone. -/
theorem completes_syswr {s : State} {a : BitVec 5} (n : BitVec 16) (f : Core → Core) {k : Nat} {P : State → Prop}
    (hkind : sysKind n.toNat s.cur.sv = some k) (hk : 2 ≤ k) (hn : n ≠ 0x1B) (hf : ∀ c, c.sysPut n.toNat (s.me.gs a) = f c)
    (hP : ∀ t : State, t.me = f s.me → OnlyMe s t → P t) : Completes (.syswr n a) s P :=
  completes_upd (f := fun c => c.sysPut n.toNat (s.me.gs a))
    (((congrArg (guarded s · _) (chkSys_of_kind hkind hk)).trans (guarded_none _ _)).trans (congrArg _ (if_neg hn)))
    fun t ht hme => hP t (ht.trans (hf s.me)) hme

/-- Settles O31: each number's case of the write. -/
theorem systemRegisterWrite : Obligations.SystemRegisterWrite := by
  intro s a hsv v sets
  have hkind : ∀ {n k : Nat}, sysKind n true = some k → sysKind n s.cur.sv = some k := fun h => hsv ▸ h
  refine ⟨?_, ?_, ?_, ?_, ?_, ?_, ?_, ?_, ?_⟩
  · refine completes_syswr 0x10 (fun c => { c with snapen := v.getLsbD 1 }) (hkind rfl) le_rfl (by decide) (fun _ => rfl)
      fun t ht hme => ?_
    rw [ht]; exact ⟨⟨rfl, rfl⟩, hme, rfl⟩
  · refine completes_syswr 0x11 (fun c => { c with epc := v }) (hkind rfl) le_rfl (by decide) (fun _ => rfl) fun t ht hme => ?_
    rw [ht]; exact ⟨rfl, hme, rfl⟩
  · refine completes_syswr 0x12 (fun c => { c with psv := v.getLsbD 0 }) (hkind rfl) le_rfl (by decide) (fun _ => rfl)
      fun t ht hme => ?_
    rw [ht]; exact ⟨rfl, hme, rfl⟩
  · refine completes_syswr 0x13 (fun c => { c with ecode := v.setWidth 16 }) (hkind rfl) le_rfl (by decide) (fun _ => rfl)
      fun t ht hme => ?_
    rw [ht]; exact ⟨rfl, hme, rfl⟩
  · refine completes_syswr 0x14 (fun c => { c with svec := v.setWidth 9 }) (hkind rfl) le_rfl (by decide) (fun _ => rfl)
      fun t ht hme => ?_
    rw [ht]; exact ⟨rfl, hme, rfl⟩
  · refine completes_syswr 0x18 (fun c => { c with evt := c.evt &&& ~~~(v.setWidth 5 &&& 0x1E) }) (k := 3) (hkind rfl)
      (by decide) (by decide) (fun _ => rfl) fun t ht hme => ?_
    rw [ht]; exact ⟨fun k hk => evt_cleared _ v hk, hme, rfl⟩
  · refine completes_syswr 0x19 (fun c => { c with evmask := v }) (hkind rfl) le_rfl (by decide) (fun _ => rfl)
      fun t ht hme => ?_
    rw [ht]; exact ⟨rfl, hme, rfl⟩
  · refine completes_syswr 0x1A (fun c => { c with evgtc := v, armed := v != BitVec.allOnes 64 }) (hkind rfl) le_rfl (by decide)
      (fun _ => rfl) fun t ht hme => ?_
    rw [ht]; exact ⟨⟨rfl, rfl⟩, hme, rfl⟩
  · exact completes_upd rfl fun t ht hme => ⟨by rw [ht]; rfl, hme⟩

/-- What a write of EVSET sends. -/
theorem ringPeers_sent (s : State) (v : Word) :
    let t := s.ringPeers s.cur.core v
    (∃ l : List InSig, t.sigs = s.sigs ++ l ∧
      (∀ m, (∃ g ∈ l, g.target = m) ↔ m ∈ s.membersOf s.cur.core ∧ v.getLsbD (s.midx m) = true) ∧
      ∀ g ∈ l, g.k = 8 ∧ g.sender = s.cur.core ∧ g.due = if s.modeOf s.cur.core = 0 then none else some (s.me.vc + 1)) ∧
    { t with sigs := s.sigs } = s := by
  refine ⟨⟨_, rfl, fun m => ?_, fun g hg => ?_⟩, rfl⟩
  · simp [List.mem_map, List.mem_filter]
  · obtain ⟨m, -, rfl⟩ := List.mem_map.1 hg
    exact ⟨rfl, rfl, rfl⟩

/-- Settles O32: both forms ring the named members. -/
theorem peerEventsAreSent : Obligations.PeerEventsAreSent := by
  intro s a sent
  have hwr : exec (.syswr 0x1B a) s = .next (s.ringPeers s.cur.core (s.me.gs a)) :=
    ((congrArg (guarded s · _) (chkSys_of_kind (s := s) (n := 0x1B) (k := 4) rfl (by decide))).trans (guarded_none _ _)).trans
      (congrArg _ (if_pos rfl))
  exact ⟨⟨_, rfl, ringPeers_sent s (s.me.gs a)⟩, ⟨_, hwr, ringPeers_sent s (s.me.gs a)⟩⟩

/-! ### Waiting, fetch and snapshots (05 R149 to R151; 13 R358) -/

/-- Setting EVT.SNAP of every core. -/
theorem ringSnap_rings (s : State) :
    (∀ q, s.ringSnap.core q = if q < 288 then { s.core q with evt := (s.core q).evt ||| 8 } else s.core q) ∧
      { s.ringSnap with cores := s.cores } = s := by
  have key : ∀ (a n : Nat) (u : State),
      let t := (seqFrom a n).foldl (fun s p => s.updCore p (·.setEvt 3)) u
      (∀ q, t.core q = if a ≤ q ∧ q < a + n then { u.core q with evt := (u.core q).evt ||| 8 } else u.core q) ∧
        { t with cores := u.cores } = u := by
    intro a n
    induction n generalizing a with
    | zero =>
      intro u
      exact ⟨fun q => (if_neg (by omega)).symm, rfl⟩
    | succ n ih =>
      intro u
      obtain ⟨hcore, hrest⟩ := ih (a + 1) (u.updCore a (·.setEvt 3))
      refine ⟨fun q => ?_, ?_⟩
      · simp only [seqFrom, List.foldl_cons]
        rw [hcore]
        by_cases hq : q = a
        · subst hq
          rw [if_neg (by omega), if_pos (by omega), State.core_updCore_self]; rfl
        · rw [State.core_updCore_other _ _ hq]
          by_cases h : a + 1 ≤ q ∧ q < a + 1 + n
          · rw [if_pos h, if_pos (by omega)]
          · rw [if_neg h, if_neg (by omega)]
      · simp only [seqFrom, List.foldl_cons]
        exact congrArg (fun x : State => { x with cores := u.cores }) hrest
  obtain ⟨hcore, hrest⟩ := key 0 288 s
  exact ⟨fun q => (hcore q).trans (if_congr (by omega) rfl rfl), hrest⟩

theorem chkWfe_eq_none {s : State} (hck : InCk s) (hslots : ∀ x ∈ s.me.inIssue.slots, x.1 = 2) : chkWfe s = none := by
  have hall : s.me.inIssue.slots.all (fun x => x.1 == 2) = true := List.all_eq_true.2 fun x hx => beq_iff_eq.2 (hslots x hx)
  rw [chkWfe, show s.me.inIssue.ck = true from hck, hall]; rfl

theorem exec_wfe {s : State} (hck : InCk s) (hslots : ∀ x ∈ s.me.inIssue.slots, x.1 = 2) :
    exec .wfe s = .next (if (s.lock s.cur.core).all fun m => (s.core m).halted || (s.core m).eventPending then s
      else s.upd fun c => { c with again := true }) :=
  (congrArg (guarded s · _) (chkWfe_eq_none hck hslots)).trans (guarded_none _ _)

theorem waits_iff (s : State) : ((s.lock s.cur.core).all fun m => (s.core m).halted || (s.core m).eventPending) = true ↔
    ∀ m ∈ s.lock s.cur.core, (s.core m).halted = true ∨ (s.core m).eventPending = true := by
  simp only [List.all_eq_true, Bool.or_eq_true]

/-- The words that become usable at a fence of fetch. -/
theorem mem_fenceFetch_stale (s : State) (p : Nat) (x : Stale) : x ∈ (s.fenceFetch p).stale ↔ x ∈ s.stale ∧ ¬ (x.drained = true ∧
    ((ispAddr p 0 ≤ x.key ∧ x.key < ispAddr (p + 1) 0) ∨ (microAddr p 0 ≤ x.key ∧ x.key < microAddr (p + 1) 0) ∨
      (hcwAddr p 0 ≤ x.key ∧ x.key < hcwAddr (p + 1) 0))) := by
  simp only [State.fenceFetch, List.mem_filter, Bool.not_eq_true', ← Bool.not_eq_true, Bool.or_eq_true,
    Bool.and_eq_true, decide_eq_true_eq, or_assoc, not_and_or]

theorem exec_snap {s : State} (h : s.cur.sv = true ∨ s.me.snapen = true) (tag : BitVec 8) :
    exec (.snap tag) s = .next (s.trigger 0 tag s.cur.core) := by
  have hchk : chkSnap s = none := by
    rw [chkSnap, State.privileged, orUse_eq_none, Bool.or_eq_true]; exact h
  exact (congrArg (guarded s · _) hchk).trans (guarded_none _ _)

/-- What a trigger makes of the snapshot registers beside ringing. -/
def Snap.named (n : Snap) (src : Nat) (stamp : Word) (tag : Byte) (pcore : Nat) : Snap :=
  { n with src := BitVec.ofNat 4 src, stamp := stamp, tag := tag, pcore := BitVec.ofNat 9 pcore }

theorem trigger_of_disabled {s : State} {src : Nat} (h : s.snap.en.getLsbD src = false) (tag : Byte) (pcore : Nat) :
    s.trigger src tag pcore = s := by
  rw [State.trigger, h]; rfl

theorem ringSnap_frame (s : State) : s.ringSnap.snap = s.snap ∧ s.ringSnap.gtc = s.gtc ∧ s.ringSnap.mem = s.mem := by
  have h : SameWorld s s.ringSnap := (ringSnap_rings s).2
  exact ⟨sameWorld_field h State.snap fun _ _ => rfl, sameWorld_field h State.gtc fun _ _ => rfl,
    sameWorld_field h State.mem fun _ _ => rfl⟩

theorem trigger_of_armed {s : State} {src : Nat} (h : s.snap.en.getLsbD src = true) (ha : s.snap.armed = true) (tag : Byte)
    (pcore : Nat) : s.trigger src tag pcore = { s.ringSnap with
      snap := { s.snap.named src s.gtc tag pcore with armed := false, trig := true, fresh := false } } := by
  obtain ⟨hsnap, hgtc, -⟩ := ringSnap_frame s
  simp only [State.trigger, h, hsnap, hgtc, ha, Bool.not_true, Bool.false_eq_true, if_false, if_true, Snap.named]

theorem satInc_halfword (x : BitVec 16) : satInc x = if x = 0xFFFF then 0xFFFF else x + 1 := by
  rw [satInc, show BitVec.allOnes 16 = 0xFFFF from rfl]
  split
  case isTrue h => exact h
  case isFalse => rfl

theorem trigger_of_unarmed {s : State} {src : Nat} (h : s.snap.en.getLsbD src = true) (ha : s.snap.armed = false) (tag : Byte)
    (pcore : Nat) : s.trigger src tag pcore = { s.ringSnap with
      snap := { (if (s.snap.trig = true ∨ s.snap.fresh = true) ∧ s.snap.stamp = s.gtc ∧ src < s.snap.src.toNat
          then s.snap.named src s.gtc tag pcore else s.snap) with
        missed := if s.snap.missed = 0xFFFF then 0xFFFF else s.snap.missed + 1 } } := by
  obtain ⟨hsnap, hgtc, -⟩ := ringSnap_frame s
  simp only [State.trigger, h, hsnap, hgtc, ha, Bool.not_true, Bool.false_eq_true, if_false, Snap.named, satInc_halfword]

/-- Ringing every core and writing the snapshot registers changes nothing else. -/
theorem rings_with_snap {s u : State} (n : Snap) (hrest : { u with cores := s.cores } = s)
    (hcore : ∀ q, u.core q = if q < 288 then { s.core q with evt := (s.core q).evt ||| 8 } else s.core q) :
    let t : State := { u with snap := n }
    t.snap = n ∧ (∀ q, t.core q = if q < 288 then { s.core q with evt := (s.core q).evt ||| 8 } else s.core q) ∧
      (∀ a, t.byte a = s.byte a) ∧ { t with cores := s.cores, snap := s.snap } = s := by
  have hbyte : ∀ a, u.byte a = s.byte a := fun a => sameWorld_field (s := s) hrest (State.byte · a) fun _ _ => rfl
  have hworld : { ({ u with snap := n } : State) with cores := s.cores, snap := s.snap } = s :=
    calc _ = { ({ u with cores := s.cores } : State) with snap := s.snap } := rfl
      _ = s := by rw [hrest]
  exact ⟨rfl, hcore, hbyte, hworld⟩

/-- Settles O33: the wait by its condition, the fence by its filter, the trigger by its cases. -/
theorem waitsFencesAndSnaps : Obligations.WaitsFencesAndSnaps := by
  refine ⟨fun s hck hslots => ⟨fun hgo => ⟨s, ?_, rfl⟩, fun hno => ?_⟩,
    fun s => ⟨_, rfl, rfl, mem_fenceFetch_stale s s.cur.core⟩, fun s tag hmay => ?_⟩
  · rw [exec_wfe hck hslots, if_pos ((waits_iff s).2 hgo)]
  · refine completes_upd ((exec_wfe hck hslots).trans (congrArg _ (if_neg fun h => hno ((waits_iff s).1 h)))) fun t ht hme => ?_
    rw [ht]; exact ⟨rfl, hme, rfl⟩
  · intro named rings
    have hsnap := exec_snap hmay tag
    obtain ⟨hcore, hrest⟩ := ringSnap_rings s
    refine ⟨fun hoff => ⟨s, ?_, rfl⟩, fun hon harmed => ?_, fun hon harmed => ?_⟩
    · rw [hsnap, trigger_of_disabled hoff]
    · exact ⟨_, hsnap.trans (congrArg _ (trigger_of_armed hon harmed tag s.cur.core)), rings_with_snap _ hrest hcore⟩
    · exact ⟨_, hsnap.trans (congrArg _ (trigger_of_unarmed hon harmed tag s.cur.core)), rings_with_snap _ hrest hcore⟩

/-! ### Reading a logged register where the audit log cannot be written (05 R144; 16 R403, R407; 19 R451) -/

/-- Core 0 runs a sampled unit; the audit log takes up the last 7 bytes of core 35's vault and goes on in that of core 36,
whose V-die is abruptly offline; the error ring lies in the vault of core 0. Nothing stored is damaged. -/
def auditLogGone : State :=
  { cores := [(0, { unit := some (0, 0, 0) })],
    units := [{ ctx := 0, lid := 0, u := 0, mode := 0, size := 1, prio := 1, members := [0], slot := 0, sampled := true }],
    err := { audlog := 0x10011FFFFF9, audlen := 0x1000, dabr := 2, en := true, corr := true, base := 0x10000000000, n := 0 } }

/-- A stored byte after an instruction, where it answers a next state. -/
def byteAfter (i : Instr) (s : State) (a : Nat) : Option Byte := match exec i s with | .next t => some (t.byte a) | _ => none

theorem byteAfter_of_next {i : Instr} {s t : State} (h : exec i s = .next t) (a : Nat) : byteAfter i s a = some (t.byte a) := by
  rw [byteAfter, h]

/-- The last byte of the input finds the vault gone, and its record's KIND stands in the ring. -/
theorem auditLogGone_kind : byteAfter (.sysrd 1 0) auditLogGone (0x10000000000 + 45) = some 0x0C := by decide +kernel

/-- Refutes O30, its second part: reading the GTC in a sampled unit writes the audit log; where that log reaches into
a vault of a V-die that is abruptly offline, the write's finding is recorded in the error ring, bytes that are none of the log's. -/
theorem not_systemRegisterRead : ¬ Obligations.SystemRegisterRead := by
  intro h
  obtain ⟨t, ht, -, -, -, hbyte⟩ := (h auditLogGone 1 0 1 rfl le_rfl).2 ⟨⟨rfl, rfl⟩, rfl, rfl⟩
  have hkept : t.byte (0x10000000000 + 45) = 0 := hbyte _ (by unfold OffLog; decide)
  have hkind := (byteAfter_of_next ht _).symm.trans auditLogGone_kind
  rw [hkept] at hkind
  exact absurd hkind (by decide)

end Sys2Proof.Machine
end

section
/-! SUPPORT. Loads and stores of the S slot (05 R132 to R136): their checks, and the one gate entry of a store. -/

namespace Sys2Proof.Machine

-- one proof after another: the memory of the whole text stands under one limit
set_option Elab.async false

open Sys2Proof Safety

/-! ### Bytes of a word as cells -/

theorem aligned_iff {a k : Nat} : aligned a k = true ↔ a % k = 0 := by
  simp [aligned]

theorem toBytes_eq_map (n x : Nat) : toBytes n x = (List.range n).map fun k => BitVec.ofNat 8 (x / 256 ^ k) := by
  induction n generalizing x with
  | zero => rfl
  | succ n ih =>
    rw [toBytes, ih, List.range_succ_eq_map, List.map_cons, List.map_map]
    simp [Function.comp_def, Nat.div_div_eq_div_mul, Nat.pow_succ']

theorem toBytes_length (n x : Nat) : (toBytes n x).length = n := by simp [toBytes_eq_map]

/-- Byte `k` of a word. -/
theorem ofNat_byte (w : Word) (k : Nat) : BitVec.ofNat 8 (w.toNat / 256 ^ k) = w.extractLsb' (8 * k) 8 := by
  refine BitVec.eq_of_toNat_eq ?_
  rw [BitVec.toNat_ofNat, BitVec.extractLsb'_toNat, Nat.shiftRight_eq_div_pow, Nat.pow_mul]

theorem seqFrom_eq_map (a n : Nat) : seqFrom a n = (List.range n).map fun k => a + k := by
  rw [seqFrom_eq_range', List.range'_eq_map_range]

/-- The cells of a stored word, lowest byte first. -/
theorem cellsAt_word (a n : Nat) (w : Word) :
    cellsAt a (toBytes n w.toNat) = (List.range n).map fun k => (a + k, w.extractLsb' (8 * k) 8) := by
  rw [cellsAt, toBytes_length, toBytes_eq_map, seqFrom_eq_map, List.zip_map', List.map_congr_left]
  intro k _
  rw [ofNat_byte]

theorem distinct_of_all_eq {l : List Nat} {b : Nat} (hne : l ≠ []) (h : ∀ x ∈ l, x = b) : distinct l = [b] := by
  have hstay : ∀ l : List Nat, (∀ x ∈ l, x = b) → l.foldl (fun r x => if r.contains x then r else r ++ [x]) [b] = [b] := by
    intro l
    induction l with
    | nil => intro _; rfl
    | cons x l ih =>
      intro hl
      rw [List.foldl_cons, hl x (List.mem_cons_self ..)]
      simpa using ih fun y hy => hl y (List.mem_cons_of_mem _ hy)
  cases l with
  | nil => exact absurd rfl hne
  | cons x l =>
    rw [distinct, List.foldl_cons, h x (List.mem_cons_self ..)]
    exact hstay l fun y hy => h y (List.mem_cons_of_mem _ hy)

/-- Cells of one block take one gate entry. -/
theorem gate_one_block (s : State) (f : Form) {cells : List (Nat × Byte)} (rel : Bool) {b : Nat} (hne : cells ≠ [])
    (h : ∀ x ∈ cells, x.1 / 64 = b) :
    (s.gate f cells rel).me.gate = s.me.gate ++
      [{ form := f, cells := cells, issue := s.me.vc, ord := s.cur.slot.toNat, rel := rel, sv := s.cur.sv, enc := s.cur.enc }] := by
  have hblocks : blocksOf cells = [b] := distinct_of_all_eq (by simpa using hne) (List.forall_mem_map.2 h)
  have hall : cells.filter (fun x => x.1 / 64 == b) = cells := List.filter_eq_self.2 fun x hx => beq_iff_eq.2 (h x hx)
  rw [gate_gate, hblocks, List.map_singleton, hall]

/-- The cells of an aligned word lie in one block. -/
theorem cellsAt_one_block {a n : Nat} (hn : n ∣ 64) (ha : a % n = 0) (x : Nat) :
    ∀ c ∈ cellsAt a (toBytes n x), c.1 / 64 = a / 64 := by
  intro c hc
  have hmem := (List.of_mem_zip hc).1
  rw [mem_seqFrom, toBytes_length] at hmem
  obtain ⟨m, hm⟩ := hn
  have h1 : a / 64 = a / n / m := by rw [Nat.div_div_eq_div_mul, ← hm]
  have h2 : c.1 / 64 = c.1 / n / m := by rw [Nat.div_div_eq_div_mul, ← hm]
  have hq : c.1 / n = a / n := by
    have hn0 : 0 < n := Nat.pos_of_ne_zero (by rintro rfl; simp at hm)
    have hdiv : a = n * (a / n) := by have := Nat.div_add_mod a n; omega
    refine Nat.div_eq_of_lt_le ?_ ?_
    · rw [Nat.mul_comm, ← hdiv]; exact hmem.1
    · rw [Nat.add_mul, Nat.mul_comm (a / n), ← hdiv]; omega
  rw [h1, h2, hq]

theorem cellsAt_ne_nil {a n : Nat} (hn : n ≠ 0) (x : Nat) : cellsAt a (toBytes n x) ≠ [] := by
  intro h
  have := congrArg List.length h
  rw [cellsAt, List.length_zip, seqFrom_length, toBytes_length] at this
  simp at this; exact hn this

/-- Gating an aligned word: one entry that holds its bytes. -/
theorem gate_word (s : State) (f : Form) {a n : Nat} (w : Word) (rel : Bool) (hn : n ∣ 64) (ha : a % n = 0) :
    let t := s.gate f (cellsAt a (toBytes n w.toNat)) rel
    OnlyGate s t ∧ ∃ e : Gated, t.me.gate = s.me.gate ++ [e] ∧ e.form = f ∧ e.atom = none ∧
      e.cells = (List.range n).map (fun k => (a + k, w.extractLsb' (8 * k) 8)) ∧
      e.issue = s.me.vc ∧ e.entry = true ∧ e.rel = rel ∧ e.sv = s.cur.sv := by
  have hn0 : n ≠ 0 := by rintro rfl; simp at hn
  exact ⟨gate_onlyGate s f _ rel, _, gate_one_block s f rel (cellsAt_ne_nil hn0 _) (cellsAt_one_block hn ha _), rfl, rfl,
    cellsAt_word a n w, rfl, rfl, rfl, rfl⟩

/-! ### The own vault (05 R132, R133) -/

theorem localUse_eq_none {s : State} {ea : Word} {n : Nat} {wr : Bool} (h : LocalOk s ea n wr) :
    s.localUse ea.toNat n wr = none := by
  obtain ⟨hsize, hal, htable⟩ := h
  have ht : (!wr || isSlot s.cur.core || decide (ea.toNat + n ≤ regionTable)) = true := by
    cases wr with
    | false => rfl
    | true =>
      cases hs : isSlot s.cur.core with
      | true => rfl
      | false => simpa using htable rfl hs
  rw [State.localUse, State.alignUse, aligned_iff.2 hal, ht, decide_eq_true hsize]
  rfl

theorem gateUse_eq_none {s : State} {n : Nat} (h : GateRoom s n) : s.gateUse n = none := by
  rw [State.gateUse, decide_eq_true (show s.me.gateUsed + n ≤ 256 from h), orUse_true]

theorem loadS_completes {s : State} {n : Nat} (r : BitVec 5) (a : BitVec 4) (imm : BitVec 16) {i : Instr}
    (hi : exec i s = s.loadS n r a imm) (hok : LocalOk s (s.eaS a imm) n false) :
    Completes i s fun t => OnlyPend s t ∧
      Gains s t (inFlight s (.s r.toNat) (.load .l [{ key := 0, addr := (s.eaS a imm).toNat, width := n }] true false) 5 5) := by
  refine ⟨_, hi.trans ((congrArg (guarded s · _) (localUse_eq_none hok)).trans (guarded_none _ _)), ?_⟩
  exact (fly_gives s _ _ 5 5 id).symm

/-- Settles O34: one lemma for the four widths. -/
theorem vaultLoads : Obligations.VaultLoads := by
  intro s r a imm ea loads
  exact ⟨loadS_completes r a imm rfl, loadS_completes r a imm rfl,
    loadS_completes r a imm rfl, loadS_completes r a imm rfl⟩

theorem storeS_completes {s : State} {n : Nat} (hn : n ∣ 64) (r : BitVec 5) (a : BitVec 4) (imm : BitVec 16) {i : Instr}
    (hi : exec i s = s.storeS n r a imm) (hok : LocalOk s (s.eaS a imm) n true) (hroom : GateRoom s 1) :
    Completes i s fun t => OnlyGate s t ∧ ∃ e : Gated, t.me.gate = s.me.gate ++ [e] ∧ e.form = .l ∧ e.atom = none ∧
      e.cells = (List.range n).map (fun k => ((s.eaS a imm).toNat + k, (s.me.gs r).extractLsb' (8 * k) 8)) ∧
      e.issue = s.me.vc ∧ e.entry = true ∧ e.rel = false ∧ e.sv = s.cur.sv := by
  have hchk : chkSst n a imm s = none := by
    rw [chkSst, localUse_eq_none hok, gateUse_eq_none hroom]; rfl
  exact ⟨_, hi.trans ((congrArg (guarded s · _) hchk).trans (guarded_none _ _)), gate_word s .l _ false hn hok.2.1⟩

/-- Settles O35: one lemma for the four widths. -/
theorem vaultStores : Obligations.VaultStores := by
  intro s r a imm ea stores
  exact ⟨storeS_completes (by decide) r a imm rfl, storeS_completes (by decide) r a imm rfl,
    storeS_completes (by decide) r a imm rfl, storeS_completes (by decide) r a imm rfl⟩

/-- The alignment of an own-vault access is checked first. -/
theorem localUse_of_misaligned {s : State} {ea n : Nat} (h : ea % n ≠ 0) (wr : Bool) :
    s.localUse ea n wr = some (s.use { cause := 0x25, pa := ea }) := by
  have hal : aligned ea n = false := Bool.eq_false_iff.2 fun ha => h (aligned_iff.1 ha)
  rw [State.localUse, State.alignUse, hal, orUse_false, firstUse_some]; rfl

theorem loadS_faults {s : State} (htrial : s.trial = none) {n : Nat} (r : BitVec 5) (a : BitVec 4) (imm : BitVec 16)
    (h : (s.eaS a imm).toNat % n ≠ 0) :
    s.loadS n r a imm = .next (s.deliverUse (s.use { cause := 0x25, pa := (s.eaS a imm).toNat })) := by
  rw [State.loadS, chkSld, localUse_of_misaligned h, guarded_some htrial]

theorem storeS_faults {s : State} (htrial : s.trial = none) {n : Nat} (r : BitVec 5) (a : BitVec 4) (imm : BitVec 16)
    (h : (s.eaS a imm).toNat % n ≠ 0) :
    s.storeS n r a imm = .next (s.deliverUse (s.use { cause := 0x25, pa := (s.eaS a imm).toNat })) := by
  rw [State.storeS, chkSst, localUse_of_misaligned h, firstUse_some, guarded_some htrial]

/-- Settles O36: the alignment check comes first for loads and for stores. -/
theorem misalignedAccessFaults : Obligations.MisalignedAccessFaults := by
  intro s r a imm htrial ea faults
  exact ⟨fun _ => loadS_faults htrial r a imm, fun _ => loadS_faults htrial r a imm, fun _ => loadS_faults htrial r a imm,
    fun _ => storeS_faults htrial r a imm, fun _ => storeS_faults htrial r a imm, fun _ => storeS_faults htrial r a imm⟩

/-! ### G-space (05 R134 to R136) -/

theorem globalUse_eq_none {s : State} {ea : Word} {n : Nat} (hlt : ea.toNat < 2 ^ 56) (hal : ea.toNat % n = 0)
    (wr : Bool) : s.globalUse ea n wr = none := by
  rw [State.globalUse, State.alignUse, aligned_iff.2 hal, decide_eq_true hlt]; rfl

theorem gWidth_dvd (wid : BitVec 2) : gWidth wid ∣ 64 := by
  have h : ∀ k < 4, 2 ^ k ∣ 64 := by decide
  exact h wid.toNat wid.isLt

/-- An irrevocable operation that has not performed performs and is marked. -/
theorem irrevocable_first {s : State} (h : FirstTime s) (d : Dest) (lat : Nat) (f : State → State) :
    s.irrevocable d lat f = f s.markDone := by
  obtain ⟨-, hdone, hsec⟩ := h
  rw [State.irrevocable, hdone, hsec]; rfl

/-- The mark of an operation that performs, and its result in flight. -/
theorem markDone_fly (s : State) (d : Dest) (x : Src) (perf lat : Nat) (f : Pending → Pending) :
    let t := s.markDone.fly d x perf lat f
    Gains s t (f (inFlight s d x perf lat)) ∧ Marks s t ∧ OnlyMe s t ∧
      { t.me with pend := s.me.pend, irrevNew := s.me.irrevNew } = s.me := by
  have hme : (s.markDone.fly d x perf lat f).me = { s.markDone.me with pend := s.markDone.me.pend ++
      [f (inFlight s.markDone d x perf lat)] } := State.me_upd _ _
  have hmark : s.markDone.me = { s.me with irrevNew := { s.me.irrevNew with done := s.me.irrevNew.done ++ [s.irrevKey] } } :=
    State.me_upd s _
  refine ⟨?_, ?_, onlyMe_trans (onlyMe_upd s _) (onlyMe_upd _ _) rfl, ?_⟩
  · rw [Gains, hme, inFlight, hmark]; rfl
  · rw [Marks, hme, hmark]
  · rw [hme, hmark]

/-- Settles O37: the load in flight, the gated store, and the marked MMIO write. -/
theorem globalAccess : Obligations.GlobalAccess := by
  intro s r a off wid o inv ea n hlt hal
  have hea : ea = s.eaG a off := rfl
  have hg : ∀ wr, s.globalUse (s.eaG a off) (gWidth wid) wr = none := globalUse_eq_none hlt hal
  refine ⟨?_, fun hmm hroom => ?_, fun hmm hfirst => ?_⟩
  · refine ⟨_, (congrArg (guarded s · _) (hg false)).trans (guarded_none _ _), ?_⟩
    exact (fly_gives s _ _ 8 8 _).symm
  · have hchk : chkGst a off wid s = none := by
      rw [chkGst, hg true, gateUse_eq_none hroom, ← hea, hmm]; rfl
    refine ⟨_, (congrArg (guarded s · _) hchk).trans ((guarded_none _ _).trans (congrArg _ (if_neg (by rw [← hea, hmm]; decide)))), ?_⟩
    obtain ⟨honly, e, hgate, hform, hatom, hcells, hissue, hentry, hrel, hsv⟩ := gate_word s .g (s.me.gs r) o (gWidth_dvd wid) hal
    exact ⟨honly, e, hgate, hform, hatom, hentry, hissue, hsv, hcells, hrel⟩
  · have hchk : chkGst a off wid s = none := by
      rw [chkGst, hg true, ← hea, hmm]; rfl
    refine ⟨_, (congrArg (guarded s · _) hchk).trans ((guarded_none _ _).trans (congrArg _ ((if_pos (hea ▸ hmm)).trans
      (irrevocable_first hfirst _ _ _)))), ?_⟩
    exact markDone_fly s .none _ 1 8 _

end Sys2Proof.Machine
end

section
/-! SUPPORT. Landing of results known at issue, and the end of a repetition (04 R89, R96, R99; 05 R125, R128 to R131). -/

namespace Sys2Proof.Machine

-- one proof after another: the memory of the whole text stands under one limit
set_option Elab.async false

open Sys2Proof Safety

/-! ### A landing at which no access performs and no damage is met (04 R96, R99) -/

theorem landSigs_of_nil {s : State} (h : s.sigs = []) (p m : Nat) : s.landSigs p m = s := by
  simp only [State.landSigs, h, List.filter_nil, List.foldl_nil]
  rw [← h]

/-- A fold whose every step leaves its start as it is. -/
theorem foldl_fixed {α β : Type} (f : α → β → α) (a : α) (l : List β) (h : ∀ x ∈ l, f a x = a) : l.foldl f a = a := by
  induction l with
  | nil => rfl
  | cons x l ih =>
    rw [List.foldl_cons, h x (List.mem_cons_self ..)]
    exact ih fun y hy => h y (List.mem_cons_of_mem _ hy)

/-- No access of the agent performs at a vc that is no result's time to perform. -/
theorem performPhase_of_none {s : State} {p m : Nat} (h : ∀ x ∈ (s.core p).pend, x.perform ≠ m) (ck : List Nat) (writes : Bool) :
    s.performPhase p m ck writes = s := by
  refine foldl_fixed _ s _ fun i _ => ?_
  cases hx : (s.core p).pend[i]? with
  | none => rfl
  | some x => simp only [h x (List.mem_of_getElem? hx), false_and, if_false]

theorem logTogether_nil {s : State} (h : s.held = none) : s.logTogether [] = s := by
  simp only [State.logTogether, h]; rfl

theorem insertPend_perm (x : Pending) (l : List Pending) : (insertPend x l).Perm (x :: l) := by
  induction l with
  | nil => exact .refl _
  | cons y l ih =>
    rw [insertPend]
    split
    · exact .refl _
    · exact (ih.cons y).trans (.swap x y l)

theorem sortPend_perm (l : List Pending) : (sortPend l).Perm l := by
  have hfold : ∀ l r : List Pending, (l.foldl (fun r x => insertPend x r) r).Perm (l ++ r) := by
    intro l
    induction l with
    | nil => exact fun r => .refl r
    | cons x l ih =>
      intro r
      exact (ih _).trans (((insertPend_perm x r).append_left l).trans List.perm_middle)
  exact (hfold l []).trans (by rw [List.append_nil])

theorem mem_landing {c : Core} {m : Nat} {x : Pending} : x ∈ c.landing m ↔ x ∈ c.pend ∧ x.land = m := by
  rw [Core.landing, (sortPend_perm _).mem_iff, List.mem_filter, beq_iff_eq]

/-- What lands of a core whose results have no access at this vc and no damage. -/
theorem landAll_quiet {s : State} {p m : Nat} (hsigs : s.sigs = [])
    (h : ∀ x ∈ (s.core p).pend, x.perform ≠ m ∧ x.dmg.cls = 0) (ck : List Nat) :
    s.landAll [p] m ck = ((s.core p).landing m).foldl (fun s x => s.landOne p x)
      (({ s with held := none } : State).updCore p fun c => { c with pend := c.pend.filter fun x => x.land != m, holdAt := true }) := by
  have hsig : s.holdRecs.landSigs p m = s.holdRecs := landSigs_of_nil (s := s.holdRecs) hsigs p m
  have hperf : ∀ w, s.holdRecs.performPhase p m ck w = s.holdRecs := fun w =>
    performPhase_of_none (s := s.holdRecs) (fun x hx => (h x hx).1) ck w
  have hdmg : ∀ x ∈ (s.core p).landing m, x.dmg.cls = 0 := fun x hx => (h x (mem_landing.1 hx).1).2
  have hwrites : State.writesAt m ck [p] s.holdRecs = s.holdRecs := by
    simp only [State.writesAt, hperf, List.any_nil, Bool.and_false, Bool.false_and, Bool.false_eq_true, if_false]
  have htold : s.holdRecs.tolerated [p] m = [] := by
    simp only [State.tolerated, List.flatMap_singleton]
    exact List.filterMap_eq_nil_iff.2 fun x hx => if_neg fun hc => hc.1 (hdmg x hx)
  have hnone : ({ s.holdRecs with held := none } : State).consumed [p] m = [] := by
    simp only [State.consumed, List.flatMap_singleton]
    rw [show (List.filterMap _ _ : List (Nat × Damage)) = [] from
      List.filterMap_eq_nil_iff.2 fun x hx => if_pos (.inl (hdmg x hx))]
    rfl
  simp only [State.landAll, List.foldl_cons, List.foldl_nil, hsig, hwrites, hperf, htold, hnone]
  rw [show s.holdRecs.held.getD [] ++ [] = [] from rfl, logTogether_nil rfl]
  rfl

/-- What a landing at vc `m` leaves of a core before its results are written. -/
def Core.cleared (c : Core) (m : Nat) : Core := { c with pend := c.pend.filter fun x => x.land != m, holdAt := true }

/-- The state in which the results of the acting agent's vc are written. -/
def State.cleared (s : State) : State := ({ s with held := none } : State).upd (·.cleared s.me.vc)

theorem State.cleared_cur (s : State) : s.cleared.cur = s.cur := rfl
theorem State.cleared_me (s : State) : s.cleared.me = s.me.cleared s.me.vc := State.me_upd { s with held := none } _
theorem State.cleared_byte (s : State) (a : Nat) : s.cleared.byte a = s.byte a := rfl
theorem State.cleared_core_other (s : State) {q : Nat} (h : q ≠ s.cur.core) : s.cleared.core q = s.core q :=
  State.core_updCore_other _ _ h

theorem exec_resultLanding {s : State} (htogether : s.together s.cur.core = [s.cur.core]) (hsigs : s.sigs = [])
    (h : ∀ x ∈ s.me.pend, x.perform ≠ s.me.vc ∧ x.dmg.cls = 0) :
    exec .resultLanding s = .next ((s.me.landing s.me.vc).foldl (fun t x => t.landOne s.cur.core x) s.cleared) := by
  show Host.Outcome.next (s.landAll (s.together s.cur.core) s.me.vc (s.atCk (s.together s.cur.core))) = _
  rw [htogether, landAll_quiet hsigs h]
  rfl

/-- A word for a scalar register of the acting agent lands in it. -/
theorem landOne_scalar {s : State} {p : Nat} (hp : s.cur.core = p) {x : Pending} {r : Nat} {w : Word} (hd : x.dest = .s r)
    (hw : x.src = .word w) : s.landOne p x = s.upd fun c => c.setS r w := by
  simp only [State.landOne, hd, hw, ← hp]; rfl

theorem Core.landing_of_filter {c : Core} {m : Nat} {x : Pending} (h : c.pend.filter (fun x => x.land == m) = [x]) :
    c.landing m = [x] := by
  rw [Core.landing, h]; rfl

theorem landing_nil {c : Core} {m : Nat} (h : ∀ x ∈ c.pend, x.land ≠ m) : c.landing m = [] :=
  List.eq_nil_iff_forall_not_mem.2 fun x hx => h x (mem_landing.1 hx).1 (mem_landing.1 hx).2

/-- Two results are put in their order (04 R99). -/
theorem sortPend_pair {x y : Pending} {l : List Pending} (hl : l = [x, y] ∨ l = [y, x])
    (h : x.issue < y.issue ∨ (x.issue = y.issue ∧ x.ord < y.ord)) : sortPend l = [x, y] := by
  have h' : ¬ (y.issue < x.issue ∨ (y.issue = x.issue ∧ y.ord < x.ord)) := by omega
  obtain rfl | rfl := hl
  · simp only [sortPend, List.foldl_cons, List.foldl_nil, insertPend, h', if_false]
  · simp only [sortPend, List.foldl_cons, List.foldl_nil, insertPend, h, if_true]

/-- Settles O20: the landing vc writes the register by `setS`, which leaves s0; another vc lands nothing. -/
theorem scalarResultLands : Obligations.ScalarResultLands := by
  intro s x d w p c htogether hpend hdest hsrc hperf _ hdmg hsigs
  have hmem : ∀ y ∈ c.pend, y = x := fun y hy => List.mem_singleton.1 (hpend ▸ hy)
  have hexec := exec_resultLanding (s := s) htogether hsigs fun y hy => by rw [hmem y hy]; exact ⟨hperf, hdmg⟩
  by_cases hland : x.land = c.vc
  · have hl : c.landing c.vc = [x] := Core.landing_of_filter (by rw [hpend, List.filter_singleton, hland, beq_self_eq_true, cond_true])
    have hp : c.pend.filter (fun x => x.land != c.vc) = [] := by
      rw [hpend, List.filter_singleton, hland, bne_self_eq_false, cond_false]
    rw [hl, List.foldl_cons, List.foldl_nil, landOne_scalar (s.cleared_cur ▸ rfl) hdest hsrc] at hexec
    refine ⟨_, hexec, fun a => s.cleared_byte a, fun q hq => ?_, fun _ => ?_, fun h => absurd hland h⟩
    · exact (State.core_updCore_other _ _ hq).trans (s.cleared_core_other hq)
    · rw [State.me_upd, s.cleared_me]
      refine ⟨?_, fun r => Core.gs_setS _ d r w, ?_⟩
      · rw [Core.setS]; split <;> exact hp
      · rw [Core.setS]; split <;> rfl
  · have hl : c.landing c.vc = [] := landing_nil fun y hy => by rw [hmem y hy]; exact hland
    have hp : c.pend.filter (fun x => x.land != c.vc) = c.pend := by
      rw [hpend, List.filter_singleton, bne_iff_ne.2 hland, cond_true]
    rw [hl, List.foldl_nil] at hexec
    refine ⟨_, hexec, fun a => s.cleared_byte a, fun q hq => s.cleared_core_other hq, fun h => absurd h hland, fun _ => ?_⟩
    rw [s.cleared_me, Core.cleared, hp]

/-- Settles O21: the results that land together are written in the order of 04 R99, so the later one stays. -/
theorem laterResultPrevails : Obligations.LaterResultPrevails := by
  intro s x y d v w p c htogether hpend hdx hdy hx hy hlx hly hpx hpy _ _ hdmgx hdmgy hsigs hd hlater
  have hmem : ∀ z ∈ c.pend, z = x ∨ z = y := fun z hz => by
    obtain h | h := hpend <;> rw [h] at hz <;> simp only [List.mem_cons, List.not_mem_nil, or_false] at hz <;> tauto
  have hexec := exec_resultLanding (s := s) htogether hsigs fun z hz => by
    obtain rfl | rfl := hmem z hz
    exacts [⟨hpx, hdmgx⟩, ⟨hpy, hdmgy⟩]
  have hall : c.pend.filter (fun x => x.land == c.vc) = c.pend := List.filter_eq_self.2 fun z hz => by
    obtain rfl | rfl := hmem z hz
    exacts [beq_iff_eq.2 hlx, beq_iff_eq.2 hly]
  have hl : c.landing c.vc = [x, y] := by rw [Core.landing, hall, sortPend_pair hpend hlater]
  rw [hl, List.foldl_cons, List.foldl_cons, List.foldl_nil, landOne_scalar (s.cleared_cur ▸ rfl) hdx hx, landOne_scalar (by rw [State.upd_cur, s.cleared_cur]) hdy hy] at hexec
  refine ⟨_, hexec, ?_⟩
  rw [State.me_upd, Core.gs_setS, if_pos ⟨rfl, hd⟩]

/-! ### The end of a repetition (04 R89; 05 R125, R128 to R131) -/

/-- The body of level `x` holds word `y`, and its end is `nxt`. -/
def Loop.EndsAt (x : Loop) (y nxt : Word) : Prop := x.start.toNat ≤ y.toNat ∧ y.toNat < x.stop.toNat ∧ nxt = x.stop

theorem loopEnd_nil (y nxt : Word) (n : Nat) : loopEnd y nxt n [] = ([], nxt) := by cases n <;> rfl

/-- A level that does not end here stays, and control goes on. -/
theorem loopEnd_of_not_endsAt {x : Loop} {y nxt : Word} (h : ¬ x.EndsAt y nxt) (n : Nat) (l : List Loop) :
    loopEnd y nxt n (l ++ [x]) = (l ++ [x], nxt) := by
  cases n with
  | zero => rfl
  | succ n =>
    simp only [loopEnd, List.getLast?_concat]
    exact if_neg h

/-- A level that ends here at another count than 1 counts down, and control goes to its start. -/
theorem loopEnd_of_count_ne_one {x : Loop} {y nxt : Word} (h : x.EndsAt y nxt) (hc : x.count ≠ 1) (n : Nat) (l : List Loop) :
    loopEnd y nxt (n + 1) (l ++ [x]) = (l ++ [{ x with count := x.count - 1 }], x.start) := by
  have hc' : x.count - 1 ≠ 0 := fun h0 => hc (sub_eq_zero.1 h0)
  simp only [loopEnd, List.getLast?_concat, List.dropLast_concat]
  exact (if_pos h).trans (if_pos hc')

/-- A level that ends here at count 1 is popped, and the next level is looked at. -/
theorem loopEnd_of_count_one {x : Loop} {y nxt : Word} (h : x.EndsAt y nxt) (hc : x.count = 1) (n : Nat) (l : List Loop) :
    loopEnd y nxt (n + 1) (l ++ [x]) = loopEnd y nxt n l := by
  simp only [loopEnd, List.getLast?_concat, List.dropLast_concat, hc]
  exact if_pos h

/-- Levels at count 1 that end together are popped together. -/
theorem loopEnd_pops {y nxt : Word} (a b : List Loop) (hb : ∀ x ∈ b, x.EndsAt y nxt ∧ x.count = 1) (n : Nat) :
    loopEnd y nxt (b.length + n) (a ++ b) = loopEnd y nxt n a := by
  induction b using List.reverseRecOn with
  | nil => rw [List.append_nil, List.length_nil, Nat.zero_add]
  | append_singleton b x ih =>
    obtain ⟨hx, hc⟩ := hb x (by simp)
    rw [List.length_append, List.length_singleton, Nat.add_right_comm, ← List.append_assoc, loopEnd_of_count_one hx hc,
      ih fun z hz => hb z (List.mem_append_left _ hz)]

/-- LoopEnd with the fuel of five steps for at most four levels (05 R128). -/
theorem loopEnd_five {y nxt : Word} (a b : List Loop) (hlen : (a ++ b).length ≤ 4)
    (hb : ∀ x ∈ b, x.EndsAt y nxt ∧ x.count = 1) :
    ((∀ x, a.getLast? = some x → ¬ x.EndsAt y nxt) → loopEnd y nxt 5 (a ++ b) = (a, nxt)) ∧
    ∀ (x : Loop) (r : List Loop), a = r ++ [x] → x.EndsAt y nxt → x.count ≠ 1 →
      loopEnd y nxt 5 (a ++ b) = (r ++ [{ x with count := x.count - 1 }], x.start) := by
  rw [List.length_append] at hlen
  have hpop : loopEnd y nxt 5 (a ++ b) = loopEnd y nxt (4 - b.length + 1) a := by
    rw [← loopEnd_pops a b hb, show b.length + (4 - b.length + 1) = 5 by omega]
  rw [hpop]
  constructor
  · intro hlast
    cases a using List.reverseRecOn with
    | nil => exact loopEnd_nil y nxt _
    | append_singleton r x => exact loopEnd_of_not_endsAt (hlast x List.getLast?_concat) _ r
  · rintro x r rfl hx hc
    exact loopEnd_of_count_ne_one hx hc _ r

/-- Two states with the same sequencers, the same one acting, and the same stored bytes. -/
def SameCores (s t : State) : Prop := t.cur = s.cur ∧ (∀ q, t.core q = s.core q) ∧ t.mem = s.mem

theorem sameCores_refl (s : State) : SameCores s s := ⟨rfl, fun _ => rfl, rfl⟩

theorem SameCores.trans {s t u : State} (h : SameCores s t) (h' : SameCores t u) : SameCores s u := by
  obtain ⟨hcur, hcore, hmem⟩ := h
  obtain ⟨hcur', hcore', hmem'⟩ := h'
  exact ⟨hcur'.trans hcur, fun q => (hcore' q).trans (hcore q), hmem'.trans hmem⟩

theorem sameCores_countUnit (s : State) (p : Nat) : SameCores s (s.countUnit p) := by
  obtain ⟨hcores, hcur⟩ := countUnit_cores_cur s p
  refine ⟨hcur, fun q => by rw [State.core, hcores, State.core], ?_⟩
  unfold State.countUnit
  split
  · rfl
  · split
    · exact State.setUnit_mem s _
    · rfl

/-- A change that leaves the sequencer as it is changes nothing that is read. -/
theorem sameCores_updCore_self {s : State} {p : Nat} {f : Core → Core} (h : f (s.core p) = s.core p) :
    SameCores s (s.updCore p f) := by
  refine ⟨rfl, fun q => ?_, rfl⟩
  by_cases hq : q = p
  · rw [hq, State.core_updCore_self, h]
  · exact State.core_updCore_other s f hq

/-- With no store gated a release has no effect. -/
theorem sameCores_release {s : State} {p : Nat} (h : (s.core p).gate = []) : SameCores s (s.release p) := by
  simp only [State.release, State.releaseSome, h, List.filter_nil, List.foldl_nil]
  refine sameCores_updCore_self ?_
  show { s.core p with gate := [] } = s.core p
  rw [← h]

/-- Where bundles halt with nothing to release, their check meets nothing. -/
theorem haltCheck_guard {s : State} (h : HaltsQuietly s) (b : Bool) :
    (if (b && (s.lock s.cur.core).any fun m => (s.core m).halting) = true then s.haltCheck s.cur.core else (s, none)) =
      (s, none) := by
  split
  case isTrue hb =>
    obtain ⟨-, hany⟩ := Bool.and_eq_true_iff.1 hb
    obtain ⟨k, hk, hh⟩ := List.any_eq_true.1 hany
    exact haltCheck_of_haltsQuietly h hk hh
  case isFalse => rfl

/-- The last repetition of a bundle that waits for nothing, where the members that halt have nothing to release. -/
theorem endRepetition_last {s : State} (h : HaltsQuietly s) (hagain : s.me.again = false)
    (hlast : s.me.inIssue.rpt ≤ s.me.inIssue.rep) :
    ∃ u, SameCores s u ∧ s.endRepetition s.cur.core = u.updCore s.cur.core Core.ended := by
  have hcheck := haltCheck_guard h
  have hcount := sameCores_countUnit s s.cur.core
  have hfetch : ∀ (b : Prop) [Decidable b] (v : State), SameCores v (if b then v.fenceFetch s.cur.core else v) := by
    intro b _ v
    split
    · exact ⟨rfl, fun _ => rfl, rfl⟩
    · exact sameCores_refl v
  have hrelease : ∀ v, SameCores s v → SameCores v (if s.me.halting = true then v.release s.cur.core else v) := by
    intro v hv
    split
    case isTrue hh =>
      refine sameCores_release ?_
      rw [hv.2.1]
      exact h.1 hh
    case isFalse => exact sameCores_refl v
  have hsame := hcount.trans (hfetch (s.me.taken.map (·.kind) = some 3) _)
  refine ⟨_, hsame.trans (hrelease _ hsame), ?_⟩
  unfold State.endRepetition
  simp only [hcheck, hagain, Nat.not_lt.2 hlast, Bool.false_eq_true, if_false]
  rfl

/-- Before the last repetition the bundle stays in issue. -/
def Core.repeated (c : Core) : Core :=
  { c with vc := c.vc + 1, hold := 0, holdAt := false, again := false,
           inIssue := { c.inIssue with rep := c.inIssue.rep + 1 } }

theorem endRepetition_repeats {s : State} (h : HaltsQuietly s) (hagain : s.me.again = false)
    (hlast : s.me.inIssue.rep < s.me.inIssue.rpt) :
    s.endRepetition s.cur.core = s.updCore s.cur.core Core.repeated := by
  have hcheck := haltCheck_guard h
  unfold State.endRepetition
  simp only [hcheck, hagain, hlast, Bool.false_eq_true, if_false, if_true]
  rfl

@[simp] theorem Core.complete_loopPush (c : Core) : c.complete.loopPush = c.loopPush := by unfold Core.complete; split <;> rfl
@[simp] theorem Core.complete_succ (c : Core) : c.complete.succ = c.succ := by unfold Core.complete; split <;> rfl
@[simp] theorem Core.complete_vc (c : Core) : c.complete.vc = c.vc := by unfold Core.complete; split <;> rfl
@[simp] theorem Core.complete_ispsel (c : Core) : c.complete.ispsel = c.ispsel := by unfold Core.complete; split <;> rfl

theorem Core.transfer_vc (c : Core) : c.transfer.vc = c.vc := by
  unfold Core.transfer
  split
  · rfl
  · split <;> rfl

theorem Core.ended_vc (c : Core) : c.ended.vc = c.vc + 1 := by
  rw [Core.ended, Core.transfer_vc, Core.complete_vc]

/-- Where no transfer was noted the loops end, a level to be pushed being entered first. -/
theorem Core.ended_of_taken_none {c : Core} (h : c.taken = none) :
    (c.ended.loops, c.ended.pc) =
      loopEnd c.inIssue.word c.succ 5 (c.loops ++ match c.loopPush with | some x => [x] | none => []) := by
  simp only [Core.ended, Core.transfer, Core.complete_taken, h, Core.complete_loopPush, Core.complete_succ,
    Core.complete_inIssue, Core.complete_loops] <;> rfl

/-- A loop with count 0 ends the loops with its target for the successor. -/
theorem Core.ended_of_kind_two {c : Core} {x : Taken} (h : c.taken = some x) (hk : x.kind = 2) :
    (c.ended.loops, c.ended.pc) = loopEnd c.inIssue.word x.target 5 c.loops := by
  simp only [Core.ended, Core.transfer, Core.complete_taken, h, hk, Core.complete_inIssue, Core.complete_loops]

theorem Core.ended_pc_of_kind_le_one {c : Core} {x : Taken} (h : c.taken = some x) (hk : x.kind ≤ 1) :
    c.ended.pc = x.target := by
  obtain hk | hk : x.kind = 0 ∨ x.kind = 1 := by omega
  · exact (Core.ended_of_kind_zero h hk).1
  · simp only [Core.ended, Core.transfer_of_kind_one ((Core.complete_taken c).trans h) hk]

theorem Core.ended_of_kind_three {c : Core} {x : Taken} (h : c.taken = some x) (hk : x.kind = 3) :
    c.ended.pc = x.target ∧ c.ended.loops = [] ∧ c.ended.ispsel = !c.ispsel := by
  simp only [Core.ended, Core.transfer, Core.complete_taken, h, hk, Core.complete_ispsel, and_self]

theorem Core.ended_of_kind_four {c : Core} {x : Taken} (h : c.taken = some x) (hk : x.kind = 4) :
    c.ended.halted = true := by
  simp only [Core.ended, Core.transfer, Core.complete_taken, h, hk]

/-- Settles O25: the repetition before the last leaves the bundle in issue; the last one ends the loops by `loopEnd` or
takes the transfer noted. -/
theorem repetitionEnds : Obligations.RepetitionEnds := by
  intro s hagain hquiet y lands
  by_cases hlast : s.me.inIssue.rpt ≤ s.me.inIssue.rep
  case neg =>
    have hrep := Nat.lt_of_not_le hlast
    refine ⟨_, congrArg Host.Outcome.next (endRepetition_repeats hquiet hagain hrep), ?_⟩
    have hme : (s.updCore s.cur.core Core.repeated).me = s.me.repeated := State.me_upd s _
    refine ⟨by rw [hme]; rfl, fun q hq => State.core_updCore_other s _ hq, fun _ => rfl, fun _ => ?_, fun h => absurd h hlast⟩
    rw [hme]
    exact ⟨rfl, rfl⟩
  case pos =>
    obtain ⟨u, ⟨hcur, hcore, hmem⟩, hend⟩ := endRepetition_last hquiet hagain hlast
    have hme : (u.updCore s.cur.core Core.ended).me = s.me.ended := by
      rw [State.me, State.updCore_cur, hcur, State.core_updCore_self, hcore, State.me]
    have hlands : ∀ nxt l, (s.me.ended.loops, s.me.ended.pc) = loopEnd y nxt 5 l →
        lands nxt l (u.updCore s.cur.core Core.ended) := by
      rintro nxt l hl a b rfl hlen hb
      obtain ⟨hstay, hcount⟩ := loopEnd_five (y := y) (nxt := nxt) a b hlen hb
      rw [hme]
      exact ⟨fun h => Prod.ext_iff.1 (hl.trans (hstay h)), fun x r ha hx hc => Prod.ext_iff.1 (hl.trans (hcount x r ha hx hc))⟩
    refine ⟨_, congrArg Host.Outcome.next hend, ?_, fun q hq => ?_, fun a => ?_, fun h => absurd hlast (Nat.not_le.2 h),
      fun _ => ⟨?_, ?_, fun h => hlands _ _ (Core.ended_of_taken_none h), fun t h hk => hlands _ _ (Core.ended_of_kind_two h hk),
        fun t h hk => ?_, fun t h hk => ?_, fun t h hk => ?_⟩⟩
    · rw [hme, Core.ended_vc]
    · rw [State.core_updCore_other _ _ hq, hcore]
    · rw [State.byte, State.updCore_mem, hmem, State.byte]
    · rw [hme]; rfl
    · rw [hme]; rfl
    · rw [hme, Core.ended_pc_of_kind_le_one h hk]
    · rw [hme]; exact Core.ended_of_kind_three h hk
    · rw [hme]; exact Core.ended_of_kind_four h hk

end Sys2Proof.Machine
end

section
/-! SUPPORT. The release of gated own-vault stores and the capture of a checkpoint bundle (02 R40 to R44; 09 R259). -/

namespace Sys2Proof.Machine

-- one proof after another: the memory of the whole text stands under one limit
set_option Elab.async false

open Sys2Proof Safety

/-! ### The capture (02 R43) -/

/-- What a checkpoint bundle makes of its core, its stores released. -/
def Core.checkpointed (c : Core) : Core :=
  { c with shadow := some c.capture, recs := [], ckWord := c.pc, ckVc := c.vc, ckQp := c.inIssue.qp, ckDone := false,
           ckRegions := c.regions, irrevNew := c.newIrrev, needCk := false, marks := [], tchecks := [],
           fences := if c.released.isEmpty && !(c.pend.any Pending.undone) then [] else c.fences }

theorem checkpoint_core (s : State) (p q : Nat) :
    (s.checkpoint p).core q = ((s.release p).updCore p Core.checkpointed).core q := by
  unfold State.checkpoint
  split <;> rfl

theorem checkpoint_core_self (s : State) (p : Nat) : (s.checkpoint p).core p = ((s.release p).core p).checkpointed := by
  rw [checkpoint_core, State.core_updCore_self]

theorem checkpoint_byte (s : State) (p a : Nat) : (s.checkpoint p).byte a = (s.release p).byte a := by
  unfold State.checkpoint
  split <;> rfl

/-- On a core the tile takes its part in queue order. -/
theorem checkpoint_queue {s : State} {p : Nat} (hp : p < 288) :
    ∃ q, ((s.checkpoint p).tile p).queue = q ++ [{ num := 0, kind := .capture }] := by
  have hslot : ¬ (isSlot p = true) := by simpa [isSlot] using hp
  exact ⟨_, (congrArg (fun t : State => (t.tile p).queue) (if_neg hslot)).trans
    (congrArg Tile.queue (State.tile_updTile_self ((s.release p).updCore p Core.checkpointed) p _))⟩

/-- Settles O39: `checkpointed` field by field, on the core that the release left, which is the one found where nothing
was gated. -/
theorem checkpointCaptures : Obligations.CheckpointCaptures := by
  intro s
  refine ⟨s.checkpoint s.cur.core, rfl, ?_⟩
  beta_reduce
  intro c
  obtain ⟨c', hc, hc'⟩ : ∃ c', c = c'.checkpointed ∧ (s.release s.cur.core).core s.cur.core = c' :=
    ⟨_, checkpoint_core_self s s.cur.core, rfl⟩
  clear_value c
  subst hc
  refine ⟨⟨_, rfl, rfl, rfl, rfl, rfl, rfl, rfl, rfl, rfl, rfl, rfl, rfl, rfl, rfl, rfl⟩, fun hgate => ?_, rfl, rfl, rfl, rfl,
    fun hreleased hpend => ?_, checkpoint_queue⟩
  · rw [(sameCores_release hgate).2.1] at hc'
    rw [← hc']
    rfl
  · have hnone : c'.pend.any Pending.undone = false :=
      List.any_eq_false.2 fun x hx => by rw [hpend x hx]; exact Bool.false_ne_true
    have hempty : c'.released = [] := hreleased
    simp only [Core.checkpointed, hnone, hempty]
    rfl

/-! ### Own-vault stores to lines that need no fill (09 R259) -/

/-- Store bytes in the vault of core `p`, one after another. -/
def State.setCells (s : State) (p : Nat) (cells : List (Nat × Byte)) : State :=
  cells.foldl (fun s x => s.setByte (vaultAddr p x.1) x.2) s

/-- What a release of own-vault stores of core `p` keeps: damage, error state, the gate buffer, the forms of the released
stores, and lines that have their data. -/
structure KeepsLines (p : Nat) (s t : State) : Prop where
  sect : t.sect = s.sect
  marks : t.marks = s.marks
  err : t.err = s.err
  gate : (t.core p).gate = (s.core p).gate
  forms : (t.core p).released.map (·.form) = (s.core p).released.map (·.form)
  filled : ∀ l, s.unfilled p l = false → t.unfilled p l = false

theorem KeepsLines.refl (p : Nat) (s : State) : KeepsLines p s s := ⟨rfl, rfl, rfl, rfl, rfl, fun _ h => h⟩

theorem KeepsLines.trans {p : Nat} {s t u : State} (h : KeepsLines p s t) (h' : KeepsLines p t u) : KeepsLines p s u :=
  ⟨h'.sect.trans h.sect, h'.marks.trans h.marks, h'.err.trans h.err, h'.gate.trans h.gate, h'.forms.trans h.forms,
    fun l hl => h'.filled l (h.filled l hl)⟩

theorem KeepsLines.undamaged {p : Nat} {s t : State} (h : KeepsLines p s t) (hs : Undamaged s) : Undamaged t :=
  ⟨h.sect.trans hs.1, h.marks.trans hs.2⟩

theorem KeepsLines.vaultGone {p : Nat} {s t : State} (h : KeepsLines p s t) (a : Nat) : t.vaultGone a = s.vaultGone a := by
  rw [State.vaultGone, h.err, State.vaultGone]

/-- A change that leaves bytes, damage, errors and the core as they are. -/
theorem keepsLines_of_same {p : Nat} {s t : State} (hsect : t.sect = s.sect) (hmarks : t.marks = s.marks) (herr : t.err = s.err)
    (hmem : t.mem = s.mem) (hcore : t.core p = s.core p) : KeepsLines p s t := by
  refine ⟨hsect, hmarks, herr, by rw [hcore], by rw [hcore], fun l hl => ?_⟩
  have hbyte : t.byte = s.byte := by funext a; rw [State.byte, hmem, State.byte]
  have hdesc : t.rdesc p = s.rdesc p := by funext i; rw [State.rdesc, State.bytes, hbyte]; rfl
  rw [← hl, State.unfilled, State.mapped, hmem, State.fillOf, hcore, State.regionAt, hdesc]
  rfl

theorem mem_put_other {m : SMap Byte} {d : Byte} {k : Nat} {x : Byte} {e : Nat × Byte} (h : e.1 ≠ k) :
    e ∈ SMap.put m d k x ↔ e ∈ m := by
  have hk : e ∈ m.filter (fun e => e.1 != k) ↔ e ∈ m := by
    rw [List.mem_filter]
    exact and_iff_left (bne_iff_ne.2 h)
  unfold SMap.put
  split
  · exact hk
  · rw [SMap.mem_ins, hk]
    exact or_iff_right fun he => h (congrArg Prod.fst he)

/-- A byte below the region table is no part of it. -/
theorem keepsLines_setByte {p off : Nat} (s : State) (b : Byte) (h : off < regionTable) :
    KeepsLines p s (s.setByte (vaultAddr p off) b) := by
  refine ⟨rfl, rfl, rfl, rfl, rfl, fun l hl => ?_⟩
  have hmapped : (s.setByte (vaultAddr p off) b).mapped p = s.mapped p := by
    rw [Bool.eq_iff_iff, State.mapped, State.mapped, List.any_eq_true, List.any_eq_true]
    refine exists_congr fun e => and_congr_left fun he => mem_put_other ?_
    have hlow := of_decide_eq_true (Bool.and_eq_true_iff.1 he).1
    simp only [vaultAddr] at hlow ⊢
    omega
  have hbyte : ∀ a, vaultAddr p regionTable ≤ a → (s.setByte (vaultAddr p off) b).byte a = s.byte a := fun a ha =>
    State.byte_setByte_other s b (by simp only [vaultAddr] at ha ⊢; omega)
  have hdesc : (s.setByte (vaultAddr p off) b).rdesc p = s.rdesc p := by
    funext i
    refine congrArg RDesc.ofBytes (List.map_congr_left fun a ha => hbyte a ?_)
    have := (mem_seqFrom.1 ha).1
    simp only [vaultAddr] at this ⊢
    omega
  rw [← hl]
  simp only [State.unfilled, hmapped, State.regionAt, hdesc]
  rfl

theorem keepsLines_setCells {p : Nat} (cells : List (Nat × Byte)) : ∀ s : State, (∀ x ∈ cells, x.1 < regionTable) →
    KeepsLines p s (s.setCells p cells) := by
  induction cells with
  | nil => exact fun s _ => .refl p s
  | cons x cells ih =>
    intro s h
    obtain ⟨hx, hcells⟩ := List.forall_mem_cons.1 h
    exact (keepsLines_setByte s x.2 hx).trans (ih _ hcells)

/-- A filled line that becomes dirty keeps its data. -/
theorem keepsLines_dirty (p l : Nat) (s : State) : KeepsLines p s (if s.fillOf p l = 1 then s.setFill p l 3 else s) := by
  split
  case isFalse => exact .refl p s
  case isTrue h =>
    have hcore : (s.setFill p l 3).core p = { s.core p with fills := SMap.put (s.core p).fills 0 l 3 } :=
      State.core_updCore_self s p _
    refine ⟨rfl, rfl, rfl, by rw [hcore], by rw [hcore], fun k hk => ?_⟩
    by_cases hkl : k = l
    · have hfill : ((s.setFill p l 3).fillOf p k).getLsbD 0 = true := by
        rw [State.fillOf, hcore, hkl, SMap.get_put_self]; rfl
      rw [State.unfilled, hfill, Bool.not_true, Bool.and_false, Bool.false_and]
    · have hfill : (s.setFill p l 3).fillOf p k = s.fillOf p k := by
        rw [State.fillOf, hcore, SMap.get_put_other _ _ _ _ hkl]; rfl
      rw [← hk, State.unfilled, hfill]
      rfl

theorem keepsLines_foldl {β : Type} {p : Nat} {f : State → β → State} (h : ∀ s x, KeepsLines p s (f s x)) (l : List β) :
    ∀ s, KeepsLines p s (l.foldl f s) := by
  induction l with
  | nil => exact fun s => .refl p s
  | cons x l ih => exact fun s => (h s x).trans (ih _)

/-- Marking lines as dirty changes no byte. -/
theorem dirty_mem (p : Nat) (l : List Nat) : ∀ s : State,
    (l.foldl (fun s l => if s.fillOf p l = 1 then s.setFill p l 3 else s) s).mem = s.mem := by
  induction l with
  | nil => exact fun _ => rfl
  | cons x l ih =>
    intro s
    rw [List.foldl_cons, ih]
    split <;> rfl

/-- A range inside one line that has its data needs no fill. -/
theorem fillRange_of_filled {s : State} {p off n : Nat} (hline : off / 64 = (off + n - 1) / 64)
    (h : s.unfilled p (off / 64) = false) : s.fillRange p off n = (s, none) := by
  unfold State.fillRange linesIn
  split
  · rfl
  · rw [← hline, Nat.sub_self, show seqFrom (off / 64) (0 + 1) = [off / 64] from rfl, List.foldl_cons, List.foldl_nil]
    simp only [h, Bool.false_eq_true, if_false]

theorem setBytes_vault_eq (p : Nat) (d : List Byte) : ∀ (s : State) (off : Nat),
    s.setBytes (vaultAddr p off) d = s.setCells p ((seqFrom off d.length).zip d) := by
  induction d with
  | nil => exact fun _ _ => rfl
  | cons b d ih =>
    intro s off
    rw [State.setBytes, List.length_cons, seqFrom, List.zip_cons_cons, State.setCells, List.foldl_cons]
    exact ih (s.setByte (vaultAddr p off) b) (off + 1)

theorem setCells_mem_congr {s t : State} (h : t.mem = s.mem) (p : Nat) (cells : List (Nat × Byte)) :
    (t.setCells p cells).mem = (s.setCells p cells).mem := by
  induction cells generalizing s t with
  | nil => exact h
  | cons x cells ih => exact ih (congrArg (SMap.put · 0 (vaultAddr p x.1) x.2) h)

/-- Stored bytes inside one line of an undamaged vault whose line has its data. -/
theorem writeVault_line {s : State} {p off : Nat} {d : List Byte} (hu : Undamaged s) (hp : p < 288)
    (hgone : ∀ o, o < 0x800000 → s.vaultGone (vaultAddr p o) = false) (hd : d ≠ []) (hend : off + d.length ≤ regionTable)
    (hline : off / 64 = (off + d.length - 1) / 64) (hfill : s.unfilled p (off / 64) = false) :
    KeepsLines p s (s.writeVault p off d []) ∧
      (s.writeVault p off d []).mem = (s.setCells p ((seqFrom off d.length).zip d)).mem := by
  have hpos := List.length_pos_iff.2 hd
  have hoff : off < 0x800000 := by
    have : regionTable = 0x7FFF00 := rfl
    omega
  have hstore := writeStore_vault hu d none (vaultAddr_inVault hp hoff) (hgone off hoff) hd
    (by simp only [vaultAddr]; omega)
  obtain ⟨m, us, hnote⟩ := noteBefore_eq s (vaultAddr p off) d.length
  obtain ⟨w, hev⟩ := lineEvents_vault (s.noteBefore (vaultAddr p off) d.length) (vaultAddr_inVault hp hoff)
  have hquiet : KeepsLines p s ((s.noteBefore (vaultAddr p off) d.length).lineEvents (vaultAddr p off)) := by
    rw [hev, hnote]
    exact keepsLines_of_same rfl rfl rfl rfl rfl
  have hmem : ((s.noteBefore (vaultAddr p off) d.length).lineEvents (vaultAddr p off)).mem = s.mem := by rw [hev, hnote]
  have hcells : ∀ x ∈ (seqFrom off d.length).zip d, x.1 < regionTable := fun x hx => by
    have := mem_seqFrom.1 (List.of_mem_zip hx).1
    omega
  simp only [State.writeVault, fillRange_of_filled hline hfill, hstore, setBytes_vault_eq]
  refine ⟨(hquiet.trans (keepsLines_setCells _ _ hcells)).trans (keepsLines_foldl (fun s l => keepsLines_dirty p l s) _ _), ?_⟩
  rw [dirty_mem]
  exact setCells_mem_congr hmem p _

/-- Signing bytes changes units alone. -/
theorem sign_eq (s : State) (p : Nat) (k : Word) (d : List Byte) : ∃ us, s.sign p k d = { s with units := us } := by
  unfold State.sign
  split
  · exact ⟨s.units, rfl⟩
  · split
    · exact ⟨s.units, rfl⟩
    · exact ⟨_, rfl⟩

theorem keepsLines_units {p : Nat} {s t : State} (h : ∃ us, t = { s with units := us }) :
    KeepsLines p s t ∧ t.mem = s.mem := by
  obtain ⟨us, rfl⟩ := h
  exact ⟨keepsLines_of_same rfl rfl rfl rfl rfl, rfl⟩

/-- The runs of a store's bytes are its bytes, in their order, each run within the store's line. -/
theorem runsOf_flatMap (cells : List (Nat × Byte)) :
    (runsOf cells).flatMap (fun r => (seqFrom r.1 r.2.length).zip r.2) = cells := by
  induction cells with
  | nil => rfl
  | cons x cells ih =>
    obtain ⟨a, b⟩ := x
    rw [runsOf]
    split
    case h_1 a' bs rs hr =>
      rw [hr] at ih
      split
      case isTrue h =>
        subst h
        rw [← ih]
        rfl
      case isFalse =>
        rw [List.flatMap_cons, ih]
        rfl
    case h_2 hr =>
      rw [hr] at ih
      rw [← ih]
      rfl

theorem runsOf_ne_nil {cells : List (Nat × Byte)} : ∀ r ∈ runsOf cells, r.2 ≠ [] := by
  induction cells with
  | nil => exact fun r hr => absurd hr List.not_mem_nil
  | cons x cells ih =>
    obtain ⟨a, b⟩ := x
    rw [runsOf]
    split
    case h_1 a' bs rs hr =>
      rw [hr] at ih
      split
      case isTrue => exact List.forall_mem_cons.2 ⟨List.cons_ne_nil _ _, (List.forall_mem_cons.1 ih).2⟩
      case isFalse => exact List.forall_mem_cons.2 ⟨List.cons_ne_nil _ _, ih⟩
    case h_2 => exact fun r hr => by rw [List.mem_singleton.1 hr]; exact List.cons_ne_nil _ _

/-- The condition under which a store's bytes reach their line of core `p`'s vault without a fill. -/
def PlainCells (s : State) (p : Nat) (cells : List (Nat × Byte)) : Prop :=
  ∀ x ∈ cells, x.1 < regionTable ∧ s.unfilled p (x.1 / 64) = false ∧ ∀ y ∈ cells, x.1 / 64 = y.1 / 64

/-- An address of a run is an address of the store. -/
theorem run_mem_cells {cells : List (Nat × Byte)} {r : Nat × List Byte} (hr : r ∈ runsOf cells) {k : Nat} (hk : k < r.2.length) :
    ∃ x ∈ cells, x.1 = r.1 + k := by
  have hlen : k < ((seqFrom r.1 r.2.length).zip r.2).length := by rw [List.length_zip, seqFrom_length]; omega
  refine ⟨((seqFrom r.1 r.2.length).zip r.2)[k], ?_, ?_⟩
  · rw [← runsOf_flatMap cells]
    exact List.mem_flatMap.2 ⟨r, hr, List.getElem_mem hlen⟩
  · rw [List.getElem_zip]
    exact seqFrom_getElem _ _ _ _

/-- A run of plain bytes is written in its place. -/
theorem writeLocal_run {s : State} {p : Nat} {cells : List (Nat × Byte)} (hu : Undamaged s) (hp : p < 288)
    (hgone : ∀ o, o < 0x800000 → s.vaultGone (vaultAddr p o) = false) (hc : PlainCells s p cells)
    {r : Nat × List Byte} (hr : r ∈ runsOf cells) :
    KeepsLines p s (s.writeLocal p r.1 r.2 []) ∧
      (s.writeLocal p r.1 r.2 []).mem = (s.setCells p ((seqFrom r.1 r.2.length).zip r.2)).mem := by
  have hne := runsOf_ne_nil r hr
  have hpos := List.length_pos_iff.2 hne
  obtain ⟨x, hx, hxa⟩ := run_mem_cells hr hpos
  obtain ⟨y, hy, hya⟩ := run_mem_cells hr (Nat.sub_lt hpos Nat.one_pos)
  obtain ⟨-, hfill, hline⟩ := hc x hx
  have hlast := (hc y hy).1
  have hxy := hline y hy
  rw [hxa, Nat.add_zero] at hfill hxy
  rw [hya] at hxy hlast
  have hslot : isSlot p = false := decide_eq_false (Nat.not_le.2 hp)
  rw [State.writeLocal, hslot]
  exact writeVault_line hu hp hgone hne (by omega) (by rw [hxy]; congr 1; omega) hfill

theorem setCells_append (s : State) (p : Nat) (a b : List (Nat × Byte)) :
    s.setCells p (a ++ b) = (s.setCells p a).setCells p b := List.foldl_append

/-- Runs of plain bytes are written one after another. -/
theorem storeRuns_plain {s : State} {p : Nat} {cells : List (Nat × Byte)} (hu : Undamaged s) (hp : p < 288)
    (hgone : ∀ o, o < 0x800000 → s.vaultGone (vaultAddr p o) = false) (hc : PlainCells s p cells)
    (f : State → Nat × List Byte → State) (hf : ∀ t r, ∃ k, f t r = (t.writeLocal p r.1 r.2 []).sign p k r.2) :
    ∀ (l : List (Nat × List Byte)), (∀ r ∈ l, r ∈ runsOf cells) → ∀ t, KeepsLines p s t →
      KeepsLines p s (l.foldl f t) ∧
        (l.foldl f t).mem = (t.setCells p (l.flatMap fun r => (seqFrom r.1 r.2.length).zip r.2)).mem := by
  intro l
  induction l with
  | nil => exact fun _ t ht => ⟨ht, rfl⟩
  | cons r l ih =>
    intro hl t ht
    obtain ⟨hr, hrest⟩ := List.forall_mem_cons.1 hl
    have hct : PlainCells t p cells := fun x hx => ⟨(hc x hx).1, ht.filled _ (hc x hx).2.1, (hc x hx).2.2⟩
    obtain ⟨hkeep, hmem⟩ := writeLocal_run (ht.undamaged hu) hp (fun o ho => by rw [ht.vaultGone, hgone o ho]) hct hr
    obtain ⟨k, hk⟩ := hf t r
    obtain ⟨hsign, hsmem⟩ := keepsLines_units (p := p) (sign_eq (t.writeLocal p r.1 r.2 []) p k r.2)
    rw [List.foldl_cons, List.flatMap_cons, setCells_append, hk]
    obtain ⟨hkeeps, hmems⟩ := ih hrest _ (ht.trans (hkeep.trans hsign))
    exact ⟨hkeeps, hmems.trans (setCells_mem_congr (hsmem.trans hmem) p _)⟩

/-- The bytes of a plain store are written in their places. -/
theorem storeCells_plain {s : State} {p : Nat} {cells : List (Nat × Byte)} (hu : Undamaged s) (hp : p < 288)
    (hgone : ∀ o, o < 0x800000 → s.vaultGone (vaultAddr p o) = false) (hc : PlainCells s p cells) :
    KeepsLines p s (s.storeCells p p cells []) ∧ (s.storeCells p p cells []).mem = (s.setCells p cells).mem := by
  have h := storeRuns_plain hu hp hgone hc
    (fun t x => (t.writeLocal p x.1 x.2 (classesOf [] x.1 x.2.length)).sign p (t.keyOf p p x.1) x.2)
    (fun t r => ⟨_, rfl⟩) (runsOf cells) (fun _ h => h) s (.refl p s)
  rw [runsOf_flatMap] at h
  exact h

/-! ### Releases of own-vault stores (02 R42) -/

/-- A gated entry that is a plain own-vault store. -/
def PlainStore (s : State) (p : Nat) (e : Gated) : Prop :=
  e.form = .l ∧ e.atom = none ∧ e.entry = true ∧ e.rel = false ∧ e.bad = [] ∧ PlainCells s p e.cells

theorem PlainStore.of_keeps {s t : State} {p : Nat} {e : Gated} (h : PlainStore s p e) (ht : KeepsLines p s t) :
    PlainStore t p e := by
  obtain ⟨hform, hatom, hentry, hrel, hbad, hc⟩ := h
  exact ⟨hform, hatom, hentry, hrel, hbad, fun x hx => ⟨(hc x hx).1, ht.filled _ (hc x hx).2.1, (hc x hx).2.2⟩⟩

/-- Overtaking marks released stores alone. -/
theorem keepsLines_overtake (s : State) (p n : Nat) (z : Later) :
    KeepsLines p s (s.overtake p n z) ∧ (s.overtake p n z).mem = s.mem := by
  unfold State.overtake
  split
  · exact ⟨.refl p s, rfl⟩
  · refine ⟨⟨rfl, rfl, rfl, by rw [State.core_updCore_self], ?_, fun l hl => ?_⟩, rfl⟩
    · rw [State.core_updCore_self, List.map_map]
      have hform : ∀ x : Nat × Gated, (if x.1 < n then match s.owed p z x.2 with
          | some sc => { x.2 with passed := some (max sc (x.2.passed.getD 0)) } | none => x.2 else x.2).form = x.2.form := by
        intro x
        split
        · split <;> rfl
        · rfl
      refine (List.map_congr_left fun x _ => hform x).trans ?_
      show List.map (Gated.form ∘ Prod.snd) _ = _
      rw [← List.map_map, List.map_snd_zip (by rw [seqFrom_length])]
    · rw [← hl, State.unfilled, State.unfilled, State.fillOf, State.core_updCore_self]
      rfl

/-- An own-vault store that waits for nothing performs at its release. -/
theorem releaseOne_local {s : State} {p : Nat} {e : Gated} (hform : e.form = .l) (hatom : e.atom = none)
    (hentry : e.entry = true) (hwaits : s.waitsRelease p { e with pos := 16 * (s.core p).vc } = false) :
    s.releaseOne p e = (s.overtake p (s.core p).released.length
      (({ e with pos := 16 * (s.core p).vc } : Gated).later p)).storeCells p p e.cells e.bad := by
  obtain ⟨form, cells, atom, issue, ord, rel, acq, sv, entry, pos, passed, bad, enc, lc⟩ := e
  dsimp only at hform hatom hentry hwaits
  subst hform hatom hentry
  exact if_neg (by rw [hwaits]; exact Bool.false_ne_true)

/-- A plain store performs at its release where no own-vault store waits. -/
theorem releaseOne_plain {s : State} {p : Nat} {e : Gated} (hu : Undamaged s) (hp : p < 288)
    (hgone : ∀ o, o < 0x800000 → s.vaultGone (vaultAddr p o) = false)
    (hreleased : ∀ d ∈ (s.core p).released, d.form ≠ .l) (he : PlainStore s p e) :
    KeepsLines p s (s.releaseOne p e) ∧ (s.releaseOne p e).mem = (s.setCells p e.cells).mem := by
  obtain ⟨hform, hatom, hentry, hrel, hbad, hc⟩ := he
  have hwaits : s.waitsRelease p { e with pos := 16 * (s.core p).vc } = false := by
    have hnone : ∀ l, ((s.core p).released.any fun d => d.form == .l && meet l (d.locs p)) = false := fun l =>
      List.any_eq_false.2 fun d hd => by rw [beq_eq_false_iff_ne.2 (hreleased d hd)]; exact Bool.false_ne_true
    simp only [State.waitsRelease, State.timed, hform, hrel, hnone]
    rfl
  have hperform := releaseOne_local hform hatom hentry hwaits
  rw [hbad] at hperform
  obtain ⟨hkeep, hmem⟩ := keepsLines_overtake s p (s.core p).released.length (({ e with pos := 16 * (s.core p).vc } : Gated).later p)
  obtain ⟨hstore, hsmem⟩ := storeCells_plain (hkeep.undamaged hu) hp (fun o ho => by rw [hkeep.vaultGone, hgone o ho])
    (cells := e.cells) fun x hx => ⟨(hc x hx).1, hkeep.filled _ (hc x hx).2.1, (hc x hx).2.2⟩
  rw [hperform]
  exact ⟨hkeep.trans hstore, hsmem.trans (setCells_mem_congr hmem p _)⟩

/-- Plain stores perform one after another. -/
theorem releases_plain {s : State} {p : Nat} (hu : Undamaged s) (hp : p < 288)
    (hgone : ∀ o, o < 0x800000 → s.vaultGone (vaultAddr p o) = false)
    (hreleased : ∀ d ∈ (s.core p).released, d.form ≠ .l) :
    ∀ (l : List Gated), (∀ e ∈ l, PlainStore s p e) → ∀ t, KeepsLines p s t →
      KeepsLines p s (l.foldl (fun s e => s.releaseOne p e) t) ∧
        (l.foldl (fun s e => s.releaseOne p e) t).mem = (t.setCells p (l.flatMap (·.cells))).mem := by
  intro l
  induction l with
  | nil => exact fun _ t ht => ⟨ht, rfl⟩
  | cons e l ih =>
    intro hl t ht
    obtain ⟨he, hrest⟩ := List.forall_mem_cons.1 hl
    have hforms : ∀ d ∈ (t.core p).released, d.form ≠ .l := fun d hd => by
      obtain ⟨d', hd', hform⟩ := List.mem_map.1 (ht.forms ▸ List.mem_map_of_mem (f := Gated.form) hd)
      rw [← hform]
      exact hreleased d' hd'
    obtain ⟨hkeep, hmem⟩ := releaseOne_plain (ht.undamaged hu) hp (fun o ho => by rw [ht.vaultGone, hgone o ho]) hforms
      (he.of_keeps ht)
    obtain ⟨hkeeps, hmems⟩ := ih hrest _ (ht.trans hkeep)
    rw [List.foldl_cons, List.flatMap_cons, setCells_append]
    exact ⟨hkeeps, hmems.trans (setCells_mem_congr hmem p _)⟩

/-- The bytes that stores of a core's vault leave: the last one for an offset stands there. -/
theorem setCells_byte (p off : Nat) (cells : List (Nat × Byte)) : ∀ s : State,
    (s.setCells p cells).byte (vaultAddr p off) =
      cells.foldl (fun b x => if x.1 = off then x.2 else b) (s.byte (vaultAddr p off)) := by
  induction cells with
  | nil => exact fun _ => rfl
  | cons x cells ih =>
    intro s
    refine (ih (s.setByte (vaultAddr p x.1) x.2)).trans ?_
    rw [List.foldl_cons]
    congr 1
    split
    case isTrue h => rw [h, State.byte_setByte_self]
    case isFalse h => exact State.byte_setByte_other s _ (by simp only [vaultAddr]; omega)

/-- Bytes outside the vault stay as they are. -/
theorem setCells_byte_outside {p b : Nat} (cells : List (Nat × Byte)) : ∀ s : State,
    (∀ x ∈ cells, b ≠ vaultAddr p x.1) → (s.setCells p cells).byte b = s.byte b := by
  induction cells with
  | nil => exact fun _ _ => rfl
  | cons x cells ih =>
    intro s h
    obtain ⟨hx, hcells⟩ := List.forall_mem_cons.1 h
    exact (ih _ hcells).trans (State.byte_setByte_other s _ hx)

/-- The gate buffer emptied. -/
def State.ungated (s : State) (p : Nat) : State := s.updCore p fun c => { c with gate := [] }

theorem State.ungated_core (s : State) (p : Nat) : (s.ungated p).core p = { s.core p with gate := [] } :=
  State.core_updCore_self s p _

/-- Settles O38: each gated store performs at once, writing its bytes in their order. -/
theorem checkpointReleasesStores : Obligations.CheckpointReleasesStores := by
  intro s p hu hp hreleased hgone hgate
  have hcore := s.ungated_core p
  have hplain : ∀ e ∈ s.me.gate, PlainStore (s.ungated p) p e := by
    intro e he
    obtain ⟨hform, hatom, hentry, hrel, hbad, hcells⟩ := hgate e he
    refine ⟨hform, hatom, hentry, hrel, hbad, fun x hx => ⟨(hcells x hx).1, ?_, (hcells x hx).2.2⟩⟩
    rw [← (hcells x hx).2.1, State.unfilled, State.fillOf, hcore]
    rfl
  obtain ⟨hkeep, hmem⟩ := releases_plain (s := s.ungated p) hu hp hgone
    (by rw [hcore]; exact hreleased) s.me.gate hplain _ (.refl p _)
  have hrelease : s.release p = s.me.gate.foldl (fun s e => s.releaseOne p e) (s.ungated p) := by
    simp only [State.release, State.releaseSome, Bool.not_true, List.filter_true, List.filter_false]
    rfl
  rw [← hrelease] at hkeep hmem
  have hbyte : ∀ a, (s.checkpoint p).byte a = (s.setCells p (s.me.gate.flatMap (·.cells))).byte a := fun a => by
    rw [checkpoint_byte, State.byte, hmem, State.byte]
    exact congrArg (SMap.get · 0 a) (setCells_mem_congr (s := s) (t := s.ungated p) rfl p _)
  refine ⟨s.checkpoint p, rfl, ?_, fun off _ => ?_, fun b hb => ?_⟩
  · rw [checkpoint_core_self]
    exact hkeep.gate.trans (by rw [hcore])
  · rw [hbyte, setCells_byte]
  · rw [hbyte]
    refine setCells_byte_outside _ s fun x hx => ?_
    obtain ⟨e, he, hxe⟩ := List.mem_flatMap.1 hx
    obtain ⟨-, -, -, -, -, hcells⟩ := hgate e he
    have hlt := (hcells x hxe).1
    have : regionTable = 0x7FFF00 := rfl
    simp only [vaultAddr] at hb ⊢
    omega

end Sys2Proof.Machine
end

section
/-! SUPPORT. Vector operations: integer, compare, floating-point and moving lanes (06 R153 to R180). -/

namespace Sys2Proof.Machine

-- one proof after another: the memory of the whole text stands under one limit
set_option Elab.async false

open Sys2Proof Safety

/-! ### Integer lanes (06 R160, R161, R179) -/

/-- An element-wise operation whose lane function equals another on every lane. -/
theorem laneWise_congr {i : Instr} {s : State} {d a : BitVec 5} {qd qa : Bool} {db sb lat : Nat}
    {f g : Nat → Lane → Word → Lane × Word} (h : exec i s = s.vmap d a qd qa db sb lat f) (hfg : ∀ j x w, f j x w = g j x w) :
    LaneWise i s d a qd qa db sb lat g := by
  obtain rfl : f = g := funext fun j => funext fun x => funext fun w => hfg j x w
  exact laneWise_of h

/-- An operation that draws nothing, by the value of each lane. -/
theorem laneWise_values {i : Instr} {s : State} {d a : BitVec 5} {qd qa : Bool} {db sb lat : Nat} {f g : Nat → Lane → Lane}
    (h : exec i s = s.vmap d a qd qa db sb lat fun j x w => (f j x, w)) (hfg : ∀ j x, f j x = g j x) :
    LaneWise i s d a qd qa db sb lat fun j x w => (g j x, w) :=
  laneWise_congr h fun j x _ => Prod.ext (hfg j x) rfl

theorem elemBits_lt (et : BitVec 3) (x : Lane) : elemBits et x < 2 ^ widthOf et := Nat.mod_lt _ (Nat.two_pow_pos _)

/-- The bits that an arithmetic shift right leaves are an element's, and the sign is the top bit. -/
theorem sraBits_mod {et : BitVec 3} {x c : Nat} (hx : x < 2 ^ widthOf et) :
    sraBits (widthOf et) x c % 2 ^ widthOf et =
      (((if widthOf et ≤ c then (if (if 2 ^ (widthOf et - 1) ≤ x then (x : Int) - (2 ^ widthOf et : Nat) else x) < 0 then -1 else 0)
        else (if 2 ^ (widthOf et - 1) ≤ x then (x : Int) - (2 ^ widthOf et : Nat) else x) / (2 ^ c : Nat)) : Int)
          % (2 ^ widthOf et : Nat)).toNat := by
  have hpos : (0 : Int) < (2 ^ widthOf et : Nat) := Int.natCast_pos.2 (Nat.two_pow_pos _)
  have hlt : ∀ z : Int, (z % (2 ^ widthOf et : Nat)).toNat < 2 ^ widthOf et := fun z => by
    have h1 := Int.emod_lt_of_pos z hpos
    have h2 := Int.emod_nonneg z hpos.ne'
    omega
  rw [sraBits, Nat.mod_eq_of_lt (hlt _), signedOf, Nat.mod_eq_of_lt hx]

theorem vbit_eq_vmap (s : State) (d a : BitVec 5) (et : BitVec 3) (qd qa : Bool) (f : Nat → Lane → Lane) :
    s.vbit d a et qd qa f = s.vmap d a qd qa (etBytes et) (etBytes et) 2 fun j x w => (f j x, w) := rfl

theorem vbit2_eq_vbit (s : State) (d a b : BitVec 5) (et : BitVec 3) (qd qa : Bool) (f : Nat → Nat → Nat) :
    s.vbit2 d a b et qd qa f =
      s.vbit d a et qd qa fun j x => laneOf et (f (elemBits et x) (elemBits et (src2 s b j)) % 2 ^ widthOf et) := rfl

theorem vint2_eq_vbit (s : State) (d a b : BitVec 5) (et : BitVec 3) (qd qa : Bool) (f : Int → Int → Lane) :
    s.vint2 d a b et qd qa f = s.vbit d a et qd qa fun j x => f (elemInt et x) (elemInt et (src2 s b j)) := rfl

/-- An operation that draws nothing, by its value on each lane. -/
theorem vbit_laneWise {i : Instr} {s : State} {d a : BitVec 5} {et : BitVec 3} {qd qa : Bool} {f g : Nat → Lane → Lane}
    (h : exec i s = s.vbit d a et qd qa f) (hfg : ∀ j x, f j x = g j x) :
    LaneWise i s d a qd qa (etBytes et) (etBytes et) 2 fun j x w => (g j x, w) :=
  laneWise_values (h.trans (vbit_eq_vmap s d a et qd qa f)) hfg

/-- A binary operation on element bits, by its value on two elements. -/
theorem vbit2_laneWise {i : Instr} {s : State} {d a b : BitVec 5} {et : BitVec 3} {qd qa : Bool} {f g : Nat → Nat → Nat}
    (h : exec i s = s.vbit2 d a b et qd qa f) (hfg : ∀ x y, x < 2 ^ widthOf et → y < 2 ^ widthOf et → f x y % 2 ^ widthOf et = g x y) :
    LaneWise i s d a qd qa (etBytes et) (etBytes et) 2 fun j x w => (laneOf et (g (elemBits et x) (elemBits et (src2 s b j))), w) :=
  vbit_laneWise (h.trans (vbit2_eq_vbit s d a b et qd qa f)) fun _ _ => congrArg (laneOf et) (hfg _ _ (elemBits_lt et _) (elemBits_lt et _))

/-- A binary integer operation, by its value on two elements. -/
theorem vint2_laneWise {i : Instr} {s : State} {d a b : BitVec 5} {et : BitVec 3} {qd qa : Bool} {f g : Int → Int → Lane}
    (h : exec i s = s.vint2 d a b et qd qa f) (hfg : ∀ x y, f x y = g x y) :
    LaneWise i s d a qd qa (etBytes et) (etBytes et) 2 fun j x w => (g (elemInt et x) (elemInt et (src2 s b j)), w) :=
  vbit_laneWise (h.trans (vint2_eq_vbit s d a b et qd qa f)) fun _ _ => hfg _ _

theorem exec_vadd (s : State) (d a b : BitVec 5) (et : BitVec 3) (qd qa : Bool) : exec (.vadd d a b et qd qa) s =
    s.vint2 d a b et qd qa fun x y => fitInt et s.cur.sat (x + y) := rfl
theorem exec_vsub (s : State) (d a b : BitVec 5) (et : BitVec 3) (qd qa : Bool) : exec (.vsub d a b et qd qa) s =
    s.vint2 d a b et qd qa fun x y => fitInt et s.cur.sat (x - y) := rfl
theorem exec_vmul (s : State) (d a b : BitVec 5) (et : BitVec 3) (qd qa : Bool) : exec (.vmul d a b et qd qa) s =
    s.vint2 d a b et qd qa fun x y => fitInt et s.cur.sat (x * y) := rfl
theorem exec_vmulh (s : State) (d a b : BitVec 5) (et : BitVec 3) (qd qa : Bool) : exec (.vmulh d a b et qd qa) s =
    s.vint2 d a b et qd qa fun x y => wrapInt et (x * y / (2 ^ widthOf et : Nat)) := rfl
theorem exec_vnot (s : State) (d a : BitVec 5) (et : BitVec 3) (qd qa : Bool) : exec (.vnot d a et qd qa) s =
    s.vbit d a et qd qa fun _ x => laneOf et (2 ^ widthOf et - 1 - elemBits et x) := rfl
theorem exec_vmov (s : State) (d a : BitVec 5) (et : BitVec 3) (qd qa : Bool) : exec (.vmov d a et qd qa) s =
    s.vbit d a et qd qa fun _ x => laneOf et (elemBits et x) := rfl
theorem exec_vmovi (s : State) (d : BitVec 5) (imm : BitVec 15) (et : BitVec 3) (qd : Bool) : exec (.vmovi d imm et qd) s =
    s.vbit d 0 et qd false fun _ _ => movImm et imm := rfl
theorem exec_vmovs (s : State) (d a : BitVec 5) (et : BitVec 3) (qd : Bool) : exec (.vmovs d a et qd) s =
    s.vbit d 0 et qd false fun _ _ => laneOf et ((s.me.gs a).toNat % 2 ^ widthOf et) := rfl
theorem exec_vmin (s : State) (d a b : BitVec 5) (et : BitVec 3) (qd qa : Bool) : exec (.vmin d a b et qd qa) s =
    s.vint2 d a b et qd qa fun x y => wrapInt et (min x y) := rfl
theorem exec_vmax (s : State) (d a b : BitVec 5) (et : BitVec 3) (qd qa : Bool) : exec (.vmax d a b et qd qa) s =
    s.vint2 d a b et qd qa fun x y => wrapInt et (max x y) := rfl
theorem exec_vand (s : State) (d a b : BitVec 5) (et : BitVec 3) (qd qa : Bool) : exec (.vand d a b et qd qa) s =
    s.vbit2 d a b et qd qa fun x y => x &&& y := rfl
theorem exec_vor (s : State) (d a b : BitVec 5) (et : BitVec 3) (qd qa : Bool) : exec (.vor d a b et qd qa) s =
    s.vbit2 d a b et qd qa fun x y => x ||| y := rfl
theorem exec_vxor (s : State) (d a b : BitVec 5) (et : BitVec 3) (qd qa : Bool) : exec (.vxor d a b et qd qa) s =
    s.vbit2 d a b et qd qa fun x y => x ^^^ y := rfl
theorem exec_vshl (s : State) (d a b : BitVec 5) (et : BitVec 3) (qd qa : Bool) : exec (.vshl d a b et qd qa) s =
    s.vbit2 d a b et qd qa fun x c => if widthOf et ≤ c then 0 else x * 2 ^ c := rfl
theorem exec_vshr (s : State) (d a b : BitVec 5) (et : BitVec 3) (qd qa : Bool) : exec (.vshr d a b et qd qa) s =
    s.vbit2 d a b et qd qa fun x c => if widthOf et ≤ c then 0 else x / 2 ^ c := rfl
theorem exec_vsra (s : State) (d a b : BitVec 5) (et : BitVec 3) (qd qa : Bool) : exec (.vsra d a b et qd qa) s =
    s.vbit2 d a b et qd qa fun x c => sraBits (widthOf et) x c := rfl
theorem exec_vabs (s : State) (d a : BitVec 5) (et : BitVec 3) (qd qa : Bool) : exec (.vabs d a et qd qa) s =
    s.vbit d a et qd qa fun _ x => fitInt et s.cur.sat (elemInt et x).natAbs := rfl
theorem exec_vneg (s : State) (d a : BitVec 5) (et : BitVec 3) (qd qa : Bool) : exec (.vneg d a et qd qa) s =
    s.vbit d a et qd qa fun _ x => fitInt et s.cur.sat (-(elemInt et x)) := rfl
theorem exec_vsel (s : State) (d a b : BitVec 5) (kc et : BitVec 3) (qd qa : Bool) : exec (.vsel d a b kc et qd qa) s =
    s.vbit d a et qd qa fun i x => laneOf et (elemBits et (if (s.kreg kc).getLsbD i then x else laneAt (s.vsrc b) i)) := rfl

/-- Settles O40: each operation is element-wise with its own lane function, and the lane functions agree. -/
theorem vectorIntegerResults : Obligations.VectorIntegerResults := by
  intro s d a b kc et qd qa imm m y yb gives ints bits
  have hgives : ∀ {i : Instr} {q : Bool} {f : Nat → Lane → Lane} (v : Nat → Lane → Lane), exec i s = s.vbit d a et qd q f →
      (∀ j x, f j x = v j x) → gives i q v := fun v h hf => vbit_laneWise (g := v) h hf
  have hints : ∀ {i : Instr} {f : Int → Int → Lane} (v : Int → Int → Lane), exec i s = s.vint2 d a b et qd qa f →
      (∀ x y, f x y = v x y) → ints i v := fun v h hf => vint2_laneWise (g := v) h hf
  have hbits : ∀ {i : Instr} {f : Nat → Nat → Nat} (v : Nat → Nat → Nat), exec i s = s.vbit2 d a b et qd qa f →
      (∀ x y, x < 2 ^ widthOf et → y < 2 ^ widthOf et → f x y % 2 ^ widthOf et = v x y) → bits i v :=
    fun v h hf => vbit2_laneWise (g := v) h hf
  have himm : ∀ {i : Instr} (v : Lane), exec i s = s.vbit d 0 et qd false (fun _ _ => v) → gives i false fun _ _ => v :=
    fun v h => laneWise_of h
  clear_value ints bits gives
  refine ⟨hints _ (exec_vadd ..) fun _ _ => rfl, hints _ (exec_vsub ..) fun _ _ => rfl, hints _ (exec_vmul ..) fun _ _ => rfl,
    hints _ (exec_vmulh ..) fun _ _ => rfl, hints _ (exec_vmin ..) fun x y => ?min, hints _ (exec_vmax ..) fun x y => ?max,
    hbits _ (exec_vand ..) fun x y hx hy => ?and, hbits _ (exec_vor ..) fun x y hx hy => ?or,
    hbits _ (exec_vxor ..) fun x y hx hy => ?xor, hgives _ (exec_vnot ..) fun _ _ => rfl,
    hbits _ (exec_vshl ..) fun x c _ _ => ?shl, hbits _ (exec_vshr ..) fun x c hx _ => ?shr,
    hbits _ (exec_vsra ..) fun x c hx _ => ?sra, hgives _ (exec_vabs ..) fun j x => ?abs, hgives _ (exec_vneg ..) fun j x => ?neg,
    hgives _ (exec_vsel ..) fun j x => ?sel, hgives _ (exec_vmov ..) fun _ _ => rfl, himm _ (exec_vmovi ..), himm _ (exec_vmovs ..)⟩
  case min => rw [min_def]; rfl
  case max => rw [max_def]; rfl
  case and => exact Nat.mod_eq_of_lt (Nat.lt_of_le_of_lt Nat.and_le_left hx)
  case or => exact Nat.mod_eq_of_lt (Nat.or_lt_two_pow hx hy)
  case xor => exact Nat.mod_eq_of_lt (Nat.xor_lt_two_pow hx hy)
  case shl =>
    split
    · exact Nat.zero_mod _
    · rfl
  case shr =>
    refine Nat.mod_eq_of_lt ?_
    split
    · exact Nat.two_pow_pos _
    · exact Nat.lt_of_le_of_lt (Nat.div_le_self _ _) hx
  case sra => exact sraBits_mod hx
  case abs =>
    refine congrArg (fitInt et s.cur.sat) ?_
    split <;> omega
  case neg => exact congrArg (fitInt et s.cur.sat) (Int.zero_sub _).symm
  case sel => exact congrArg (laneOf et) (apply_ite (elemBits et) _ _ _)

/-! ### Compares (06 R161, R163) -/

theorem maskWise_values {i : Instr} {s : State} {kd : BitVec 3} {a : BitVec 5} {et : BitVec 3} {qa : Bool}
    {f g : Nat → Lane → Bool} (h : exec i s = s.vcmp kd a et qa f) (hfg : ∀ j x, f j x = g j x) :
    MaskWise i s kd a qa (etBytes et) g := by
  obtain rfl : f = g := funext fun j => funext fun x => hfg j x
  exact maskWise_of h

/-- Settles O41: each compare is its relation on the lanes. -/
theorem vectorCompares : Obligations.VectorCompares :=
  fun _ _ _ _ _ _ => ⟨maskWise_of rfl, maskWise_of rfl, maskWise_of rfl, maskWise_of rfl, maskWise_of rfl, maskWise_of rfl,
    maskWise_of rfl, maskWise_of rfl, maskWise_of rfl, maskWise_of rfl, maskWise_of rfl, maskWise_of rfl⟩

/-! ### Floating point (06 R162 to R169) -/

/-- Settles O42: each operation is element-wise with its own lane function. -/
theorem vectorFloatResults : Obligations.VectorFloatResults :=
  fun _ _ _ _ _ _ _ _ _ => ⟨laneWise_of rfl, laneWise_of rfl, laneWise_of rfl, laneWise_of rfl, laneWise_of rfl, laneWise_of rfl,
    laneWise_of rfl, laneWise_of rfl, laneWise_of rfl, laneWise_of rfl, laneWise_of rfl, laneWise_of rfl, laneWise_of rfl,
    laneWise_of rfl, laneWise_of rfl, laneWise_of rfl, laneWise_of rfl, laneWise_of rfl, laneWise_of rfl, laneWise_of rfl⟩

/-! ### Reductions (06 R174) -/

theorem pairUp_length_isSome {α : Type} (op : α → α → Word → α × Word) : ∀ (n : Nat) (l : List (Option α)) (g : Word), l.length = 2 * n →
    (pairUp op l g).1.length = n ∧ ((∃ x ∈ (pairUp op l g).1, x ≠ none) ↔ ∃ x ∈ l, x ≠ none)
  | 0, [], g, _ => ⟨rfl, Iff.rfl⟩
  | n + 1, x :: y :: r, g, h => by
    have hr : r.length = 2 * n := by simp only [List.length_cons] at h; omega
    obtain ⟨hlen, hsome⟩ := pairUp_length_isSome op n r (match x, y with | some a, some b => (op a b g).2 | _, _ => g) hr
    cases x <;> cases y <;> simp_all [pairUp]

/-- The tree of 16 nodes is empty only where every node is absent. -/
theorem reduceTree_isSome {α : Type} (op : α → α → Word → α × Word) {l : List (Option α)} (g : Word) (hlen : l.length = 16) :
    (reduceTree op l g).1 ≠ none ↔ ∃ x ∈ l, x ≠ none := by
  unfold reduceTree
  have h8 := pairUp_length_isSome op 8 l g hlen
  generalize pairUp op l g = p8 at h8 ⊢
  obtain ⟨⟨l8, g8⟩, hlen8, hsome8⟩ := p8, h8
  have h4 := pairUp_length_isSome op 4 l8 g8 hlen8
  dsimp only
  generalize pairUp op l8 g8 = p4 at h4 ⊢
  obtain ⟨⟨l4, g4⟩, hlen4, hsome4⟩ := p4, h4
  have h2 := pairUp_length_isSome op 2 l4 g4 hlen4
  dsimp only
  generalize pairUp op l4 g4 = p2 at h2 ⊢
  obtain ⟨⟨l2, g2⟩, hlen2, hsome2⟩ := p2, h2
  have h1 := pairUp_length_isSome op 1 l2 g2 hlen2
  dsimp only
  generalize pairUp op l2 g2 = p1 at h1 ⊢
  obtain ⟨⟨l1, g1⟩, hlen1, hsome1⟩ := p1, h1
  obtain ⟨x, rfl⟩ := List.length_eq_one_iff.1 hlen1
  rw [← hsome8, ← hsome4, ← hsome2, ← hsome1]
  simp only [List.head?_cons, Option.getD_some, List.mem_singleton, exists_eq_left]

/-- A combination that draws nothing leaves the random source. -/
theorem pairUp_rng {α : Type} {op : α → α → Word → α × Word} (h : ∀ a b g, (op a b g).2 = g) (l : List (Option α)) (g : Word) :
    (pairUp op l g).2 = g := by
  fun_induction pairUp op l g <;> simp_all [Prod.ext_iff]

theorem reduceTree_rng {α : Type} {op : α → α → Word → α × Word} (h : ∀ a b g, (op a b g).2 = g) (l : List (Option α)) (g : Word) :
    (reduceTree op l g).2 = g := by
  simp only [reduceTree, pairUp_rng h]

theorem present_isSome {α : Type} (s : State) (f : Nat → α) : (∃ x ∈ s.present f, x ≠ none) ↔ s.act ≠ [] := by
  have hact : s.act ≠ [] ↔ ∃ j, j ∈ seqFrom 0 16 ∧ s.me.active s.cur.group s.cur.msel j = true := by
    simp only [← List.mem_filter]
    exact ⟨List.exists_mem_of_ne_nil _, fun ⟨_, hj⟩ => List.ne_nil_of_mem hj⟩
  rw [hact]
  simp only [State.present, List.mem_map]
  constructor
  · rintro ⟨_, ⟨j, hj, rfl⟩, hne⟩
    exact ⟨j, hj, by by_contra h; exact hne (if_neg h)⟩
  · rintro ⟨j, hj, hactive⟩
    exact ⟨_, ⟨j, hj, rfl⟩, by rw [if_pos hactive]; exact Option.some_ne_none _⟩

theorem present_length {α : Type} (s : State) (f : Nat → α) : (s.present f).length = 16 := by
  rw [State.present, List.length_map, seqFrom_length]

/-- The tree over the active lanes has a result exactly where a lane is active. -/
theorem reduce_present {α : Type} (op : α → α → Word → α × Word) (s : State) (f : Nat → α) :
    (s.act = [] → (reduceTree op (s.present f) s.rng).1 = none) ∧
    (s.act ≠ [] → ∃ x, (reduceTree op (s.present f) s.rng).1 = some x) := by
  have h := (reduceTree_isSome op s.rng (present_length s f)).trans (present_isSome s f)
  exact ⟨fun he => by by_contra hne; exact h.1 hne he, fun he => Option.ne_none_iff_exists'.1 (h.2 he)⟩

theorem vreduce_float {s : State} {d a : BitVec 5} {et : BitVec 3} {kind : Nat} (h : et.toNat ≤ 2) {x : Option Nat} {g : Word}
    (hx : reduceTree (fpNode (fpOf et) s.cur.mode kind) (s.present fun j => elemBits et (src2 s a j)) s.rng = (x, g)) :
    s.vreduce d a et kind = .next (match x with
      | none => s
      | some x => (s.setRng g).vput d false 4 (s.act.map fun i => (i, laneOf et (canonNan (fpOf et) x)))) := by
  unfold src2 at hx
  simp only [State.vreduce, if_pos h, hx]
  cases x <;> rfl

theorem vreduce_int {s : State} {d a : BitVec 5} {et : BitVec 3} {kind : Nat} (h : ¬ et.toNat ≤ 2) {x : Option Int} {g : Word}
    (hx : reduceTree (intNode kind) (s.present fun j => elemInt et (src2 s a j)) s.rng = (x, g)) :
    s.vreduce d a et kind = .next (match x with
      | none => s
      | some x => (s.setRng g).vput d false 4 (s.act.map fun i => (i, fitInt et s.cur.sat x))) := by
  unfold src2 at hx
  simp only [State.vreduce, if_neg h, hx]
  cases x <;> rfl

/-- Settles O43: the moves, blocks, scans, masks and random values by their definitions, the reductions by whether a lane
is active. -/
theorem vectorMovesAndReductions : Obligations.VectorMovesAndReductions := by
  intro s d a b op kd ka kb gs et n c lane f isF pick reduced
  have hreduced : ∀ i kind, exec i s = s.vreduce d a et kind → reduced i kind := by
    intro i kind hexec
    have hfloat := reduce_present (fpNode f s.cur.mode kind) s fun j => elemBits et (lane j)
    have hint := reduce_present (intNode kind) s fun j => elemInt et (lane j)
    by_cases hF : et.toNat ≤ 2
    · obtain ⟨hnone, hsome⟩ := hfloat
      refine ⟨fun hact => ⟨s, ?_, rfl⟩, fun hact => ?_⟩
      · rw [hexec, vreduce_float hF (Prod.ext (hnone hact) rfl)]
      · obtain ⟨x, hx⟩ := hsome hact
        refine ⟨_, _, drawsLanes_of (r := (_, _)) (hexec.trans (vreduce_float hF (Prod.ext hx rfl))),
          fun _ => ⟨x, Prod.ext hx rfl, rfl⟩, fun hn => absurd hF hn⟩
    · obtain ⟨hnone, hsome⟩ := hint
      refine ⟨fun hact => ⟨s, ?_, rfl⟩, fun hact => ?_⟩
      · rw [hexec, vreduce_int hF (Prod.ext (hnone hact) rfl)]
      · obtain ⟨x, hx⟩ := hsome hact
        refine ⟨_, _, drawsLanes_of (r := (_, _)) (hexec.trans (vreduce_int hF (Prod.ext hx rfl))),
          fun hf => absurd hf hF, fun _ => ⟨reduceTree_rng (fun _ _ _ => rfl) _ _, x, hx, rfl⟩⟩
  refine ⟨⟨s, rfl, rfl⟩, movesLanes_of rfl, movesLanes_of rfl, movesLanes_of rfl, movesLanes_of rfl, movesLanes_of rfl,
    movesLanes_of ?kpopc, movesLanes_of ?vrandGet, ⟨_, rfl, vput_gives s d false 4 _⟩, hreduced _ 0 rfl, hreduced _ 1 rfl,
    hreduced _ 2 rfl, fun hF => drawsLanes_of ?scanF, fun hI => drawsLanes_of ?scanI, drawsLanes_of rfl, drawsLanes_of rfl,
    drawsLanes_of rfl, ?seed, givesMask_of rfl, givesMask_of rfl, givesMask_of rfl, givesMask_of rfl, givesMask_of rfl,
    givesMask_of rfl⟩
  case kpopc => rw [List.countP_eq_length_filter]; rfl
  case vrandGet =>
    refine congrArg (s.vmove d 2) (funext fun j => ?_)
    match j with
    | 0 => rfl
    | 1 => rfl
    | _ + 2 => rfl
  case scanF =>
    have hF' : et.toNat ≤ 2 := hF
    show execVscan d a op et s = _
    simp only [execVscan, if_pos hF']
    rfl
  case scanI =>
    have hI' : ¬ et.toNat ≤ 2 := hI
    show execVscan d a op et s = _
    simp only [execVscan, if_neg hI']
    rfl
  case seed =>
    refine completes_upd (f := fun c => c.setRnd s.cur.group (lane 1 ++ lane 0)) rfl fun t ht hme => ?_
    rw [ht]
    exact ⟨SMap.get_put_self _ _ _ _, hme, fun g hg => SMap.get_put_other _ _ _ _ hg, rfl⟩

end Sys2Proof.Machine
end

section
/-! SUPPORT. The M slot: operations that are queued for the tile, and key races (07 R189 to R191; 08 R207 to R223). -/

namespace Sys2Proof.Machine

-- one proof after another: the memory of the whole text stands under one limit
set_option Elab.async false

open Sys2Proof Safety

/-! ### Operations queued for the tile (08 R207 to R211) -/

/-- `t` is `s` with operation `o` last in the acting tile's queue and the acting core become `c`. -/
structure Takes (s t : State) (o : TileOp) (c : Core) : Prop where
  cur : t.cur = s.cur
  tile : t.tile s.cur.core = { s.tile s.cur.core with queue := (s.tile s.cur.core).queue ++ [o] }
  me : t.me = c
  frame : OnlyMyTile s t

theorem takes_enqueue (s : State) (o : TileOp) : Takes s (s.enqueue o) o s.me :=
  ⟨rfl, State.tile_updTile_self s _ _, rfl, rfl, fun _ hq => ⟨rfl, State.tile_setTile_other s _ hq⟩, fun _ => rfl⟩

theorem Takes.upd {s t : State} {o : TileOp} {c : Core} (h : Takes s t o c) (f : Core → Core) : Takes s (t.upd f) o (f c) := by
  obtain ⟨hcur, htile, hme, hworld, hother, hbyte⟩ := h
  refine ⟨hcur, htile, by rw [State.me_upd, hme], hworld, fun q hq => ⟨?_, (hother q hq).2⟩, hbyte⟩
  rw [State.upd, State.core_updCore_other t f (by rw [hcur]; exact hq), (hother q hq).1]

/-- A change of the acting core before the operation is queued. -/
theorem Takes.of_upd {s t : State} {o : TileOp} {c : Core} {f : Core → Core} (h : Takes (s.upd f) t o c) : Takes s t o c := by
  obtain ⟨hcur, htile, hme, hworld, hother, hbyte⟩ := h
  refine ⟨hcur, htile, hme, ?_, fun q hq => ⟨?_, (hother q hq).2⟩, hbyte⟩
  · exact congrArg (fun u : State => { u with cores := s.cores }) hworld
  · exact (hother q hq).1.trans (State.core_updCore_other s f hq)

/-- What every M-slot issue but a key race does to its core. -/
def Core.mTaken (c : Core) (rnd : BitVec 3) : Core :=
  { (if rnd = 5 then c.setRnd 0 (randStep (c.rndOf 0)) else c) with mpc := c.mpc + 1 }

theorem Takes.mTake {s t : State} {o : TileOp} {c : Core} (h : Takes s t o c) : Takes s t.mTake o (c.mTaken s.cur.rnd) := by
  unfold State.mTake Core.mTaken
  rw [h.cur]
  split
  · exact (h.upd _).upd _
  · exact h.upd _

theorem mTaken_mpc (c : Core) (rnd : BitVec 3) : (c.mTaken rnd).mpc = c.mpc + 1 := rfl

theorem mTaken_rnd (c : Core) (rnd : BitVec 3) :
    (rnd ≠ 5 → (c.mTaken rnd).rnd = c.rnd) ∧
    (rnd = 5 → (c.mTaken rnd).rndOf 0 = randStep (c.rndOf 0) ∧ ∀ g, g ≠ 0 → (c.mTaken rnd).rndOf g = c.rndOf g) := by
  unfold Core.mTaken
  constructor
  · intro h
    rw [if_neg h]
  · intro h
    rw [if_pos h]
    exact ⟨SMap.get_put_self _ _ _ _, fun g hg => SMap.get_put_other _ _ _ _ hg⟩

theorem mTaken_eq (c : Core) (rnd : BitVec 3) : c.mTaken rnd = { c with mpc := c.mpc + 1, rnd := (c.mTaken rnd).rnd } := by
  unfold Core.mTaken
  split <;> rfl

/-- An M-slot issue from a core `c₀` with the acting core's MPC and random sources. -/
theorem advances_of {s t : State} {c c₀ : Core} (hme : t.me = c) (hmpc₀ : c₀.mpc = s.me.mpc) (hrnd₀ : c₀.rnd = s.me.rnd)
    (hmpc : c.mpc = (c₀.mTaken s.cur.rnd).mpc) (hrnd : c.rnd = (c₀.mTaken s.cur.rnd).rnd) : Advances s t := by
  obtain ⟨hother, hfive⟩ := mTaken_rnd c₀ s.cur.rnd
  rw [Advances, hme, hmpc, mTaken_mpc, hmpc₀, hrnd, ← hrnd₀]
  refine ⟨rfl, hother, fun h => ?_⟩
  simp only [Core.rndOf, hrnd, ← hrnd₀]
  exact hfive h

theorem mNumber_takes (s : State) (k : TKind) :
    Takes s (s.mNumber k) (s.mOp k) { s.me.mTaken s.cur.rnd with ni := (s.me.mTaken s.cur.rnd).ni + 1 } :=
  (takes_enqueue s (s.mOp k)).mTake.upd _

theorem mOp_queued {s t : State} {k : TKind} {c : Core} (h : Takes s t (s.mOp k) c) : Queued s t k := by
  refine ⟨s.mOp k, h.tile, rfl, rfl, rfl, rfl, rfl, rfl, rfl, rfl, rfl, rfl, rfl, fun h5 => ?_⟩
  exact if_pos h5

theorem mTaken_ni (c : Core) (rnd : BitVec 3) : (c.mTaken rnd).ni = c.ni := by rw [mTaken_eq]

theorem mNumber_numbers {i : Instr} {s : State} {k : TKind} (h : exec i s = .next (s.mNumber k)) : Numbers i s k := by
  have ht := mNumber_takes s k
  refine ⟨_, h, mOp_queued ht, advances_of (c₀ := s.me) ht.me rfl rfl rfl rfl, ?_, ht.frame, ?_⟩
  · rw [ht.me]; exact congrArg (· + 1) (mTaken_ni _ _)
  · rw [ht.me, mTaken_eq]

theorem mayRace_checks {s : State} (h : MayRace s) {races : Bool} (hw : races = true → (s.tile s.cur.core).wdrn = false) :
    chkM races s = none := by
  obtain ⟨hslot, hmpc⟩ := h
  have hrange : codeRange s.me.mpc = true := by simp only [codeRange, Bool.or_eq_true, Bool.and_eq_true, decide_eq_true_eq]; exact hmpc
  have hraces : (!(races && (s.tile s.cur.core).wdrn)) = true := by
    cases races with
    | false => rfl
    | true => rw [hw rfl]; rfl
  rw [chkM, hslot, hrange, hraces]
  rfl

/-- What a numbered operation captures does not depend on the irrevocable record. -/
theorem mOp_markDone (s : State) (k : TKind) : s.markDone.mOp k = s.mOp k := by
  have hme : s.markDone.me = { s.me with irrevNew := { s.me.irrevNew with done := s.me.irrevNew.done ++ [s.irrevKey] } } :=
    State.me_upd s _
  have hmeta : s.markDone.metaWord = s.metaWord := by
    simp only [State.metaWord, hme]
    rfl
  simp only [State.mOp, hmeta, hme]
  rfl

theorem guarded_of_none {s : State} {u : Option Use} (h : u = none) (t : State) : guarded s u t = .next t := by
  rw [h, guarded_none]

theorem exec_mqry (s : State) (d : BitVec 5) (sel : BitVec 2) (clr : Bool) : exec (.mqry d sel clr) s =
    guarded s (chkM false s) (((s.fly (.s d.toNat) (.query sel.toNat clr s.tick) 40 40 fun x => { x with late := true, row := 3 }).enqueue
      { num := 0, kind := .query s.tick sel.toNat clr }).mTake) := rfl

/-- Settles O44: every numbered operation is captured by `mOp`, and a query lands at its own vc. -/
theorem tileOperationsAreQueued : Obligations.TileOperationsAreQueued := by
  intro s idx mask d sel clr base hrace
  have hplain : chkM false s = none := mayRace_checks hrace fun h => absurd h Bool.false_ne_true
  have hraces : (s.tile s.cur.core).wdrn = false → chkM true s = none := fun h => mayRace_checks hrace fun _ => h
  refine ⟨fun hmp hw => mNumber_numbers ?call, fun hmp hw hfirst => ?persistent, fun hbase => ?pannier,
    fun hw => mNumber_numbers (guarded_of_none (hraces hw) _), mNumber_numbers (guarded_of_none hplain _), ?query⟩
  case call =>
    have hp : s.persistent = false := beq_eq_false_iff_ne.2 hmp
    have hchk : chkMcall s = none := by rw [chkMcall, hraces hw, hp]; rfl
    exact (guarded_of_none hchk _).trans (by rw [hp]; rfl)
  case persistent =>
    have hp : s.persistent = true := beq_iff_eq.2 hmp
    obtain ⟨hck, hdone, hsec⟩ := hfirst
    have hchk : chkMcall s = none := by rw [chkMcall, hraces hw, show s.me.inIssue.ck = true from hck, Bool.or_true]; rfl
    have ht := (mNumber_takes s.markDone (.mcall idx.toNat)).of_upd
    rw [mOp_markDone] at ht
    have hme := ht.me
    generalize hc : s.markDone.me = c at hme
    obtain rfl : { s.me with irrevNew := { s.me.irrevNew with done := s.me.irrevNew.done ++ [s.irrevKey] } } = c :=
      (State.me_upd s _).symm.trans hc
    refine ⟨_, (guarded_of_none hchk _).trans (by rw [hp, hdone, hsec]; rfl), mOp_queued ht,
      advances_of (c₀ := { s.me with irrevNew := { s.me.irrevNew with done := s.me.irrevNew.done ++ [s.irrevKey] } }) hme rfl rfl rfl rfl,
      ?_, ?_, ht.frame, ?_⟩
    · rw [hme]; exact congrArg (· + 1) (mTaken_ni _ _)
    · rw [Marks, hme, mTaken_eq]
    · rw [hme, mTaken_eq]
  case pannier =>
    have hchk : chkPannier s = none := by
      rw [chkPannier, hplain, State.alignUse, aligned_iff.2 hbase]; rfl
    exact ⟨mNumber_numbers (guarded_of_none hchk _), mNumber_numbers (guarded_of_none hchk _)⟩
  case query =>
    have ht := (takes_enqueue (s.fly (.s d.toNat) (.query sel.toNat clr s.tick) 40 40 fun x => { x with late := true, row := 3 })
      { num := 0, kind := .query s.tick sel.toNat clr }).mTake.of_upd
    have hme := ht.me
    generalize hc : (s.fly (.s d.toNat) (.query sel.toNat clr s.tick) 40 40 fun x => { x with late := true, row := 3 }).me = c at hme
    obtain rfl : { s.me with pend := s.me.pend ++
        [{ inFlight s (.s d.toNat) (.query sel.toNat clr s.tick) 40 40 with late := true, row := 3 }] } = c :=
      (State.me_upd s _).symm.trans hc
    refine ⟨_, (exec_mqry s d sel clr).trans (guarded_of_none hplain _), ht.tile, ?_, advances_of (c₀ := { s.me with pend := s.me.pend ++
        [{ inFlight s (.s d.toNat) (.query sel.toNat clr s.tick) 40 40 with late := true, row := 3 }] }) hme rfl rfl rfl rfl, ht.frame, ?_⟩
    · rw [Gains, hme, mTaken_eq]
    · rw [hme, mTaken_eq]

/-! ### The order that a key race finds (07 R189, R190) -/

/-- Line `x` comes before line `y`: by its code, then by its index. -/
def LineBefore (x y : Nat × Nat) : Prop := x.1 < y.1 ∨ (x.1 = y.1 ∧ x.2 < y.2)

theorem insertLine_perm (x : Nat × Nat) (l : List (Nat × Nat)) : (insertLine x l).Perm (x :: l) := by
  induction l with
  | nil => exact .refl _
  | cons y l ih =>
    rw [insertLine]
    split
    · exact .refl _
    · exact (ih.cons y).trans (.swap x y l)

theorem insertLine_sorted {x : Nat × Nat} {l : List (Nat × Nat)} (hl : l.Pairwise LineBefore) (hx : ∀ y ∈ l, y.2 ≠ x.2) :
    (insertLine x l).Pairwise LineBefore := by
  induction l with
  | nil => exact List.pairwise_singleton _ _
  | cons y l ih =>
    obtain ⟨hy, hl'⟩ := List.pairwise_cons.1 hl
    obtain ⟨hxy, hxl⟩ := List.forall_mem_cons.1 hx
    rw [insertLine]
    split
    case isTrue hlt =>
      refine List.pairwise_cons.2 ⟨List.forall_mem_cons.2 ⟨hlt, fun z hz => ?_⟩, hl⟩
      have hyz := hy z hz
      unfold LineBefore at hyz ⊢
      omega
    case isFalse hnot =>
      refine List.pairwise_cons.2 ⟨fun z hz => ?_, ih hl' hxl⟩
      obtain rfl | hz := List.mem_cons.1 ((insertLine_perm x l).mem_iff.1 hz)
      · unfold LineBefore
        omega
      · exact hy z hz

theorem insertLines_sorted (m : List (Nat × Nat)) : ∀ r : List (Nat × Nat), r.Pairwise LineBefore →
    ((m ++ r).map (·.2)).Nodup → (m.foldl (fun r x => insertLine x r) r).Pairwise LineBefore ∧
      (m.foldl (fun r x => insertLine x r) r).Perm (m ++ r) := by
  induction m with
  | nil => exact fun r hr _ => ⟨hr, .refl r⟩
  | cons x m ih =>
    intro r hr hnodup
    have hperm : (m ++ insertLine x r).Perm (x :: m ++ r) := ((insertLine_perm x r).append_left m).trans List.perm_middle
    have hx : ∀ y ∈ r, y.2 ≠ x.2 := fun y hy he => by
      rw [List.cons_append, List.map_cons, List.nodup_cons] at hnodup
      exact hnodup.1 (he ▸ List.mem_map_of_mem (List.mem_append_right m hy))
    obtain ⟨hsorted, hp⟩ := ih _ (insertLine_sorted hr hx) ((hperm.map (·.2)).nodup_iff.2 hnodup)
    exact ⟨hsorted, hp.trans hperm⟩

/-- The race order is the insertion sort of the lines by code and index. -/
theorem raceOrder_sorts (keys : List Nat) (ty : Nat) (desc : Bool) :
    (raceOrder keys ty desc).Perm (List.range keys.length) ∧
    (raceOrder keys ty desc).Pairwise fun i j => keyCode (keys.getD i 0) ty desc < keyCode (keys.getD j 0) ty desc ∨
      (keyCode (keys.getD i 0) ty desc = keyCode (keys.getD j 0) ty desc ∧ i < j) := by
  have hlen : (seqFrom 0 keys.length).length ≤ (keys.map fun v => keyCode v ty desc).length := by
    rw [seqFrom_length, List.length_map]
  have hsnd := List.map_snd_zip hlen
  have hseq : seqFrom 0 keys.length = List.range keys.length := by rw [seqFrom_eq_range', List.range_eq_range']
  obtain ⟨hsorted, hperm⟩ := insertLines_sorted ((keys.map fun v => keyCode v ty desc).zip (seqFrom 0 keys.length)) [] .nil
    (by rw [List.append_nil]; exact (congrArg List.Nodup (hsnd.trans hseq)).mpr List.nodup_range)
  rw [List.append_nil] at hperm
  have hcode : ∀ x ∈ (keys.map fun v => keyCode v ty desc).zip (seqFrom 0 keys.length),
      x.1 = keyCode (keys.getD x.2 0) ty desc := by
    intro x hx
    obtain ⟨k, hk, rfl⟩ := List.getElem_of_mem hx
    rw [List.length_zip, seqFrom_length, List.length_map, Nat.min_self] at hk
    rw [List.getElem_zip, List.getElem_map, seqFrom_getElem, Nat.zero_add, List.getD_eq_getElem _ _ hk]
  refine ⟨?_, ?_⟩
  · exact (hperm.map (·.2)).trans (.of_eq (hsnd.trans hseq))
  · refine List.pairwise_map.2 (hsorted.imp_of_mem fun {x y} hx hy h => ?_)
    rw [← hcode x (hperm.mem_iff.1 hx), ← hcode y (hperm.mem_iff.1 hy)]
    exact h

/-! ### Key races of a tile whose words are as committed (07 R191; 08 R219) -/

theorem keyMargin_of_off_nil {s : State} {q : Nat} (h : (s.tile q).off = []) (n : Nat) : s.keyMargin q n = (s, none) := by
  rw [State.keyMargin, h]; rfl

theorem astray_of_moved_nil {t : Tile} (h : t.moved = []) (a : Nat) : t.astray a = false := by
  rw [Tile.astray, h]; rfl

theorem stampAt_of_moved_nil {s : State} {q : Nat} (h : (s.tile q).moved = []) (ty j i code : Nat) :
    (s.stampAt q ty j i code).2 = 0 := by
  simp only [State.stampAt, astray_of_moved_nil h, Bool.false_eq_true, if_false]

/-- No pass of such a race meets a stamp off the grid. -/
theorem keyTrue_of_moved_nil {s : State} {q : Nat} (h : (s.tile q).moved = []) (keys : List Nat) (ty : Nat) (desc : Bool) :
    s.keyTrue q keys ty desc = (s, none) := by
  refine foldl_fixed _ (s, none) _ fun j _ => ?_
  have hnone : ((keys.map fun v => keyCode v ty desc).zip (seqFrom 0 (keys.map fun v => keyCode v ty desc).length)).find?
      (fun e => decide (64 < (s.stampAt q ty j e.2 e.1).2.natAbs)) = none :=
    List.find?_eq_none.2 fun e _ => by rw [stampAt_of_moved_nil h]; decide
  simp only [hnone]

theorem keyRun_of_committed {s : State} {q : Nat} (hoff : (s.tile q).off = []) (hmoved : (s.tile q).moved = [])
    (keys : List Nat) (ty : Nat) (desc : Bool) : s.keyRun q keys ty desc = (s, raceOrder keys ty desc, none) := by
  have hall : ((seqFrom 0 (keyWidth ty / 8)).all fun j => !(s.tile q).astray j) = true :=
    List.all_eq_true.2 fun j _ => by rw [astray_of_moved_nil hmoved]; rfl
  simp only [State.keyRun, keyMargin_of_off_nil hoff, keyTrue_of_moved_nil hmoved, State.keyOrder, hall, if_true]

/-- The lanes that a race writes, by line. -/
def raceLane (op : Nat) (o keys : List Nat) (k i : Nat) : Nat :=
  match op with
  | 0 | 1 => if i % 16 = 0 then o.headD 0 else if i % 16 = 1 then keys.getD (o.headD 0) 0 else 0
  | 2 => if i < keys.length then indexIn o i else 0xFFFFFFFF
  | _ => if i < k then o.getD i 0 else 0xFFFFFFFF

theorem raceLanes_eq (op : Nat) (o keys : List Nat) (k : Nat) :
    raceLanes op o keys k = (seqFrom 0 128).map (raceLane op o keys k) := by
  match op with
  | 0 => rfl
  | 1 => rfl
  | 2 => rfl
  | _ + 3 => rfl

/-- Results that return from the M-die at vc n + 40, MPC having advanced. -/
def State.returns (s : State) (src : Src) : State :=
  (s.fly .lanes src 40 40 fun x => { x with late := true, row := 3 }).mAdvance

/-- A race of a tile whose words are as committed: its lanes fly for 40 vc, its pulses are counted, and MPC advances. -/
theorem keyRace_of_committed {s : State} (hoff : (s.tile s.cur.core).off = []) (hmoved : (s.tile s.cur.core).moved = [])
    (op : Nat) (d a : BitVec 5) (ty n k : Nat) :
    s.keyRace op d a ty n k = (s.tally 2 (keyWidth ty / 8)).returns (.lanes ((seqFrom 0 128).map fun i =>
      (vkey (i / 16) d.toNat (i % 16), BitVec.ofNat 32 (raceLane op (raceOrder (s.raceKeys a ty n) ty (raceDesc op)) (s.raceKeys a ty n) k i)))) := by
  have hzip : ∀ f : Nat → Nat, (((seqFrom 0 128).map f).zip (seqFrom 0 128)).map (fun x : Nat × Nat =>
      (vkey (x.2 / 16) d.toNat (x.2 % 16), BitVec.ofNat 32 x.1)) =
      (seqFrom 0 128).map fun i => (vkey (i / 16) d.toNat (i % 16), BitVec.ofNat 32 (f i)) := fun f => by
    have h := List.zip_map' (f := f) (g := id) (l := seqFrom 0 128)
    rw [List.map_id] at h
    rw [h, List.map_map]
    rfl
  simp only [State.keyRace, keyRun_of_committed hoff hmoved, raceLanes_eq, hzip]
  rfl

theorem returns_me (s : State) (src : Src) : (s.returns src).me =
    { s.me with pend := s.me.pend ++ [{ inFlight s .lanes src 40 40 with late := true, row := 3 }], mpc := s.me.mpc + 1 } := by
  rw [State.returns, State.mAdvance, State.me_upd, State.fly, State.me_upd]
  rfl

theorem returns_core_other (s : State) (src : Src) {q : Nat} (h : q ≠ s.cur.core) : (s.returns src).core q = s.core q :=
  (State.core_updCore_other _ _ h).trans (State.core_updCore_other s _ h)

theorem returns_world (s : State) (src : Src) : ({ s.returns src with cores := s.cores } : State) = s := by
  obtain ⟨hadvance, -, -⟩ := onlyMe_upd (s.fly .lanes src 40 40 fun x => { x with late := true, row := 3 }) fun c => { c with mpc := c.mpc + 1 }
  exact congrArg (fun u : State => { u with cores := s.cores }) hadvance

/-- A race counts its pulses beside what it puts in flight. -/
theorem returns_frame (s : State) (n : Nat) (src : Src) :
    let t := (s.tally 2 n).returns src
    Gains s t { inFlight s .lanes src 40 40 with late := true, row := 3 } ∧ t.me.mpc = s.me.mpc + 1 ∧
      (∀ q, q ≠ s.cur.core → t.core q = s.core q) ∧ (∀ b, t.byte b = s.byte b) ∧ (∀ q, t.tile q = s.tile q) ∧
      { t with cores := s.cores, pow := s.pow, tiles := s.tiles } = s ∧ { t.me with mpc := s.me.mpc, pend := s.me.pend } = s.me := by
  intro t
  have hme : t.me = _ := returns_me (s.tally 2 n) src
  have hin : inFlight (s.tally 2 n) .lanes src 40 40 = inFlight s .lanes src 40 40 := rfl
  rw [hin, show (s.tally 2 n).me = s.me from rfl] at hme
  refine ⟨by rw [Gains, hme], by rw [hme], fun q hq => ?_, fun _ => rfl, fun _ => rfl, ?_, by rw [hme]⟩
  · exact returns_core_other (s.tally 2 n) src hq
  · exact congrArg (fun u : State => { u with cores := s.cores, pow := s.pow, tiles := s.tiles }) (returns_world (s.tally 2 n) src)

/-- Settles O45: the order sorts the lines, and each race of a tile as committed puts its lanes in flight. -/
theorem keyRaces : Obligations.KeyRaces := by
  refine ⟨raceOrder_sorts, ?_⟩
  intro s d a ty nm1 km1 hrace hwdrn hoff hmoved n keys up down gives first
  have hchk : chkM true s = none := mayRace_checks hrace fun _ => hwdrn
  have hlen : keys.length = n := by rw [List.length_map, seqFrom_length]
  have hgives : ∀ {i : Instr} (op k : Nat) (v : Nat → Nat), exec i s = .next (s.keyRace op d a ty.toNat n k) →
      raceLane op (raceOrder keys ty.toNat (raceDesc op)) keys k = v → gives i v := by
    rintro i op k v hexec rfl
    rw [keyRace_of_committed hoff hmoved] at hexec
    exact ⟨_, hexec, returns_frame s _ _⟩
  refine ⟨hgives 0 0 _ (guarded_of_none hchk _) ?_, hgives 1 0 _ (guarded_of_none hchk _) ?_, hgives 2 0 _ (guarded_of_none hchk _) ?_,
    fun hk => hgives 3 (km1.toNat + 1) _ (guarded_of_none ?_ _) ?_⟩
  · rfl
  · rfl
  · funext l
    show (if l < keys.length then _ else _) = _
    rw [hlen]
    rfl
  · rw [chkTopk, hchk, State.inLimit, decide_eq_true hk]; rfl
  · rfl

end Sys2Proof.Machine
end

section
/-! SUPPORT. Vector loads, stores, gathers and scatters (10 R271 to R273). -/

namespace Sys2Proof.Machine

-- one proof after another: the memory of the whole text stands under one limit
set_option Elab.async false

open Sys2Proof Safety

/-! ### Blocks of a store (02 R41) -/

theorem distinct_concat (l : List Nat) (x : Nat) :
    distinct (l ++ [x]) = if (distinct l).contains x then distinct l else distinct l ++ [x] := by
  rw [distinct, List.foldl_append]; rfl

theorem mem_distinct {x : Nat} {l : List Nat} : x ∈ distinct l ↔ x ∈ l := by
  induction l using List.reverseRecOn with
  | nil => exact Iff.rfl
  | append_singleton l y ih =>
    rw [distinct_concat]
    split
    case isTrue h =>
      have hy : y ∈ distinct l := List.contains_iff_mem.1 h
      rw [List.mem_append, List.mem_singleton, ih]
      exact ⟨.inl, fun hx => hx.elim id fun hxy => ih.1 (hxy ▸ hy)⟩
    case isFalse => rw [List.mem_append, List.mem_append, ih]

theorem distinct_nodup (l : List Nat) : (distinct l).Nodup := by
  induction l using List.reverseRecOn with
  | nil => exact List.nodup_nil
  | append_singleton l y ih =>
    rw [distinct_concat]
    split
    case isTrue => exact ih
    case isFalse h =>
      refine List.nodup_append.2 ⟨ih, List.nodup_singleton y, fun x hx z hz hxz => h ?_⟩
      rw [List.mem_singleton.1 hz] at hxz
      exact List.contains_iff_mem.2 (hxz ▸ hx)

/-- The cells of the blocks that they touch, block by block, are the cells. -/
theorem flatMap_blocks_perm : ∀ (bs : List Nat) (cells : List (Nat × Byte)), bs.Nodup → (∀ x ∈ cells, x.1 / 64 ∈ bs) →
    (bs.flatMap fun b => cells.filter fun x => x.1 / 64 == b).Perm cells
  | [], cells, _, h => by
    rw [List.eq_nil_iff_forall_not_mem.2 fun x hx => List.not_mem_nil (h x hx)]
    exact .refl _
  | b :: bs, cells, hnodup, h => by
    obtain ⟨hb, hbs⟩ := List.nodup_cons.1 hnodup
    have hrest := flatMap_blocks_perm bs (cells.filter fun x => !(x.1 / 64 == b)) hbs fun x hx => by
      obtain ⟨hmem, hne⟩ := List.mem_filter.1 hx
      refine (List.mem_cons.1 (h x hmem)).resolve_left fun he => ?_
      rw [he, beq_self_eq_true] at hne
      exact Bool.false_ne_true hne
    have hsame : ∀ c ∈ bs, (cells.filter fun x => !(x.1 / 64 == b)).filter (fun x => x.1 / 64 == c) =
        cells.filter fun x => x.1 / 64 == c := fun c hc => by
      rw [List.filter_filter]
      refine List.filter_congr fun x _ => ?_
      by_cases hx : x.1 / 64 = c
      · rw [hx, beq_self_eq_true, Bool.true_and, beq_eq_false_iff_ne.2 (show c ≠ b from fun he => hb (he ▸ hc))]; rfl
      · rw [beq_eq_false_iff_ne.2 hx, Bool.false_and]
    rw [List.flatMap_cons, ← List.flatMap_congr hsame]
    exact (hrest.append_left _).trans (List.filter_append_perm _ _)

/-- Gating cells: one entry for each block that they touch. -/
theorem gate_gates (s : State) (f : Form) (cells : List (Nat × Byte)) (rel : Bool) : Gates s (s.gate f cells rel) f cells := by
  refine ⟨_, gate_gate s f cells rel, ?_, ?_, ?_, ?_⟩
  · rw [List.flatMap_map]
    exact flatMap_blocks_perm _ cells (distinct_nodup _) fun x hx => mem_distinct.2 (List.mem_map_of_mem hx)
  · intro e he
    obtain ⟨b, -, rfl⟩ := List.mem_map.1 he
    exact ⟨rfl, rfl, rfl, rfl, rfl⟩
  · intro e he x hx y hy
    obtain ⟨b, -, rfl⟩ := List.mem_map.1 he
    rw [beq_iff_eq.1 (List.mem_filter.1 hx).2, beq_iff_eq.1 (List.mem_filter.1 hy).2]
  · refine List.pairwise_map.2 ((distinct_nodup _).imp fun {b c} hbc x hx y hy => ?_)
    rw [beq_iff_eq.1 (List.mem_filter.1 hx).2, beq_iff_eq.1 (List.mem_filter.1 hy).2]
    exact hbc

/-! ### Checks of a vector access (10 R268, R271 to R273) -/

theorem spaceUse_eq_none {s : State} {a : Word} {accept : List Nat} (h : SpaceOk s a accept) (wr : Bool) :
    s.spaceUse a accept wr = none := by
  obtain ⟨hmem, hpath, hbits, hlocal, hcluster⟩ := h
  refine firstUse_eq_none.2 fun x hx => ?_
  simp only [List.mem_cons, List.not_mem_nil, or_false] at hx
  obtain rfl | rfl | rfl | rfl := hx <;> refine orUse_eq_none.2 ?_
  · by_cases h1 : spaceOf a = 1
    · rw [List.contains_iff_mem.2 hmem, (hcluster h1).1, bne_iff_ne.2 hpath]; rfl
    · rw [List.contains_iff_mem.2 hmem, beq_eq_false_iff_ne.2 h1, bne_iff_ne.2 hpath, Bool.and_false]; rfl
  · rw [hbits, Bool.or_true]
  · by_cases h0 : spaceOf a = 0
    · rw [decide_eq_true (hlocal h0), Bool.or_true]
    · rw [bne_iff_ne.2 h0, Bool.true_or]
  · by_cases h1 : spaceOf a = 1
    · rw [(hcluster h1).2, Bool.or_true]
    · rw [bne_iff_ne.2 h1, Bool.true_or]

theorem lanesUse_eq_none {s : State} {l : List ((Nat × Nat) × Int)} {b size : Nat} {wr : Bool} (hsize : size ≤ 0x800000)
    (h : LanesOk s l b size wr) (tag : Nat) : s.lanesUse l tag b size wr = none := by
  refine firstUse_eq_none.2 fun u hu => ?_
  obtain ⟨x, hx, rfl⟩ := List.mem_map.1 hu
  obtain ⟨hpos, hend, halign, htable⟩ := h x hx
  refine firstUse_eq_none.2 fun y hy => ?_
  simp only [List.mem_cons, List.not_mem_nil, or_false] at hy
  obtain rfl | rfl | rfl := hy <;> refine orUse_eq_none.2 ?_
  · rw [Int.emod_eq_of_lt hpos (by omega)]
    exact aligned_iff.2 halign
  · exact decide_eq_true ⟨hpos, hend⟩
  · cases wr with
    | false => rfl
    | true =>
      cases hs : isSlot s.cur.core with
      | true => rfl
      | false => exact decide_eq_true (htable rfl hs)

theorem onCore_eq_none {s : State} (h : isSlot s.cur.core = false) : s.onCore = none := by
  rw [State.onCore, h]; rfl

theorem localSize_le (p : Nat) : localSize p ≤ 0x800000 := by
  unfold localSize
  split <;> omega

theorem spaceSize_le (s : State) (a : Word) : s.spaceSize a ≤ 0x800000 := by
  unfold State.spaceSize
  split
  · exact Nat.le_refl _
  · exact localSize_le _

/-- A hub program slot has no vector access. -/
theorem slot_faults {s : State} (hslot : ¬ isSlot s.cur.core = false) (htrial : s.trial = none) (l : List (Option Use)) (t : State) :
    guarded s (firstUse (s.onCore :: l)) t = .next (s.deliverUse (s.use { cause := 0x29 })) := by
  have hon : s.onCore = some (s.use { cause := 0x29 }) := by rw [State.onCore, Bool.eq_true_of_not_eq_false hslot]; rfl
  rw [hon, firstUse_some, guarded_some htrial]

/-! ### Vector loads and stores (10 R271 to R273) -/

/-- What the post-increment of a vector access adds to the results in flight. -/
def incOf (s : State) (a : BitVec 4) (inc : Bool) (off : BitVec 10) : List Pending :=
  if inc then [inFlight s (.a a.toNat) (.word (s.me.ga a + BitVec.ofInt 64 (8 * off.toInt))) 0 1] else []

/-- The post-increment changes the results in flight alone. -/
theorem postInc_pend (s : State) (a : BitVec 4) (inc : Bool) (off : BitVec 10) :
    OnlyPend s (s.postInc a inc off) ∧ (s.postInc a inc off).me.pend = s.me.pend ++ incOf s a inc off ∧
      (s.postInc a inc off).cur = s.cur := by
  cases inc with
  | false => exact ⟨⟨⟨rfl, fun _ _ => rfl, fun _ => rfl⟩, rfl⟩, (List.append_nil _).symm, rfl⟩
  | true =>
    obtain ⟨hgains, honly⟩ := land_gives s (.a a.toNat) (.word (s.me.ga a + BitVec.ofInt 64 (8 * off.toInt))) 1
    exact ⟨honly, hgains, rfl⟩

theorem onlyPend_trans {s t u : State} (h : OnlyPend s t) (h' : OnlyPend t u) (hcur : t.cur = s.cur) : OnlyPend s u := by
  obtain ⟨honly, hme⟩ := h
  obtain ⟨honly', hme'⟩ := h'
  refine ⟨onlyMe_trans honly honly' hcur, ?_⟩
  rw [← hme]
  exact congrArg (fun c : Core => { c with pend := s.me.pend }) hme'

/-- Two states whose acting cores differ in their results in flight increment alike. -/
theorem incOf_congr {s t : State} (hcur : t.cur = s.cur) (hga : t.me.ga = s.me.ga) (hvc : t.me.vc = s.me.vc)
    (a : BitVec 4) (inc : Bool) (off : BitVec 10) : incOf t a inc off = incOf s a inc off := by
  unfold incOf inFlight
  rw [hcur, hga, hvc]

/-- What does not depend on the results in flight is the same where they alone change. -/
theorem onlyPend_field {s t : State} (h : OnlyPend s t) {α : Type} (g : Core → α)
    (hg : ∀ c p, g { c with pend := p } = g c) : g t.me = g s.me :=
  (hg t.me s.me.pend).symm.trans (congrArg g h.2)

/-- A result put in flight, and the increment. -/
theorem fly_postInc (s : State) (d : Dest) (x : Src) (perf lat : Nat) (f : Pending → Pending) (a : BitVec 4) (inc : Bool) (off : BitVec 10) :
    let t := (s.fly d x perf lat f).postInc a inc off
    OnlyPend s t ∧ t.me.pend = s.me.pend ++ [f (inFlight s d x perf lat)] ++ incOf s a inc off := by
  obtain ⟨hgains, honly⟩ := fly_gives s d x perf lat f
  obtain ⟨hinc, hpend, -⟩ := postInc_pend (s.fly d x perf lat f) a inc off
  have hcongr := incOf_congr (s := s) (t := s.fly d x perf lat f) rfl (onlyPend_field honly Core.ga fun _ _ => rfl)
    (onlyPend_field honly Core.vc fun _ _ => rfl) a inc off
  refine ⟨onlyPend_trans honly hinc rfl, hpend.trans ?_⟩
  rw [hgains, hcongr]

/-- A vector load: one result in flight, and the increment. -/
theorem loadVec_completes {i : Instr} {s : State} {v : BitVec 5} {a : BitVec 4} {ms : BitVec 3} {wid gsc : BitVec 2} {inc : Bool}
    {off : BitVec 10} {inv : Bool} (hi : exec i s = s.loadVec v a ms wid gsc inc off inv)
    (hchk : chkVec a ms wid gsc inc off false s = none) :
    Completes i s fun t => OnlyPend s t ∧ t.me.pend = s.me.pend ++
      [{ inFlight s .lanes (.load (if spaceOf (s.me.ga a) == 1 then .c else .l)
          (s.vecPieces v (s.me.ga a) (s.vecOffs a ms wid gsc inc off) (widBytes wid)) false inv)
          (if spaceOf (s.me.ga a) == 1 then 14 else 6) (if spaceOf (s.me.ga a) == 1 then 14 else 6) with
          late := spaceOf (s.me.ga a) == 1 && s.modeOf s.cur.core == 0, row := 4 }] ++ incOf s a inc off :=
  ⟨_, hi.trans (guarded_of_none hchk _), fly_postInc s _ _ _ _ _ a inc off⟩

theorem gate_postInc (s : State) (f : Form) (cells : List (Nat × Byte)) (a : BitVec 4) (inc : Bool) (off : BitVec 10) :
    let t := (s.gate f cells false).postInc a inc off
    Gates s t f cells ∧ t.me.pend = s.me.pend ++ incOf s a inc off ∧
      ∃ u, StartsFills s u ∧ OnlyMe u t ∧ { t.me with gate := u.me.gate, pend := u.me.pend } = u.me := by
  intro t
  obtain ⟨u, hfills, honly, hme⟩ := gate_onlyGate s f cells false
  obtain ⟨hinc, hpend, -⟩ := postInc_pend (s.gate f cells false) a inc off
  have hgcur : (s.gate f cells false).cur = u.cur := sameWorld_field honly.1 State.cur fun _ _ => rfl
  have hfield : ∀ {α : Type} (g : Core → α), (∀ c x, g { c with gate := x } = g c) → (∀ c x, g { c with fills := x } = g c) →
      g (s.gate f cells false).me = g s.me := fun g hg hf =>
    ((hg _ _).symm.trans (congrArg g hme)).trans (startsFills_me hfills g hf)
  have hgate : t.me.gate = (s.gate f cells false).me.gate := onlyPend_field hinc Core.gate fun _ _ => rfl
  refine ⟨?_, ?_, u, hfills, onlyMe_trans honly hinc.1 hgcur, ?_⟩
  · rw [Gates, hgate]
    exact gate_gates s f cells false
  · rw [hpend, hfield Core.pend (fun _ _ => rfl) (fun _ _ => rfl), incOf_congr (hgcur.trans (startsFills_cur hfills))
      (hfield Core.ga (fun _ _ => rfl) (fun _ _ => rfl)) (hfield Core.vc (fun _ _ => rfl) (fun _ _ => rfl))]
  · have h1 : { t.me with pend := (s.gate f cells false).me.pend } = (s.gate f cells false).me := hinc.2
    have hgp : (s.gate f cells false).me.pend = u.me.pend := by have h := congrArg Core.pend hme; exact h
    rw [hgp] at h1
    exact (congrArg (fun c : Core => { c with gate := u.me.gate }) h1).trans hme

/-- Settles O46: the checks pass, and each operation is its result in flight or its gate entries, with the increment. -/
theorem vectorMemoryAccess : Obligations.VectorMemoryAccess := by
  intro s v vi a ms wid gsc sc inc off w b far l blocks plus at_ loads m lines core
  have hpieces : s.vecPieces v w l b = l.map fun x => { key := vkey x.1.1 v.toNat x.1.2, addr := at_ x, width := b } := by
    refine List.map_congr_left fun x _ => ?_
    rw [State.formAddr, apply_ite Prod.snd]
  have hform : (s.formAddr w 0).1 = if far then Form.c else Form.l := by rw [State.formAddr, apply_ite Prod.fst]
  have hlate : (spaceOf w == 1) = decide far := beq_eq_decide _ _
  refine ⟨fun hslot htrial j hj => ?faults, fun hcore hspace hlanes => ?loads, fun hcore hspace hlanes hroom => ?store,
    fun hcore hspace hlanes hbank => ?gather, fun hcore hspace hlanes hroom => ?scatter⟩
  case faults =>
    simp only [List.mem_cons, List.not_mem_nil, or_false] at hj
    obtain rfl | rfl | rfl | rfl | rfl := hj <;> exact slot_faults hslot htrial _ _
  case loads =>
    have hchk : chkVec a ms wid gsc inc off false s = none := by
      rw [chkVec, onCore_eq_none hcore, spaceUse_eq_none hspace, lanesUse_eq_none (spaceSize_le s w) hlanes]; rfl
    have hloads : ∀ {i : Instr} {inv : Bool}, exec i s = s.loadVec v a ms wid gsc inc off inv → loads i inv := fun {i inv} hi => by
      have h := loadVec_completes hi hchk
      rw [show s.vecPieces v (s.me.ga a) (s.vecOffs a ms wid gsc inc off) (widBytes wid) = _ from hpieces] at h
      simp only [show s.me.ga a = w from rfl, hlate, decide_eq_true_eq] at h
      exact h
    exact ⟨hloads rfl, hloads rfl⟩
  case store =>
    have hchk : chkVec a ms wid gsc inc off true s = none := by
      rw [chkVec, onCore_eq_none hcore, spaceUse_eq_none hspace, lanesUse_eq_none (spaceSize_le s w) hlanes, gateUse_eq_none hroom]; rfl
    refine ⟨_, guarded_of_none hchk _, ?_⟩
    rw [hform]
    exact gate_postInc s _ _ a inc off
  case gather =>
    have hchk : chkIdx vi a ms wid sc false s = none := by
      rw [chkIdx, onCore_eq_none hcore, spaceUse_eq_none hspace, lanesUse_eq_none (localSize_le _) hlanes]
      exact congrArg (fun o : Bool => firstUse [none, none, none, orUse (!o) (s.useAt 0x24 w.toNat)]) hbank
    obtain ⟨hgains, honly⟩ := fly_gives s .lanes (.load .l (s.vecPieces v 0 m b) false false) 31 38 id
    refine ⟨_, guarded_of_none hchk _, ?_⟩
    have hme := State.me_upd (s.fly .lanes (.load .l (s.vecPieces v 0 m b) false false) 31 38 id) fun c => { c with gatherAt := some c.vc }
    refine ⟨?_, ?_, onlyMe_trans honly.1 (onlyMe_upd _ _) rfl, ?_⟩
    · exact (congrArg Core.pend hme).trans hgains
    · rw [hme]; exact congrArg some (onlyPend_field honly Core.vc fun _ _ => rfl)
    · rw [hme]
      have hgather : (s.fly .lanes (.load .l (s.vecPieces v 0 m b) false false) 31 38 id).me.gatherAt = s.me.gatherAt :=
        onlyPend_field honly Core.gatherAt fun _ _ => rfl
      rw [← hgather]
      exact honly.2
  case scatter =>
    have hchk : chkIdx vi a ms wid sc true s = none := by
      rw [chkIdx, onCore_eq_none hcore, spaceUse_eq_none hspace, lanesUse_eq_none (localSize_le _) hlanes, gateUse_eq_none hroom]; rfl
    exact ⟨_, guarded_of_none hchk _, gate_gates s .l _ false, gate_onlyGate s .l _ false⟩

end Sys2Proof.Machine
end

section
/-! SUPPORT. The C slots: numbered operations, stream ports, timelines, fences and atomics (10 R268 to R291). -/

namespace Sys2Proof.Machine

-- one proof after another: the memory of the whole text stands under one limit
set_option Elab.async false

open Sys2Proof Safety

/-! ### Numbered operations (10 R269, R270) -/

/-- The core that a submission leaves, before the number lands. -/
def Core.submitted (c : Core) (e : Nat) (o : EngOp) : Core := (c.bump e).setEng e (c.engOps e ++ [o])

/-- A submission on timeline 0, 1 or 3 stands last in its engine's list and takes the next number. -/
theorem submitted_takes (c : Core) {e : Nat} (he : e ∈ [0, 1, 3]) (o : EngOp) :
    (c.submitted e o).engOps e = c.engOps e ++ [o] ∧ (c.submitted e o).count e = c.count e + 1 := by
  simp only [List.mem_cons, List.not_mem_nil, or_false] at he
  obtain rfl | rfl | rfl := he
  · exact ⟨rfl, rfl⟩
  · exact ⟨rfl, rfl⟩
  · exact ⟨rfl, rfl⟩

theorem submitted_rest (c : Core) {e : Nat} (he : e ∈ [0, 1, 3]) (o : EngOp) (l : List Pending) :
    { (({ c.submitted e o with pend := l } : Core).setEng e (c.engOps e)) with
      pend := c.pend, n0 := c.n0, n1 := c.n1, n3 := c.n3 } = c := by
  simp only [List.mem_cons, List.not_mem_nil, or_false] at he
  obtain rfl | rfl | rfl := he
  · rfl
  · rfl
  · rfl

theorem submitted_other (c : Core) {e k : Nat} (he : e ∈ [0, 1, 3]) (hk : k ∈ [0, 1, 3]) (hne : k ≠ e) (o : EngOp) :
    (c.submitted e o).count k = c.count k := by
  simp only [List.mem_cons, List.not_mem_nil, or_false] at he hk
  obtain rfl | rfl | rfl := he <;> obtain rfl | rfl | rfl := hk
  · exact absurd rfl hne
  · rfl
  · rfl
  · rfl
  · exact absurd rfl hne
  · rfl
  · rfl
  · rfl
  · exact absurd rfl hne

theorem submitted_pend (c : Core) {e : Nat} (he : e ∈ [0, 1, 3]) (o : EngOp) :
    (c.submitted e o).pend = c.pend ∧ (c.submitted e o).vc = c.vc := by
  simp only [List.mem_cons, List.not_mem_nil, or_false] at he
  obtain rfl | rfl | rfl := he
  · exact ⟨rfl, rfl⟩
  · exact ⟨rfl, rfl⟩
  · exact ⟨rfl, rfl⟩

theorem land_at {c : Core} {l : List Pending} {m : Nat} (hpend : c.pend = l) (hvc : c.vc = m) (ord : BitVec 4) (d : Dest) (x : Src)
    (lat : Nat) : c.land ord d x lat =
      { c with pend := l ++ [{ dest := d, src := x, issue := m, ord := ord.toNat, perform := m, land := m + lat }] } := by
  subst hpend hvc; rfl

theorem engOps_pend (c : Core) (l : List Pending) (e : Nat) : ({ c with pend := l } : Core).engOps e = c.engOps e := by
  unfold Core.engOps; split <;> rfl

theorem count_pend (c : Core) (l : List Pending) (e : Nat) : ({ c with pend := l } : Core).count e = c.count e := by
  unfold Core.count; split <;> rfl

/-- An operation that issues by taking the next number of an engine. -/
theorem submit_numbered {i : Instr} {s : State} {e : Nat} {sn : BitVec 5} {o : EngOp} (he : e ∈ [0, 1, 3])
    (h : exec i s = .next (s.submit e sn o)) : Numbered i s e sn o := by
  refine ⟨_, h, ?_⟩
  let x : EngOp := { o with num := s.me.count e + 1, sv := s.cur.sv }
  have hfirst : (s.upd fun c => c.submitted e x).me = s.me.submitted e x := State.me_upd s _
  obtain ⟨hpend, hvc⟩ := submitted_pend s.me he x
  have hme : (s.submit e sn o).me = { s.me.submitted e x with
      pend := s.me.pend ++ [inFlight s (.s sn.toNat) (.word (BitVec.ofNat 64 (s.me.count e + 1))) 0 1] } := by
    refine (State.me_upd (s.upd fun c => c.submitted e x) _).trans ?_
    rw [hfirst, land_at hpend hvc]; rfl
  obtain ⟨hops, hcount⟩ := submitted_takes s.me he x
  beta_reduce
  unfold Gains
  rw [hme, engOps_pend, count_pend]
  exact ⟨hops, hcount, fun k hk hne => (count_pend _ _ _).trans (submitted_other s.me he hk hne _), rfl,
    onlyMe_trans (onlyMe_upd s _) (onlyMe_upd _ _) rfl, submitted_rest s.me he _ _⟩

theorem engOf_mem (eng : Bool) : engOf eng ∈ [0, 1, 3] := by cases eng <;> decide

/-! ### Checks of a numbered operation -/

theorem acceptUse_eq_none {s : State} {a : Word} {accept : List Nat} {target : Bool} (h : Accepted s a accept target) :
    s.acceptUse a accept target = none := by
  obtain ⟨hmem, hslot, hpath⟩ := h
  refine orUse_eq_none.2 ?_
  rw [List.contains_iff_mem.2 hmem, Bool.true_and, Bool.and_eq_true, Bool.not_eq_true', Bool.not_eq_true',
    Bool.and_eq_false_imp, Bool.and_eq_false_imp]
  refine ⟨fun hs => beq_eq_false_iff_ne.2 fun h1 => ?_, fun ht => ?_⟩
  · exact absurd ((hslot h1).symm.trans hs) Bool.false_ne_true
  · rw [Bool.and_eq_true, beq_iff_eq] at ht
    rw [hpath ht.1 ht.2]; rfl

theorem gOnlyUse_eq_none {s : State} {a : Word} (hsp : spaceOf a = 0 ∨ spaceOf a = 2) (hbits : nbits a.toNat 56 6 = 0) :
    s.gOnlyUse a = none := by
  have hspace : (spaceOf a == 0 || spaceOf a == 2) = true := by simpa using hsp
  rw [State.gOnlyUse, hspace, hbits]; rfl

theorem roomUse_eq_none {s : State} {e : Nat} (h : EngineRoom s e) : s.roomUse e = none := orUse_eq_none.2 (decide_eq_true h)

theorem alignUse_eq_none {s : State} {a k : Nat} (h : a % k = 0) : s.alignUse a k = none := orUse_eq_none.2 (aligned_iff.2 h)

/-- A copy's checks: its spaces, its limit, its alignments and room (10 R274). -/
theorem chkCopy_eq_none {s : State} {sub : Nat} {ad as : BitVec 4} {sl : BitVec 5} {eng : Bool}
    (hd : Accepted s (s.me.ga ad) (if sub = 5 then [0, 1, 2] else [0, 1, 2, 3]) true)
    (hs : sub ≠ 5 → Accepted s (s.me.ga as) [0, 1, 2] false)
    (hlim : sub = 1 ∨ sub = 2 ∨ sub = 3 ∨ (s.me.gs sl).toNat < 2 ^ 32)
    (h4 : sub = 2 ∨ sub = 3 → (s.me.gs (sl + 1)).toNat % 2 ^ 23 % 4 = 0)
    (h8 : sub = 4 → (s.me.gs (sl + 1)).toNat % 2 ^ 23 % 8 = 0) (hroom : EngineRoom s (engOf eng)) :
    chkCopy sub ad as sl eng s = none := by
  refine firstUse_eq_none.2 fun x hx => ?_
  simp only [List.mem_cons, List.not_mem_nil, or_false] at hx
  obtain rfl | rfl | rfl | rfl | rfl | rfl := hx
  · exact acceptUse_eq_none hd
  · split
    · rfl
    · rename_i h; exact acceptUse_eq_none (hs h)
  · refine orUse_eq_none.2 ?_
    simpa only [Bool.or_eq_true, beq_iff_eq, decide_eq_true_eq, or_assoc] using hlim
  · split
    · rename_i h; exact alignUse_eq_none (h4 h)
    · rfl
  · split
    · rename_i h; exact alignUse_eq_none (h8 h)
    · rfl
  · exact roomUse_eq_none hroom

/-- A numbered operation whose checks pass. -/
theorem guarded_numbered {i : Instr} {s : State} {u : Option Use} {e : Nat} {sn : BitVec 5} {o : EngOp} (he : e ∈ [0, 1, 3])
    (hu : u = none) (h : exec i s = guarded s u (s.submit e sn o)) : Numbered i s e sn o :=
  submit_numbered he (h.trans (guarded_of_none hu _))

/-- Settles O47: every one of them is a submission once its checks pass. -/
theorem copiesAreNumbered : Obligations.CopiesAreNumbered := by
  intro s ad as sl sn eng i c e p1 p2 o moves hroom
  have he : engOf eng ∈ [0, 1, 3] := engOf_mem eng
  have hnone : s.roomUse (engOf eng) = none := roomUse_eq_none hroom
  refine ⟨fun hd hs => ?_, fun hd hlim => ?_, fun ha => ?_, ?_, fun hcore => ⟨?_, ?_, fun hsp => ?_, fun hsp hbits hal hroom3 => ?_⟩⟩
  · have hcopy {j : Instr} {k : Nat} (h : exec j s = s.copy k ad as sl sn eng) (hk : k ≠ 5)
        (hlim : k = 1 ∨ k = 2 ∨ k = 3 ∨ p1.toNat < 2 ^ 32) (h4 : k = 2 ∨ k = 3 → p2 % 4 = 0) (h8 : k = 4 → p2 % 8 = 0) :
        moves j k :=
      guarded_numbered he (chkCopy_eq_none ((if_neg hk).symm ▸ hd) (fun _ => hs) hlim h4 h8 hroom) h
    refine ⟨fun hlim => ?_, ?_, fun h4 => ⟨?_, ?_⟩, fun hlim h8 => ?_⟩
    · exact hcopy rfl (by decide) (.inr (.inr (.inr hlim))) (fun h => absurd h (by decide)) (fun h => absurd h (by decide))
    · exact hcopy rfl (by decide) (.inl rfl) (fun h => absurd h (by decide)) (fun h => absurd h (by decide))
    · exact hcopy rfl (by decide) (.inr (.inl rfl)) (fun _ => h4) (fun h => absurd h (by decide))
    · exact hcopy rfl (by decide) (.inr (.inr (.inl rfl))) (fun _ => h4) (fun h => absurd h (by decide))
    · exact hcopy rfl (by decide) (.inr (.inr (.inr hlim))) (fun h => absurd h (by decide)) (fun _ => h8)
  · exact guarded_numbered he (chkCopy_eq_none (as := 0) hd (fun h => absurd rfl h) (.inr (.inr (.inr hlim))) (fun h => absurd h (by decide)) (fun h => absurd h (by decide)) hroom) rfl
  · refine guarded_numbered (u := chkDrain as eng s) he ?_ rfl
    rw [chkDrain, acceptUse_eq_none ha, hnone]; rfl
  · exact guarded_numbered he hnone rfl
  · refine guarded_numbered (u := chkNumbered eng s) he ?_ rfl
    rw [chkNumbered, onCore_eq_none hcore, hnone]; rfl
  · refine guarded_numbered (u := chkNumbered eng s) he ?_ rfl
    rw [chkNumbered, onCore_eq_none hcore, hnone]; rfl
  · refine guarded_numbered (u := chkTouch as eng s) he ?_ rfl
    rw [chkTouch, onCore_eq_none hcore, spaceUse_eq_none hsp, hnone]; rfl
  · refine guarded_numbered (u := chkColl as s) (by decide) ?_ rfl
    have hal' : vaOf (s.me.ga as) % 64 = 0 := (Nat.mod_mod_of_dvd _ (by decide)).trans hal
    rw [chkColl, onCore_eq_none hcore, gOnlyUse_eq_none hsp hbits, alignUse_eq_none hal', roomUse_eq_none hroom3]; rfl

/-! ### Stream ports, timelines and fences (10 R278, R280, R286 to R288) -/

theorem lUse_eq_none {s : State} {a : Word} {n k : Nat} {wr : Bool} (h : LocalOperand s a n k wr) : s.lUse a n k wr = none := by
  obtain ⟨hsp, hal, hend, htable⟩ := h
  have hregion : (!wr || isSlot s.cur.core || decide (a.toNat + n ≤ regionTable)) = true := by
    cases wr with
    | false => rfl
    | true =>
      cases hs : isSlot s.cur.core with
      | true => rfl
      | false => exact decide_eq_true (htable rfl hs)
  rw [State.lUse, spaceUse_eq_none hsp, alignUse_eq_none hal, decide_eq_true hend, hregion]; rfl

/-- A checked instruction whose meaning puts one result in flight. -/
theorem gives_of_guarded {i : Instr} {s : State} {u : Option Use} {d : Dest} {x : Src} {lat : Nat} (hu : u = none)
    (h : exec i s = guarded s u (s.land d x lat)) : Gives i s d x lat := gives_of (h.trans (guarded_of_none hu _))

theorem chkUser_eq_none {k : BitVec 3} (h : 4 ≤ k.toNat) (s : State) : chkUser k s = none := orUse_eq_none.2 (decide_eq_true h)

theorem fence_stands (i : Instr) (s : State) (kind : Nat) (q : BitVec 3) (h : exec i s = .next (s.fence kind q)) :
    Completes i s fun t => t.me.fences = s.me.fences ++ [{ pos := s.posNow, kind := kind, scope := q.toNat }] ∧ OnlyMe s t ∧
      { t.me with fences := s.me.fences } = s.me := by
  refine completes_upd h fun t hme honly => ?_
  rw [hme]
  exact ⟨rfl, honly, rfl⟩

/-- Settles O48: ports and timelines land, a signal and a fence stand in their lists. -/
theorem portsTimelinesAndFences : Obligations.PortsTimelinesAndFences := by
  intro s d q k a c
  refine ⟨fun hcore => ⟨fun hop hfill hport => ?_, ?_, ?_, fun hk hsp hoff => ?_⟩, gives_of rfl, fun hk => ?_, ?_, ?_⟩
  · have hchk : chkBind a s = none := by
      rw [chkBind, onCore_eq_none hcore, lUse_eq_none hop, hfill, State.inLimit, hport]; rfl
    exact gives_of_guarded hchk rfl
  · exact gives_of_guarded (onCore_eq_none hcore) rfl
  · exact gives_of_guarded (onCore_eq_none hcore) rfl
  · have hchk : chkTlsig k a s = none := by
      rw [chkTlsig, onCore_eq_none hcore, chkUser_eq_none hk, spaceUse_eq_none hsp, hoff]; rfl
    exact ⟨_, guarded_of_none hchk _, rfl, rfl⟩
  · exact gives_of_guarded (chkUser_eq_none hk s) rfl
  · refine ⟨_, rfl, ?_⟩
    split
    · rename_i hk
      exact ⟨rfl, fun x hx => (List.mem_filter.1 hx).1, fun h => absurd h (by omega)⟩
    · exact ⟨rfl, fun x hx => hx, fun _ => rfl⟩
  · exact ⟨fence_stands _ s 0 q rfl, fence_stands _ s 1 q rfl, fence_stands _ s 2 q rfl⟩

/-! ### Atomics and wide cells (10 R282 to R285) -/

/-- What an atomic's space asks of it besides. -/
def CellOk (s : State) (w : Word) (n : Nat) (ret : Bool) : Prop :=
  (spaceOf w = 0 → LocalOperand s w n n true ∧ isSlot s.cur.core = false) ∧ (spaceOf w = 1 → offOf w < regionTable) ∧
  (if spaceOf w = 0 && !ret then s.gateUse 1 else s.inCk) = none

theorem chkAtom_eq_none {s : State} {a : BitVec 4} {n : Nat} {ret : Bool} (hsp : SpaceOk s (s.me.ga a) [0, 1, 2])
    (hal : (s.me.ga a).toNat % n = 0) (hcell : CellOk s (s.me.ga a) n ret) : chkAtom a n ret s = none := by
  obtain ⟨hlocal, htable, hplace⟩ := hcell
  refine firstUse_eq_none.2 fun x hx => ?_
  simp only [List.mem_cons, List.not_mem_nil, or_false] at hx
  obtain rfl | rfl | rfl | rfl | rfl | rfl := hx
  · refine orUse_eq_none.2 ?_
    have hmem := hsp.1
    simp only [List.mem_cons, List.not_mem_nil, or_false] at hmem
    obtain h | h | h := hmem
    · rw [(hlocal h).2]; rfl
    · rw [(hsp.2.2.2.2 h).1]; rfl
    · rw [h, bne_self_eq_false, Bool.and_false]; rfl
  · exact spaceUse_eq_none hsp _
  · exact alignUse_eq_none hal
  · split
    · rename_i h; exact lUse_eq_none (hlocal h).1
    · rfl
  · refine orUse_eq_none.2 ?_
    by_cases h : spaceOf (s.me.ga a) = 1
    · rw [decide_eq_true (htable h), Bool.or_true]
    · rw [bne_iff_ne.2 h, Bool.true_or]
  · exact hplace

theorem inCk_eq_none {s : State} (h : InCk s) : s.inCk = none := orUse_eq_none.2 h

/-- An atomic of the own vault without a return waits in the gate buffer. -/
theorem gateAtom_gates (s : State) (addr : Nat) (op : AtomOp) (acq rel : Bool) :
    OnlyGate s (s.gateAtom addr op acq rel) ∧ ∃ e : Gated, (s.gateAtom addr op acq rel).me.gate = s.me.gate ++ [e] ∧ e.form = .l ∧
      e.cells = [] ∧ e.atom = some (addr, op) ∧ e.issue = s.me.vc ∧ e.entry = true ∧ e.rel = rel ∧ e.acq = acq := by
  have h := startStores_starts s .l [addr / 64]
  refine ⟨⟨_, h, onlyMe_upd _ _, ?_⟩, ?_⟩
  · rw [State.gateAtom, State.me_upd]
  · rw [State.gateAtom, State.me_upd, startsFills_me h Core.gate fun _ _ => rfl, startsFills_me h Core.vc fun _ _ => rfl]
    exact ⟨_, rfl, rfl, rfl, rfl, rfl, rfl, rfl, rfl⟩

/-- The destination of an atomic's result. -/
def atomDest (d : BitVec 5) (ret : Bool) : Dest := if ret then .s d.toNat else .none

/-- An atomic in flight, marked with its key and with the order that SEM asks for. -/
def atomMark (s : State) (sem : BitVec 2) (y : Pending) : Pending :=
  { y with irrev := some s.irrevKey, acq := sem.getLsbD 0, rel := sem.getLsbD 1, enc := s.cur.enc }

/-- An atomic in flight outside the own vault, with the row and the time of its access. -/
def atomFlight (s : State) (sem : BitVec 2) (late : Bool) (row : Nat) (y : Pending) : Pending :=
  { atomMark s sem y with late := late, row := row }

theorem atomic_local {s : State} {a : BitVec 4} (h0 : spaceOf (s.me.ga a) = 0) (hfirst : FirstTime s) (d : BitVec 5) (op : AtomOp)
    (sem : BitVec 2) : s.atomic d a op true sem =
      s.markDone.fly (.s d.toNat) (.atomic .l (offOf (s.me.ga a)) op true) 5 5 (atomMark s sem) := by
  rw [State.atomic, h0]
  exact irrevocable_first hfirst (atomDest d true) 5 fun s => s.fly (atomDest d true) _ 5 5 _

theorem atomic_gated {s : State} {a : BitVec 4} (h0 : spaceOf (s.me.ga a) = 0) (d : BitVec 5) (op : AtomOp) (sem : BitVec 2) :
    s.atomic d a op false sem = s.gateAtom (offOf (s.me.ga a)) op (sem.getLsbD 0) (sem.getLsbD 1) := by
  rw [State.atomic, h0]; rfl

theorem atomic_cluster {s : State} {a : BitVec 4} (h1 : spaceOf (s.me.ga a) = 1) (hfirst : FirstTime s) (d : BitVec 5) (op : AtomOp)
    (ret : Bool) (sem : BitVec 2) : s.atomic d a op ret sem = s.markDone.fly (atomDest d ret)
      (.atomic .c (vaultAddr (coreC s.cur.core (s.me.ga a)) (offOf (s.me.ga a))) op ret) 14 14
      (atomFlight s sem (s.modeOf s.cur.core == 0) 4) := by
  rw [State.atomic, h1]
  exact irrevocable_first hfirst _ _ _

theorem atomic_global {s : State} {a : BitVec 4} (h2 : spaceOf (s.me.ga a) = 2) (hfirst : FirstTime s) (d : BitVec 5) (op : AtomOp)
    (ret : Bool) (sem : BitVec 2) : s.atomic d a op ret sem =
      s.markDone.fly (atomDest d ret) (.atomic .g (vaOf (s.me.ga a)) op ret) 8 8 (atomFlight s sem true 1) := by
  rw [State.atomic, h2]
  exact irrevocable_first hfirst _ _ _

/-- An instruction that performs as a marked result in flight. -/
theorem flies_of {i : Instr} {s t : State} {d : Dest} {x : Src} {lat : Nat} {f : Pending → Pending} (h : exec i s = .next t)
    (ht : t = s.markDone.fly d x lat lat f) :
    Completes i s fun t => Gains s t (f (inFlight s d x lat lat)) ∧ Marks s t ∧ OnlyMe s t ∧
      { t.me with pend := s.me.pend, irrevNew := s.me.irrevNew } = s.me :=
  ⟨_, h.trans (congrArg _ ht), markDone_fly s d x lat lat f⟩

theorem chkWcread_eq_none {s : State} {a : BitVec 4} (hcore : isSlot s.cur.core = false) (h : LocalOperand s (s.me.ga a) 16 16 false) :
    chkWcread a s = none := by
  rw [chkWcread, onCore_eq_none hcore, lUse_eq_none h]; rfl

/-- Settles O49: each atomic takes the course of its space; an irrevocable one flies with its mark. -/
theorem atomicsIssue : Obligations.AtomicsIssue := by
  intro s d ss sc a ce wd u bf sem c w x acts n
  have hacts {i : Instr} {d : BitVec 5} {sub width : Nat} {u : Bool} {x y : Word} {sem : BitVec 2}
      (h : exec i s = guarded s (chkAtom a (width / 8) (d != 0) s)
        (s.atomic d a { sub := sub, w := width, u := u, x := x, c := y } (d != 0) sem)) : acts i d sub width u x y sem := by
    intro hsp hal
    have hnext (hcell : CellOk s w (width / 8) (d != 0)) := h.trans (guarded_of_none (chkAtom_eq_none hsp hal hcell) _)
    have hfar (hne : spaceOf w ≠ 0) (htable : spaceOf w = 1 → offOf w < regionTable) (hfirst : FirstTime s) :
        CellOk s w (width / 8) (d != 0) :=
      ⟨fun h => absurd h hne, htable, by rw [decide_eq_false hne]; exact inCk_eq_none hfirst.1⟩
    refine ⟨fun h0 hop hcore => ?_, fun h1 htable hfirst => ?_, fun h2 hfirst => ?_⟩
    · have hlocal (hplace : (if spaceOf w = 0 && !(d != 0) then s.gateUse 1 else s.inCk) = none) : CellOk s w (width / 8) (d != 0) :=
        ⟨fun _ => ⟨hop, hcore⟩, fun h => absurd (h0.symm.trans h) (by decide), hplace⟩
      refine ⟨fun hret hfirst => ?_, fun hret hroom => ?_⟩
      · have hcell := hlocal (by rw [hret, Bool.not_true, Bool.and_false]; exact inCk_eq_none hfirst.1)
        rw [hret] at hnext hcell ⊢
        exact flies_of (hnext hcell) (atomic_local h0 hfirst d _ sem)
      · have hcell := hlocal (by rw [hret, h0]; exact gateUse_eq_none hroom)
        rw [hret] at hnext hcell
        exact ⟨_, (hnext hcell).trans (congrArg _ (atomic_gated h0 d _ sem)), gateAtom_gates s _ _ _ _⟩
    · exact flies_of (hnext (hfar (by rw [h1]; decide) (fun _ => htable) hfirst)) (atomic_cluster h1 hfirst d _ _ sem)
    · exact flies_of (hnext (hfar (by rw [h2]; decide) (fun h => absurd (h2.symm.trans h) (by decide)) hfirst))
        (atomic_global h2 hfirst d _ _ sem)
  exact ⟨hacts rfl, hacts rfl, hacts rfl, hacts rfl, hacts rfl, hacts rfl, hacts rfl, hacts rfl, hacts rfl, hacts rfl,
    fun hcore hop => ⟨_, guarded_of_none (chkWcread_eq_none hcore hop) _, (fly_gives s _ _ 5 6 id).symm⟩⟩

end Sys2Proof.Machine
end

section
/-! SUPPORT. Hub operations as they issue (12 R320). -/

namespace Sys2Proof.Machine

-- one proof after another: the memory of the whole text stands under one limit
set_option Elab.async false

open Sys2Proof Safety

/-- The requester of a hub operation: the next request identifier, held, the rest of its bundle put aside. -/
def Core.asking (c : Core) (op : Nat) (rest : List MicroOp) : Core :=
  { c with nid := c.nid + 1, hold := if op = 0x31 then 8 else 1, rest := rest }

/-- The job context of an agent is that of its unit. -/
theorem ctxOf_congr {s t : State} {p : Nat} (h : (t.core p).unit = (s.core p).unit) : t.ctxOf p = s.ctxOf p := by
  rw [State.ctxOf, State.ctxOf, h]

theorem sendHub_me (s : State) (op func : Nat) (x y : Word) :
    (s.sendHub op func x y).me = s.me.asking op (leadOps s.agenda) :=
  State.me_upd { s with agenda := s.agenda.drop (leadOps s.agenda).length } (·.asking op (leadOps s.agenda))

/-- A request sent, as the statements say it. -/
theorem sendHub_sent (s : State) (op func : Nat) (x y : Word) :
    Sent s (s.sendHub op func x y) op func x y ∧
      { (s.sendHub op func x y).me with nid := s.me.nid, hold := s.me.hold, rest := s.me.rest } = s.me := by
  let s0 : State := { s with agenda := s.agenda.drop (leadOps s.agenda).length }
  let u : State := s0.upd (·.asking op (leadOps s.agenda))
  have hme : u.me = s.me.asking op (leadOps s.agenda) := sendHub_me s op func x y
  have hctx : u.ctxOf s.cur.core = s.ctxOf s.cur.core := ctxOf_congr (congrArg Core.unit hme :)
  have hreq : (s.sendHub op func x y).hubq = s.hubq ++ [{
      agent := s.cur.core, id := u.me.nid, op := op, func := func, x := x, y := y,
      ctx := u.ctxOf s.cur.core, sv := s.cur.sv, enc := s.cur.enc, reis := s.cur.reis }] := rfl
  rw [hme, hctx] at hreq
  refine ⟨⟨hreq, ?_, ?_, ?_, rfl, fun q hq => State.core_updCore_other s0 (·.asking op (leadOps s.agenda)) hq, fun _ => rfl, rfl⟩, ?_⟩
  · rw [sendHub_me]; rfl
  · rw [sendHub_me]; rfl
  · rw [sendHub_me]; rfl
  · rw [sendHub_me]; rfl

/-- A marked operation's request, as the statements say it. -/
theorem markDone_sendHub (s : State) (op func : Nat) (x y : Word) :
    let t := s.markDone.sendHub op func x y
    Sent s t op func x y ∧ Marks s t ∧
      { t.me with nid := s.me.nid, hold := s.me.hold, rest := s.me.rest, irrevNew := s.me.irrevNew } = s.me := by
  have hmark : s.markDone.me = { s.me with irrevNew := { s.me.irrevNew with done := s.me.irrevNew.done ++ [s.irrevKey] } } :=
    State.me_upd s _
  obtain ⟨⟨hreq, hnid, hhold, hrest, hagenda, hothers, hbytes, hframe⟩, hme⟩ := sendHub_sent s.markDone op func x y
  have hctx : s.markDone.ctxOf s.cur.core = s.ctxOf s.cur.core := ctxOf_congr (congrArg Core.unit hmark :)
  intro t
  have hsend : t.me = s.markDone.me.asking op (leadOps s.agenda) := sendHub_me s.markDone op func x y
  refine ⟨⟨?_, ?_, hhold, hrest, hagenda, fun q hq => (hothers q hq).trans ((onlyMe_upd s _).2.1 q hq), hbytes,
    congrArg (fun v : State => { v with cores := s.cores }) hframe⟩, ?_, ?_⟩
  · rw [hmark] at hreq
    exact hctx ▸ hreq
  · rw [hnid, hmark]
  · rw [Marks, hsend, hmark]; rfl
  · rw [hsend, hmark]; rfl

theorem hub_asks {i : Instr} {s : State} {op func : Nat} {d : Dest} {x y : Word} (hop : op = 0x31 ∨ op = 0x34)
    (h : exec i s = s.hubOp op func d x y) : Completes i s fun t =>
      Sent s t op func x y ∧ { t.me with nid := s.me.nid, hold := s.me.hold, rest := s.me.rest } = s.me := by
  refine ⟨_, h.trans ?_, sendHub_sent s op func x y⟩
  obtain rfl | rfl := hop <;> rfl

theorem chkHub_eq_none {s : State} (hsv : s.cur.sv = true) (hck : InCk s) : chkHub true s = none := by
  have hpriv : s.privileged false = none := orUse_eq_none.2 (by rw [hsv]; rfl)
  rw [chkHub, if_pos rfl, hpriv, inCk_eq_none hck]; rfl

theorem hub_orders {i : Instr} {s : State} {op func : Nat} {d : Dest} {x y : Word} (hsv : s.cur.sv = true) (hfirst : FirstTime s)
    (hop : (op != 0x31 && op != 0x34) = true) (h : exec i s = s.hubOp op func d x y) : Completes i s fun t =>
      Sent s t op func x y ∧ Marks s t ∧
        { t.me with nid := s.me.nid, hold := s.me.hold, rest := s.me.rest, irrevNew := s.me.irrevNew } = s.me := by
  obtain ⟨hck, hdone, hsec⟩ := hfirst
  refine ⟨_, h.trans ?_, markDone_sendHub s op func x y⟩
  rw [State.hubOp, hop, chkHub_eq_none hsv hck, hdone, hsec]; rfl

/-- Settles O51: a request, marked where it is irrevocable. -/
theorem hubOperationsAreSent : Obligations.HubOperationsAreSent := by
  intro s d a b c x y asks orders
  refine ⟨hub_asks (.inl rfl) rfl, hub_asks (.inr rfl) rfl, hub_asks (.inr rfl) rfl, fun hsv hfirst => ?_⟩
  have ho {i : Instr} {op func : Nat} {d : Dest} {x y : Word} (hop : (op != 0x31 && op != 0x34) = true)
      (h : exec i s = s.hubOp op func d x y) : orders i op func x y := hub_orders hsv hfirst hop h
  exact ⟨ho rfl rfl, ho rfl rfl, ho rfl rfl, ho rfl rfl, ho rfl rfl, ho rfl rfl, ho rfl rfl, ho rfl rfl, ho rfl rfl, ho rfl rfl,
    ho rfl rfl, ho rfl rfl, ho rfl rfl, ho rfl rfl, ho rfl rfl, ho rfl rfl⟩

/-! ### A message received where the audit log cannot be written (10 R293; 16 R403, R407; 19 R451) -/

/-- The state `auditLogGone` with a message of core 1 present for core 0. -/
def messageLogGone : State :=
  { auditLogGone with cores := [(0, { unit := some (0, 0, 0), recvq := [{ sender := 1, bytes := [0, 0, 0, 0, 0, 0, 0, 0] }] })] }

/-- The message's last byte finds the log's vault gone, and its record's KIND stands in the ring. -/
theorem messageLogGone_kind : byteAfter (.recv 1 0) messageLogGone (0x10000000000 + 45) = some 0x0C := by decide +kernel

theorem messageLogGone_operand : LocalOperand messageLogGone (messageLogGone.me.ga 0) 64 64 true := by
  unfold LocalOperand SpaceOk
  decide +kernel

/-- Refutes O50, its clause on recv: the audit log of a sampled unit takes in the message's bytes; where that log reaches into a
vault of a V-die that is abruptly offline, the write's finding is recorded in the error ring, bytes that are none of the
log's. -/
theorem not_messagesAndRegions : ¬ Obligations.MessagesAndRegions := by
  intro h
  obtain ⟨-, -, -, hrecv, -⟩ := h messageLogGone 1 0 0 0 0 0 false false false 0 0 (by decide)
  obtain ⟨t, ht, -, -, -, -, -, hbyte, -⟩ := hrecv { sender := 1, bytes := [0, 0, 0, 0, 0, 0, 0, 0] } rfl
    messageLogGone_operand (by unfold GateRoom; decide) (.inr ⟨⟨rfl, rfl⟩, rfl, rfl⟩)
  have hkept : t.byte (0x10000000000 + 45) = 0 := hbyte _ (.inr (by unfold OffLog; decide))
  have hkind := (byteAfter_of_next ht _).symm.trans messageLogGone_kind
  rw [hkept] at hkind
  exact absurd hkind (by decide)

end Sys2Proof.Machine
end

section
/-! SUPPORT. The control words of a routine (08 R228 to R234). -/

namespace Sys2Proof.Machine

-- one proof after another: the memory of the whole text stands under one limit
set_option Elab.async false

open Sys2Proof Safety

/-- A word whose meaning is another routine of the acting tile. -/
theorem routineTo_of {i : Instr} {s : State} {r' : Routine}
    (h : exec i s = .next (s.updTile s.cur.core fun t => { t with run := some r' })) : RoutineTo i s r' := by
  refine ⟨_, h, ?_, rfl, fun q hq => State.tile_setTile_other s _ hq, fun _ => rfl, ?_⟩
  · rw [State.tile_updTile_self]
  · rw [State.tile_updTile_self]

theorem baseOk_of {a : Word} (hal : a.toNat % 64 = 0) (hsp : spaceOf a ≤ 1) : baseOk a = true := by
  rw [baseOk, hal, decide_eq_true hsp]; rfl

/-- The end of a routine's loop is found in its code: a count of 0 goes past it, another enters a level. -/
theorem tscLoop_of_match {s : State} {q w : Nat} {r : Routine}
    (hmatch : s.matchEndl q (8192 - (r.pc + 1)) (r.pc + 1) 0 = some w) (hroom : r.loops.length < 4) (c : Nat) :
    s.tscLoop q r c = (s, .ok (if c = 0 then { r with pc := w + 1 }
      else { r with pc := r.pc + 1, loops := r.loops ++ [{ start := r.pc + 1, stop := w, idx := 0, count := c }] })) := by
  simp only [State.tscLoop, hmatch]
  by_cases hc : c = 0
  · rw [if_pos hc, if_pos hc]
  · rw [if_neg hc, if_neg hc, if_neg (Nat.not_le.2 hroom)]; rfl

theorem ofNat_eq_zero_iff_nbits (x lo n : Nat) : BitVec.ofNat n (x / 2 ^ lo) = 0 ↔ nbits x lo n = 0 := by
  rw [BitVec.ofNat_eq_ofNat, ← BitVec.toNat_inj, BitVec.toNat_ofNat, BitVec.toNat_ofNat, Nat.zero_mod]; rfl

/-- No word that a skip passes over opens or closes a loop. -/
theorem skip_passes {s : State} {q a n : Nat}
    (h : ∀ k, a < k → k ≤ a + n → tscOp (s.microWord q k) ≠ 0x0A ∧ tscOp (s.microWord q k) ≠ 0x0B) :
    ((seqFrom (a + 1) n).any fun w => let o := tscOp (s.microWord q w); o == 0x0A || o == 0x0B) = false := by
  refine List.any_eq_false.2 fun w hw => ?_
  have hrange := mem_seqFrom.1 hw
  obtain ⟨hopen, hclose⟩ := h w (by omega) (by omega)
  simp only [Bool.or_eq_true, beq_iff_eq, not_or]
  exact ⟨hopen, hclose⟩

/-- Settles O52: each word's routine is the one that its definition answers. -/
theorem routineControl : Obligations.RoutineControl := by
  intro s r d a b imm n bit v to_ q hrun word va next
  refine ⟨?_, ?_, ?_, ?_, ?_, ?_, fun hcell => ?_, fun hal hsp => ?_, fun w hmatch hroom => ?_, fun l hl => ?_,
    fun hn hpass => ?_, fun hin => ?_, ?_⟩
  · exact routineTo_of (show execTscSetp d a imm s = _ from tsc_ok hrun rfl)
  · exact routineTo_of (show execTscSetpHi d a imm s = _ from tsc_ok hrun rfl)
  · exact routineTo_of (show execTscSetpReg d a b s = _ from tsc_ok hrun rfl)
  · exact routineTo_of (show execTscWaitq s = _ from tsc_ok hrun rfl)
  · exact routineTo_of (show execTscTriOff s = _ from tsc_ok hrun rfl)
  · exact routineTo_of (show execTscAccsel a s = _ from tsc_ok hrun rfl)
  · refine routineTo_of (show execTscTri a b s = _ from tsc_ok hrun (if_neg fun hne => ?_))
    rw [ne_eq, ne_eq, ofNat_eq_zero_iff_nbits, ofNat_eq_zero_iff_nbits] at hne
    exact hcell.elim hne.1 hne.2
  · refine routineTo_of (show execTscXstr a s = _ from tsc_ok hrun (if_neg ?_))
    rw [baseOk_of hal hsp]; decide
  · have hloop := tscLoop_of_match hmatch hroom
    exact ⟨routineTo_of (show execTscLoopImm imm s = _ from tsc_ok hrun (hloop _)), routineTo_of (show execTscLoopReg a s = _ from tsc_ok hrun (hloop _)),
      routineTo_of (show execTscLoopKb s = _ from tsc_ok hrun (hloop _))⟩
  · refine routineTo_of (show execTscEndl s = _ from tsc_ok hrun ?_)
    simp only [hl]
    split <;> rfl
  · refine routineTo_of (show execTscSkip n s = _ from tsc_ok hrun ?_)
    simp only [hn, if_false, Bool.and_eq_true, decide_eq_true_eq]
    split
    · rfl
    · exact if_neg (Bool.eq_false_iff.1 (skip_passes hpass))
  · refine routineTo_of (show execTscBrc a bit v to_ s = _ from tsc_ok hrun ?_)
    by_cases hbit : va.getLsbD bit.toNat = v
    · rw [if_pos hbit, if_neg (by rw [bne_iff_ne, ne_eq, not_not]; exact hbit)]
      cases hl : r.loops.getLast? with
      | none => rfl
      | some l => exact if_pos (hin l hl)
    · rw [if_neg hbit, if_pos (bne_iff_ne.2 hbit)]; rfl
  · refine ⟨_, rfl, ?_⟩
    have htile : (s.updTile q fun t => if t.run.isSome then t.endRoutine else t).tile q = (s.tile q).endRoutine :=
      (State.tile_updTile_self s q _).trans (if_pos (by rw [hrun]; rfl))
    beta_reduce
    rw [htile]
    exact ⟨rfl, rfl, rfl, fun k hk => State.tile_setTile_other s _ hk, fun _ => rfl, rfl⟩

end Sys2Proof.Machine
end

section
/-! SUPPORT. What stores, reads and the error log leave unchanged (09 R263; 16 R403; 18 R428 to R434). -/

namespace Sys2Proof.Machine

-- one proof after another: the memory of the whole text stands under one limit
set_option Elab.async false

open Sys2Proof Safety

/-! ### Reads and writes of the stores -/

/-- Nothing has changed but stored bytes with their protection, the parity journal, counts of events and flits, and the
histories of units. -/
def Stores (s t : State) : Prop :=
  { t with mem := s.mem, past := s.past, sect := s.sect, marks := s.marks, journal := s.journal, torn := s.torn, units := s.units,
           fab := s.fab, pow := s.pow, swr := s.swr, srd := s.srd } = s ∧ SameUnits s t ∧
  (MemOk s → MemOk t)

theorem Stores.refl (s : State) : Stores s s := ⟨rfl, rfl, id⟩

theorem Stores.trans {s t u : State} (h : Stores s t) (h' : Stores t u) : Stores s u := by
  obtain ⟨hrest, hunits, hmem⟩ := h
  obtain ⟨hrest', hunits', hmem'⟩ := h'
  refine ⟨?_, hunits'.trans hunits, hmem' ∘ hmem⟩
  rw [← hrest, ← hrest']

theorem Stores.foldl {β : Type} {f : State → β → State} (h : ∀ s x, Stores s (f s x)) (l : List β) :
    ∀ s, Stores s (l.foldl f s) := by
  induction l with
  | nil => exact Stores.refl
  | cons x l ih => exact fun s => (h s x).trans (ih _)

/-- The same for a fold that gathers a result beside the state. -/
theorem Stores.foldl_fst {α β : Type} {f : State × α → β → State × α} (h : ∀ r x, Stores r.1 (f r x).1) (l : List β) :
    ∀ r, Stores r.1 (l.foldl f r).1 := by
  induction l with
  | nil => exact fun r => .refl r.1
  | cons x l ih => exact fun r => (h r x).trans (ih _)

theorem Stores.ite {s t u : State} {p : Prop} [Decidable p] (ht : Stores s t) (hu : Stores s u) :
    Stores s (if p then t else u) := by
  split
  · exact ht
  · exact hu

theorem stores_setByte (s : State) (a : Nat) (b : Byte) : Stores s (s.setByte a b) := ⟨rfl, rfl, State.setByte_wf a b⟩

theorem stores_setBytes (d : List Byte) : ∀ (s : State) (a : Nat), Stores s (s.setBytes a d) := by
  induction d with
  | nil => exact fun s _ => .refl s
  | cons b d ih => exact fun s a => Stores.trans (t := s.setByte a b) (stores_setByte s a b) (ih _ _)

theorem stores_applyEntry (s : State) (e : JEntry) : Stores s (s.applyEntry e) := by
  unfold State.applyEntry
  have h := stores_setBytes (xorBytes (s.bytes (parityAddr e.stripe (64 * e.sector)) 64) e.delta) s (parityAddr e.stripe (64 * e.sector))
  split
  · exact h.trans ⟨rfl, rfl, id⟩
  · exact h.trans ⟨rfl, rfl, id⟩

theorem stores_settleStripe (s : State) (st : Nat) : Stores s (s.settleStripe st) :=
  (Stores.foldl stores_applyEntry _ s).trans ⟨rfl, rfl, id⟩

theorem stores_rebuild (s : State) (a : Nat) : Stores s (s.rebuild a).1 := stores_settleStripe s _

theorem stores_storeImage (s : State) (a : Nat) (d : List Byte) (tag mark : Nat) : Stores s (s.storeImage a d tag mark) :=
  (stores_setBytes d s _).trans ⟨rfl, rfl, id⟩

theorem stores_readHbm (s : State) (a : Nat) : Stores s (s.readHbm a).1 := by
  unfold State.readHbm
  dsimp only
  split
  · exact .refl s
  · have hsettle : Stores s (if s.stackLost (s.dataStack (a / 64 * 64)) = true then s.settleStripe (s.stripeOf (a / 64 * 64)) else s) :=
      .ite (stores_settleStripe s _) (.refl s)
    generalize (if s.stackLost (s.dataStack (a / 64 * 64)) = true then s.settleStripe (s.stripeOf (a / 64 * 64)) else s) = u
      at hsettle ⊢
    refine hsettle.trans ?_
    split
    · exact stores_rebuild u _
    · split
      · exact stores_rebuild u _
      · split
        · exact .ite (stores_storeImage u _ _ _ _) (.refl u)
        · split
          · exact (stores_rebuild u _).trans (stores_storeImage _ _ _ _ _)
          · exact .refl u

theorem stores_logDelta (s : State) (e : JEntry) : Stores s (s.logDelta e) := by
  unfold State.logDelta
  dsimp only
  split
  · exact .refl s
  · split
    · exact ⟨rfl, rfl, id⟩
    · split
      · exact ⟨rfl, rfl, id⟩
      · exact Stores.trans (stores_applyEntry s _) ⟨rfl, rfl, id⟩

theorem stores_writeHbm (s : State) (b off : Nat) (d : List Byte) (lc : Option Nat) (pm : Nat) :
    Stores s (s.writeHbm b off d lc pm).1 := by
  unfold State.writeHbm
  dsimp only
  split
  · exact .refl s
  · refine (stores_readHbm s (b / 64 * 64)).trans ?_
    generalize (s.readHbm (b / 64 * 64)).1 = u
    split
    · exact (stores_rebuild u _).trans (stores_logDelta _ _)
    · exact (stores_storeImage u _ _ _ _).trans (stores_logDelta _ _)

theorem stores_setSector (s : State) (a : Nat) (x : Sector) : Stores s (s.setSector a x) := ⟨rfl, rfl, id⟩

theorem stores_writeOther (s : State) (a : Nat) (v : Byte) (pm : Nat) (whole : Bool) : Stores s (s.writeOther a v pm whole) := by
  unfold State.writeOther
  have hflip (u : State) (b : Nat) : Stores u (if b < 512 then
      u.setByte (a / 64 * 64 + b / 8) (u.byte (a / 64 * 64 + b / 8) ^^^ (1#8 <<< (b % 8))) else u) := .ite (stores_setByte u _ _) (.refl u)
  have hflips : Stores s (if (wordFlips a (s.sector a).flips).length = 1 then (wordFlips a (s.sector a).flips).foldl (fun u b =>
      if b < 512 then u.setByte (a / 64 * 64 + b / 8) (u.byte (a / 64 * 64 + b / 8) ^^^ (1#8 <<< (b % 8))) else u) s else s) :=
    .ite (.foldl hflip _ s) (.refl s)
  dsimp only
  refine hflips.trans ?_
  generalize (if (wordFlips a (s.sector a).flips).length = 1 then _ else s) = u
  refine Stores.trans ?_ (stores_setByte _ a v)
  split
  · exact ⟨rfl, rfl, id⟩
  · exact ⟨rfl, rfl, id⟩

theorem stores_tally (s : State) (k n : Nat) : Stores s (s.tally k n) := ⟨rfl, rfl, id⟩

theorem stores_linkFlit (s : State) (j : Nat) : Stores s (s.linkFlit j) := ⟨rfl, rfl, id⟩

theorem stores_lineEvents (s : State) (a : Nat) : Stores s (s.lineEvents a) := by
  unfold State.lineEvents
  have hfirst : Stores s (if s.inHbm a then s.tally 4 1 else if inVault a then s.tally 3 1 else if inHost a then s.tally 6 1
      else if inPeer a then s.flit a else s) :=
    .ite (stores_tally s 4 1) (.ite (stores_tally s 3 1) (.ite (stores_tally s 6 1) (.ite (stores_linkFlit s _) (.refl s))))
  exact hfirst.trans (.ite (stores_tally _ 7 1) (.refl _))

theorem stores_readLine (s : State) (a n : Nat) : Stores s (s.readLine a n).1 := by
  unfold State.readLine
  dsimp only
  split
  · exact Stores.trans (t := { s with srd := SMap.upd s.srd 0 (s.dataStack a) (· + 1) }) ⟨rfl, rfl, id⟩
      ((stores_lineEvents _ a).trans (stores_readHbm _ a))
  · split
    · exact .refl s
    · exact stores_lineEvents s a

theorem stores_writeLine (s : State) (a : Nat) (d : List Byte) (cls : List Nat) (lc : Option Nat) :
    Stores s (s.writeLine a d cls lc).1 := by
  unfold State.writeLine
  dsimp only
  split
  · exact Stores.trans (t := { s with swr := SMap.upd s.swr 0 (s.dataStack a) (· + 1) }) ⟨rfl, rfl, id⟩
      ((stores_lineEvents _ a).trans (stores_writeHbm _ _ _ _ _ _))
  · split
    · exact .refl s
    · split
      · exact .refl s
      · exact (stores_lineEvents s a).trans (.foldl (fun _ _ => stores_writeOther _ _ _ _ _) _ _)

theorem stores_noteWrites (s : State) : Stores s s.noteWrites := by
  unfold State.noteWrites
  split
  · exact .refl s
  · split
    · exact .refl s
    · refine ⟨rfl, ?_, id⟩
      unfold SameUnits
      rw [List.map_map]; rfl

theorem stores_noteBefore (s : State) (a n : Nat) : Stores s (s.noteBefore a n) := .ite (.refl s) (stores_noteWrites s)

theorem stores_readStore (s : State) (a n : Nat) : Stores s (s.readStore a n).1 := by
  refine Stores.foldl_fst (fun r x => ?_) _ (s, [], [], [])
  exact stores_readLine r.1 x.1 x.2

theorem stores_writeStore (s : State) (a : Nat) (d : List Byte) (cls : List Nat) (lc : Option Nat) :
    Stores s (s.writeStore a d cls lc).1 := by
  refine (stores_noteBefore s a d.length).trans (Stores.foldl_fst (fun r x => ?_) _ (s.noteBefore a d.length, []))
  exact stores_writeLine r.1 x.1 _ _ lc

/-! ### The error log -/

/-- Nothing has changed but what a store or a record changes: also the log's own registers, what waits for a host route, the
latch of a snapshot, and events of cores. -/
structure Logs (s t : State) : Prop where
  rest : { t with mem := s.mem, past := s.past, sect := s.sect, marks := s.marks, journal := s.journal, torn := s.torn,
                  units := s.units, fab := s.fab, pow := s.pow, swr := s.swr, srd := s.srd, cores := s.cores, ctl := s.ctl,
                  snap := s.snap, err := s.err, held := s.held } = s
  units : SameUnits s t
  core : ∀ q, { t.core q with evt := (s.core q).evt } = s.core q
  mem : MemOk s → MemOk t

theorem Logs.refl (s : State) : Logs s s := ⟨rfl, rfl, fun _ => rfl, id⟩

theorem Logs.trans {s t u : State} (h : Logs s t) (h' : Logs t u) : Logs s u := by
  obtain ⟨hrest, hunits, hcore, hmem⟩ := h
  obtain ⟨hrest', hunits', hcore', hmem'⟩ := h'
  refine ⟨?_, hunits'.trans hunits, fun q => ?_, hmem' ∘ hmem⟩
  · rw [← hrest, ← hrest']
  · rw [← hcore q, ← hcore' q]

theorem Logs.ite {s t u : State} {p : Prop} [Decidable p] (ht : Logs s t) (hu : Logs s u) : Logs s (if p then t else u) := by
  split
  · exact ht
  · exact hu

theorem Logs.foldl {β : Type} {f : State → β → State} (h : ∀ s x, Logs s (f s x)) (l : List β) : ∀ s, Logs s (l.foldl f s) := by
  induction l with
  | nil => exact Logs.refl
  | cons x l ih => exact fun s => (h s x).trans (ih _)

theorem Stores.logs {s t : State} (h : Stores s t) : Logs s t := by
  obtain ⟨hrest, hunits, hmem⟩ := h
  have hcores : t.cores = s.cores := (congrArg State.cores hrest :)
  refine ⟨?_, hunits, fun q => ?_, hmem⟩
  · rw [← hrest]
  · rw [State.core, State.core, hcores]

theorem logs_setEvt (s : State) (p b : Nat) : Logs s (s.updCore p (·.setEvt b)) := by
  refine ⟨rfl, rfl, fun q => ?_, id⟩
  by_cases hq : q = p
  · rw [hq, State.core_updCore_self]; rfl
  · rw [State.core_updCore_other _ _ hq]

theorem logs_ringSnap (s : State) : Logs s s.ringSnap := by
  unfold State.ringSnap
  exact Logs.foldl (fun s p => logs_setEvt s p 3) _ s

theorem logs_withSnap (s : State) (n : Snap) : Logs s { s with snap := n } := ⟨rfl, rfl, fun _ => rfl, id⟩

theorem logs_trigger (s : State) (src : Nat) (tag : Byte) (pcore : Nat) : Logs s (s.trigger src tag pcore) := by
  by_cases hen : s.snap.en.getLsbD src = true
  · have hto (n : Snap) : Logs s { s.ringSnap with snap := n } := (logs_ringSnap s).trans (logs_withSnap _ n)
    by_cases harmed : s.snap.armed = true
    · rw [trigger_of_armed hen harmed]
      exact hto _
    · rw [trigger_of_unarmed hen (Bool.eq_false_of_not_eq_true harmed)]
      exact hto _
  · rw [trigger_of_disabled (Bool.eq_false_of_not_eq_true hen)]
    exact .refl s

theorem logs_signalIrq (s : State) : Logs s s.signalIrq := ⟨rfl, rfl, fun _ => rfl, id⟩

theorem logs_ownDone (s : State) (irq : Bool) : Logs s (s.ownDone (.record irq)) := by
  cases irq
  · exact ⟨rfl, rfl, fun _ => rfl, id⟩
  · exact ⟨rfl, rfl, fun _ => rfl, id⟩

/-- Is a record written to the ring (16 R403)? -/
def State.takesRecord (s : State) (r : Rec) : Bool :=
  s.err.en && (s.err.corr || r.sev != 0) &&
    !(s.err.viral && inHost (s.err.base.toNat + 64 * ((s.err.head.toNat + s.waiting Own.isRecord) % 2 ^ s.err.n.toNat)))

/-- The bytes of a record as its append writes them. -/
def State.recordBytes (s : State) (r : Rec) : List Byte :=
  let snap := s.err.snapsev.toNat ≤ r.sev && s.trigAccepted 4
  { r with flags := r.flags ||| (if snap then flagSnap else 0) ||| (if s.err.viral then flagViral else 0) |||
      (if s.takesRecord r then 0 else flagUnlogged) }.bytes s.gtc.toNat
    (if s.takesRecord r then s.err.head.toNat + s.waiting Own.isRecord else s.err.head.toNat)

/-- The state in which a record has fired its trigger and is counted. -/
def State.counted (s : State) (r : Rec) : State :=
  let t := if s.err.snapsev.toNat ≤ r.sev then s.trigger 4 0 0 else s
  { t with err := { t.err with cnt := (s.err.cnt &&& ~~~(0xFF#64 <<< (8 * r.sev))) |||
      ((satInc (s.err.cnt.extractLsb' (8 * r.sev) 8)).setWidth 64 <<< (8 * r.sev)) } }

/-- The three courses of an append. -/
theorem appendOne_eq (s : State) (r : Rec) : s.appendOne r =
    let a := s.err.base.toNat + 64 * ((s.err.head.toNat + s.waiting Own.isRecord) % 2 ^ s.err.n.toNat)
    let irq := decide (s.err.irqsev.toNat ≤ r.sev)
    if !s.takesRecord r then (if irq then (s.counted r).signalIrq else s.counted r, s.recordBytes r, [])
    else if (s.counted r).ownWaits a Own.isRecord then ((s.counted r).keepOwn a (s.recordBytes r) (.record irq), s.recordBytes r, [])
    else (((s.counted r).writeStore a (s.recordBytes r) [] none).1.ownDone (.record irq), s.recordBytes r,
      ((s.counted r).writeStore a (s.recordBytes r) [] none).2) := by
  unfold State.appendOne State.counted State.recordBytes State.takesRecord
  dsimp only

theorem logs_counted (s : State) (r : Rec) : Logs s (s.counted r) :=
  Logs.trans (.ite (logs_trigger s 4 0 0) (.refl s)) ⟨rfl, rfl, fun _ => rfl, id⟩

theorem logs_appendOne (s : State) (r : Rec) : Logs s (s.appendOne r).1 := by
  rw [appendOne_eq]
  dsimp only
  refine (logs_counted s r).trans ?_
  generalize s.counted r = u
  split
  · exact .ite (logs_signalIrq u) (.refl u)
  · split
    · exact ⟨rfl, rfl, fun _ => rfl, id⟩
    · exact (stores_writeStore u _ _ _ _).logs.trans (logs_ownDone _ _)

theorem logs_appendRecs (n : Nat) : ∀ (l : List Rec) (s : State), Logs s (State.appendRecs n l s) := by
  induction n with
  | zero => exact fun _ => Logs.refl
  | succ n ih =>
    intro l s
    cases l with
    | nil => exact .refl s
    | cons r l => exact (logs_appendOne s r).trans (ih _ _)

theorem logs_logTogether (s : State) (l : List Rec) : Logs s (s.logTogether l) := by
  unfold State.logTogether
  split
  · exact ⟨rfl, rfl, fun _ => rfl, id⟩
  · exact logs_appendRecs _ _ s

theorem logs_logAll (s : State) (r : Rec) (fs : List Find) : Logs s (s.logAll r fs) := .ite (.refl s) (logs_logTogether s _)

theorem logs_append (s : State) (r : Rec) : Logs s (s.append r).1 := (logs_appendOne s r).trans (logs_logAll _ _ _)

theorem logs_log (s : State) (r : Rec) : Logs s (s.log r) := logs_append s r

theorem recordBytes_length (s : State) (r : Rec) : (s.recordBytes r).length = 64 := by
  simp [State.recordBytes, Rec.bytes, toBytes_length]

theorem append_snd (s : State) (r : Rec) : (s.append r).2 = s.recordBytes r := by
  show (s.appendOne r).2.1 = _
  rw [appendOne_eq]
  dsimp only
  split
  · rfl
  · split <;> rfl

theorem counted_mem (s : State) (r : Rec) : (s.counted r).mem = s.mem := by
  unfold State.counted
  dsimp only
  split
  · unfold State.trigger
    dsimp only
    split
    · rfl
    · rw [← (ringSnap_frame s).2.2]
      generalize s.ringSnap = u
      split <;> rfl
  · rfl

/-- A log that is switched off writes no byte. -/
theorem append_mem {s : State} (h : s.err.en = false) (r : Rec) : (s.append r).1.mem = s.mem := by
  have hoff : s.takesRecord r = false := by rw [State.takesRecord, h]; rfl
  have hone : (s.appendOne r).1.mem = s.mem ∧ (s.appendOne r).2.2 = [] := by
    rw [appendOne_eq, hoff]
    refine ⟨?_, rfl⟩
    rw [← counted_mem s r]
    dsimp only
    rw [Bool.not_false, if_pos rfl]
    split <;> rfl
  show ((s.appendOne r).1.logAll {} (s.appendOne r).2.2).mem = _
  rw [hone.2, ← hone.1]; rfl

end Sys2Proof.Machine
end

section
/-! SUPPORT. What translations, fills and writes of memory leave unchanged (09 R249 to R260; 16 R407). -/

namespace Sys2Proof.Machine

-- one proof after another: the memory of the whole text stands under one limit
set_option Elab.async false

open Sys2Proof Safety

/-! ### Units by their names -/

/-- A unit's record without what its writes and inputs leave in it (11 R313; 16 R405, R407). -/
def UnitRec.shape (r : UnitRec) : UnitRec := { r with hist := [], sig := 0, log := [], logn := 0, audited := false }

/-- The units have the names and shapes that they had. -/
def SameShapes (s t : State) : Prop :=
  ∀ c l u, (t.findUnit c l u).map UnitRec.shape = (s.findUnit c l u).map UnitRec.shape

theorem findUnit_name {s : State} {c l u : Nat} {r : UnitRec} (h : s.findUnit c l u = some r) : r.ctx = c ∧ r.lid = l ∧ r.u = u := by
  have h := List.find?_some h
  simpa only [Bool.and_eq_true, beq_iff_eq, and_assoc] using h

theorem findUnit_map {s : State} (g : UnitRec → UnitRec) (hg : ∀ r, (g r).ctx = r.ctx ∧ (g r).lid = r.lid ∧ (g r).u = r.u)
    (c l u : Nat) : (s.units.map g).find? (fun r => r.ctx == c && r.lid == l && r.u == u) = (s.findUnit c l u).map g := by
  have hpred : (fun x : UnitRec => x.ctx == c && x.lid == l && x.u == u) ∘ g = fun x => x.ctx == c && x.lid == l && x.u == u := by
    funext x
    obtain ⟨h1, h2, h3⟩ := hg x
    simp only [Function.comp_apply, h1, h2, h3]
  rw [List.find?_map, hpred]; rfl

/-- Replacing a unit's record by one of the same shape. -/
theorem sameShapes_setUnit {s : State} {c l u : Nat} {r r' : UnitRec} (h : s.findUnit c l u = some r) (hr : r'.shape = r.shape) :
    SameShapes s (s.setUnit r') := by
  obtain ⟨hc, hl, hu⟩ := findUnit_name h
  have hc' : r'.ctx = c := (congrArg UnitRec.ctx hr).trans hc
  have hl' : r'.lid = l := (congrArg UnitRec.lid hr).trans hl
  have hu' : r'.u = u := (congrArg UnitRec.u hr).trans hu
  intro c2 l2 u2
  let g := fun (x : UnitRec) => if x.ctx == r'.ctx && x.lid == r'.lid && x.u == r'.u then r' else x
  have hname (x : UnitRec) : (g x).ctx = x.ctx ∧ (g x).lid = x.lid ∧ (g x).u = x.u := by
    by_cases hx : (x.ctx == r'.ctx && x.lid == r'.lid && x.u == r'.u) = true
    · have hg : g x = r' := if_pos hx
      simp only [Bool.and_eq_true, beq_iff_eq] at hx
      rw [hg]
      exact ⟨hx.1.1.symm, hx.1.2.symm, hx.2.symm⟩
    · have hg : g x = x := if_neg hx
      rw [hg]
      exact ⟨rfl, rfl, rfl⟩
  have hfind : (s.setUnit r').findUnit c2 l2 u2 = (s.findUnit c2 l2 u2).map g := findUnit_map g hname c2 l2 u2
  rw [hfind, Option.map_map]
  cases hx : s.findUnit c2 l2 u2 with
  | none => rfl
  | some x =>
    refine congrArg some ?_
    obtain ⟨h1, h2, h3⟩ := findUnit_name hx
    show (if (x.ctx == r'.ctx && x.lid == r'.lid && x.u == r'.u) = true then r' else x).shape = x.shape
    split
    · rename_i he
      simp only [Bool.and_eq_true, beq_iff_eq] at he
      have hsame : s.findUnit c2 l2 u2 = s.findUnit c l u := by
        rw [← h1, ← h2, ← h3, he.1.1, he.1.2, he.2, hc', hl', hu']
      rw [hx, h] at hsame
      rw [hr, Option.some.inj hsame]
    · rfl

/-- A unit's record without its history, as `SameUnits` compares it. -/
def UnitRec.unhist (r : UnitRec) : UnitRec := { r with hist := [] }

theorem sameShapes_of_sameUnits {s t : State} (h : SameUnits s t) : SameShapes s t := by
  intro c l u
  have hstrip (s : State) : ((s.units.map UnitRec.unhist).find? fun r => r.ctx == c && r.lid == l && r.u == u) =
      (s.findUnit c l u).map UnitRec.unhist := findUnit_map UnitRec.unhist (fun _ => ⟨rfl, rfl, rfl⟩) c l u
  have hunits : t.units.map UnitRec.unhist = s.units.map UnitRec.unhist := h
  have heq : (t.findUnit c l u).map UnitRec.unhist = (s.findUnit c l u).map UnitRec.unhist := by
    rw [← hstrip, ← hstrip, hunits]
  have hshape (s : State) : (s.findUnit c l u).map UnitRec.shape =
      ((s.findUnit c l u).map UnitRec.unhist).map UnitRec.shape := by rw [Option.map_map]; rfl
  rw [hshape, hshape, heq]

/-! ### Accesses to memory -/

/-- An access has changed of the cores only events, fills and faults reported to them, of the units only what their writes and
inputs leave; the agenda and the acting operation stand, and the stored bytes keep their form. -/
structure Accesses (s t : State) : Prop where
  core : ∀ q, { t.core q with evt := (s.core q).evt, fills := (s.core q).fills, late := (s.core q).late } = s.core q
  units : SameShapes s t
  cur : t.cur = s.cur
  agenda : t.agenda = s.agenda
  mem : MemOk s → MemOk t

theorem Accesses.refl (s : State) : Accesses s s := ⟨fun _ => rfl, fun _ _ _ => rfl, rfl, rfl, id⟩

theorem Accesses.trans {s t u : State} (h : Accesses s t) (h' : Accesses t u) : Accesses s u := by
  refine ⟨fun q => ?_, fun c l k => (h'.units c l k).trans (h.units c l k), h'.cur.trans h.cur, h'.agenda.trans h.agenda,
    h'.mem ∘ h.mem⟩
  rw [← h.core q, ← h'.core q]

theorem Logs.accesses {s t : State} (h : Logs s t) : Accesses s t :=
  ⟨fun q => by rw [← h.core q], sameShapes_of_sameUnits h.units, (congrArg State.cur h.rest :), (congrArg State.agenda h.rest :), h.mem⟩

theorem Stores.accesses {s t : State} (h : Stores s t) : Accesses s t := h.logs.accesses

theorem Accesses.ite {s t u : State} {p : Prop} [Decidable p] (ht : Accesses s t) (hu : Accesses s u) :
    Accesses s (if p then t else u) := by
  split
  · exact ht
  · exact hu

theorem Accesses.foldl {β : Type} {f : State → β → State} (h : ∀ s x, Accesses s (f s x)) (l : List β) :
    ∀ s, Accesses s (l.foldl f s) := by
  induction l with
  | nil => exact Accesses.refl
  | cons x l ih => exact fun s => (h s x).trans (ih _)

theorem Accesses.foldl_fst {α β : Type} {f : State × α → β → State × α} (h : ∀ r x, Accesses r.1 (f r x).1) (l : List β) :
    ∀ r, Accesses r.1 (l.foldl f r).1 := by
  induction l with
  | nil => exact fun r => .refl r.1
  | cons x l ih => exact fun r => (h r x).trans (ih _)

/-- A change of one core's events, fills and reported faults. -/
theorem accesses_updCore (s : State) (p : Nat) {f : Core → Core}
    (hf : ∀ c, { f c with evt := c.evt, fills := c.fills, late := c.late } = c) : Accesses s (s.updCore p f) := by
  refine ⟨fun q => ?_, fun _ _ _ => rfl, rfl, rfl, id⟩
  by_cases hq : q = p
  · rw [hq, State.core_updCore_self]; exact hf _
  · rw [State.core_updCore_other _ _ hq]

theorem accesses_setFill (s : State) (q line : Nat) (v : BitVec 3) : Accesses s (s.setFill q line v) :=
  accesses_updCore s q fun _ => rfl

theorem accesses_unitOf {s : State} {p : Nat} {r r' : UnitRec} (h : s.unitOf p = some r) (hr : r'.shape = r.shape) :
    Accesses s (s.setUnit r') := by
  have hfind : ∃ c l u, s.findUnit c l u = some r := by
    unfold State.unitOf at h
    split at h
    · exact absurd h (by simp)
    · exact ⟨_, _, _, h⟩
  obtain ⟨c, l, u, hu⟩ := hfind
  exact ⟨fun _ => rfl, sameShapes_setUnit hu hr, rfl, rfl, id⟩

/-- The unit of an agent has the shape that it had. -/
theorem Accesses.unitOf {s t : State} (h : Accesses s t) (p : Nat) :
    (t.unitOf p).map UnitRec.shape = (s.unitOf p).map UnitRec.shape := by
  have hunit : (t.core p).unit = (s.core p).unit := (congrArg Core.unit (h.core p) :)
  unfold State.unitOf
  rw [hunit]
  split
  · rfl
  · exact h.units _ _ _

theorem Accesses.unitOf_some {s t : State} (h : Accesses s t) {p : Nat} {r : UnitRec} (hr : s.unitOf p = some r) :
    ∃ r', t.unitOf p = some r' ∧ r.shape = r'.shape := by
  have hp := h.unitOf p
  rw [hr] at hp
  obtain ⟨r', hr', hs⟩ := Option.map_eq_some_iff.1 hp
  exact ⟨r', hr', hs.symm⟩

theorem accesses_sign (s : State) (p : Nat) (key : Word) (d : List Byte) : Accesses s (s.sign p key d) := by
  unfold State.sign
  split
  · exact .refl s
  · rename_i r hr
    split
    · exact .refl s
    · exact accesses_unitOf hr rfl

/-- What an access relates depends on cores, units, the acting operation, the agenda and the stored bytes alone. -/
theorem Accesses.congr {s t u : State} (h : Accesses s t) (hcores : u.cores = t.cores) (hunits : u.units = t.units)
    (hcur : u.cur = t.cur) (hagenda : u.agenda = t.agenda) (hmem : u.mem = t.mem) : Accesses s u := by
  refine h.trans ⟨fun q => ?_, fun c l k => ?_, hcur, hagenda, fun hm => ?_⟩
  · rw [State.core, State.core, hcores]
  · rw [State.findUnit, State.findUnit, hunits]
  · rw [MemOk, hmem]; exact hm

theorem logs_writeLogged (s : State) (r : Rec) (a : Nat) (d : List Byte) (cls : List Nat) (lc : Option Nat) :
    Logs s (s.writeLogged r a d cls lc) := (stores_writeStore s a d cls lc).logs.trans (logs_logAll _ _ _)

theorem logs_readLogged (s : State) (r : Rec) (a n : Nat) : Logs s (s.readLogged r a n).1 :=
  (stores_readStore s a n).logs.trans (logs_logAll _ _ _)

theorem logs_auditWrite (s : State) (b : List Byte) : Logs s (s.auditWrite b) := by
  unfold State.auditWrite
  refine (Logs.foldl (fun u x => ?_) _ s).trans ⟨rfl, rfl, fun _ => rfl, id⟩
  dsimp only
  split
  · exact ⟨rfl, rfl, fun _ => rfl, id⟩
  · exact logs_writeLogged u _ _ _ _ _

theorem accesses_auditIn (s : State) (p : Nat) (b : List Byte) : Accesses s (s.auditIn p b) := by
  unfold State.auditIn
  split
  · exact .refl s
  · rename_i r hr
    split
    · exact .refl s
    · dsimp only
      split
      · exact (accesses_unitOf (r' := { r with audited := false, log := [] }) hr rfl).congr rfl rfl rfl rfl rfl
      · have hlog := (logs_auditWrite s b).accesses
        obtain ⟨r', hr', hshape⟩ := hlog.unitOf_some hr
        exact hlog.trans ((accesses_unitOf (r' := { r with logn := r.logn + b.length, log := r.log ++ [(indexIn r.members p, b)] })
          hr' hshape).congr rfl rfl rfl rfl rfl)

/-! ### Translation and reads of G-space -/

theorem logs_goViral (s : State) (kind block : Nat) : Logs s (s.goViral kind block) := by
  unfold State.goViral
  split
  · exact .refl s
  · refine Logs.trans (t := { s with err := { s.err with viral := true, vsignal := true } }) ⟨rfl, rfl, fun _ => rfl, id⟩ ?_
    exact (logs_log _ _).trans (.foldl (fun u j => (stores_linkFlit u j).logs) _ _)

theorem logs_readEntries (s : State) (a n : Nat) : Logs s (s.readEntries a n).1 := by
  unfold State.readEntries
  dsimp only
  refine (stores_readStore s a (8 * n)).logs.trans ?_
  split
  · split
    · exact (logs_logAll _ _ _).trans (logs_goViral _ _ _)
    · exact logs_logAll _ _ _
  · exact logs_logAll _ _ _

theorem accesses_keepEntry (s : State) (x : TEntry) : Accesses s (s.keepEntry x) :=
  ⟨fun _ => rfl, fun _ _ _ => rfl, rfl, rfl, id⟩

/-- The entry of a level that a walk uses, and its contiguity group where it is judged with one (09 R251, R254). -/
def State.walkRead (s : State) (ctx va level table : Nat) : State × Word × List Word :=
  let idx := ptIndex level va
  let held := s.cachedTable ctx va level
  let (s, e) := match held with
    | some x => (s, x.leaf)
    | none => let (s, l) := s.readEntries (table + 8 * idx) 1; (s, l.headD 0)
  let (s, group) := if held.isNone && peV e && level ≤ 1 then s.readEntries (table + 8 * (idx / 16 * 16)) 16 else (s, [])
  (s, e, group)

theorem logs_walkRead (s : State) (ctx va level table : Nat) : Logs s (s.walkRead ctx va level table).1 := by
  unfold State.walkRead
  dsimp only
  split
  · split
    · exact logs_readEntries s _ _
    · exact .refl s
  · dsimp only
    refine (logs_readEntries s (table + 8 * ptIndex level va) 1).trans ?_
    split
    · exact logs_readEntries _ _ _
    · exact .refl _

/-- One level of a walk, `down` telling what follows a table's entry. -/
def State.walkStep (ctx va level : Nat) (down : State → TEntry → State × Except XFault TEntry) (s : State) (table : Nat) :
    State × Except XFault TEntry :=
  let r := s.walkRead ctx va level table
  let x : TEntry := { ctx := ctx, base := va / 2 ^ (12 + 9 * level) * 2 ^ (12 + 9 * level), lsz := 12 + 9 * level, leaf := r.2.1 }
  if !peV r.2.1 then (r.1, .error { cause := 1, level := level, va := va })
  else if peLeaf r.2.1 then
    if !leafOk level (ptIndex level va) r.2.1 r.2.2 then (r.1, .error { cause := 4, level := level, va := va })
    else (r.1.keepEntry x, .ok x)
  else if !(r.1.tableOk level r.2.1 && groupOk r.2.2 (ptIndex level va) r.2.1 level) then
    (r.1, .error { cause := 4, level := level, va := va })
  else down r.1 x

theorem walkFrom_zero (ctx va : Nat) (s : State) (table : Nat) : State.walkFrom ctx va 0 s table =
    s.walkStep ctx va 0 (fun u _ => (u, .error { cause := 4, level := 0, va := va })) table := by
  delta State.walkFrom
  exact (rfl : State.walkFrom._f ctx va 0 PUnit.unit s table = _)

theorem walkFrom_succ (ctx va n : Nat) (s : State) (table : Nat) : State.walkFrom ctx va (n + 1) s table =
    s.walkStep ctx va (n + 1) (fun u x => State.walkFrom ctx va n (u.keepEntry x) (4096 * pePpn x.leaf)) table := by
  delta State.walkFrom
  exact (rfl : State.walkFrom._f ctx va (n + 1) _ s table = _)

theorem accesses_walkStep {ctx va level : Nat} {down : State → TEntry → State × Except XFault TEntry}
    (h : ∀ s x, Accesses s (down s x).1) (s : State) (table : Nat) : Accesses s (s.walkStep ctx va level down table).1 := by
  refine (logs_walkRead s ctx va level table).accesses.trans ?_
  unfold State.walkStep
  generalize s.walkRead ctx va level table = r
  dsimp only
  split
  · exact .refl _
  · split
    · split
      · exact .refl _
      · exact accesses_keepEntry _ _
    · split
      · exact .refl _
      · exact h _ _

theorem accesses_walkFrom (ctx va : Nat) : ∀ (level : Nat) (s : State) (table : Nat),
    Accesses s (State.walkFrom ctx va level s table).1 := by
  intro level
  induction level with
  | zero =>
    intro s table
    rw [walkFrom_zero]
    exact accesses_walkStep (fun s _ => .refl s) s table
  | succ n ih =>
    intro s table
    rw [walkFrom_succ]
    exact accesses_walkStep (fun s x => (accesses_keepEntry s x).trans (ih _ _)) s table

theorem accesses_walk (s : State) (c va : Nat) : Accesses s (s.walk c va).1 := by
  unfold State.walk
  split
  · exact .refl s
  · split
    · exact .refl s
    · exact accesses_walkFrom _ _ _ _ _

theorem accesses_translate (s : State) (w : Who) (va : Nat) (wr mmioOk : Bool) : Accesses s (s.translate w va wr mmioOk).1 := by
  have hentry : Accesses s (s.entryFor w.ctx va).1 := by
    unfold State.entryFor
    dsimp only
    split
    · exact .refl s
    · exact accesses_walk s _ _
  refine hentry.trans ?_
  unfold State.translate
  dsimp only
  split <;> exact .refl _

theorem accesses_readPage (s : State) (w : Who) (va n : Nat) (pred : Bool) : Accesses s (s.readPage w va n pred).1 := by
  unfold State.readPage
  dsimp only
  generalize (if pred && (s.cached w.ctx va).isNone && Config.choice (s.tick + va + 1) then s.predicted w.ctx va else none) = guess
  cases guess with
  | none =>
    dsimp only
    have hx := accesses_translate s w va false false
    generalize s.translate w va false false = x at hx ⊢
    obtain ⟨u, f | x⟩ := x
    · exact hx
    · refine hx.trans ?_
      dsimp only
      split
      · exact .refl u
      · exact (stores_readStore u _ _).accesses
  | some a =>
    dsimp only
    have hearly := (stores_readStore s a n).accesses
    generalize s.readStore a n = e at hearly ⊢
    have hx := accesses_translate e.1 w va false false
    generalize e.1.translate w va false false = x at hx ⊢
    refine hearly.trans ?_
    obtain ⟨u, f | x⟩ := x
    · exact hx.trans (logs_logTogether u _).accesses
    · refine hx.trans ?_
      dsimp only
      split
      · exact (logs_logTogether u _).accesses
      · split
        · exact .refl u
        · exact (logs_logTogether u _).accesses.trans (stores_readStore _ _ _).accesses

theorem accesses_readG (s : State) (w : Who) (va n : Nat) (pred : Bool) : Accesses s (s.readG w va n pred).1 := by
  unfold State.readG
  refine Accesses.foldl_fst (fun r x => ?_) _ (s, _)
  dsimp only
  split
  · exact .refl _
  · split
    · exact accesses_readPage _ _ _ _ _
    · exact accesses_readPage _ _ _ _ _

/-! ### Fills and writes (09 R258 to R260) -/

/-- What a fill's read leaves: its bytes stored, or the line unfilled and a fault. -/
def State.fillWith (r : State × Except XFault Got) (q line va : Nat) : State × Option XFault :=
  match r.2 with
  | .error f => (r.1.setFill q line 0, some f)
  | .ok g =>
    let s := r.1.logAll (r.1.recFor q { va := va }) g.finds
    let (s, _) := s.writeStore (vaultAddr q (64 * line)) g.data g.cls none
    ((s.setFill q line 1).auditIn q g.data, none)

theorem accesses_fillWith {s : State} {r : State × Except XFault Got} (h : Accesses s r.1) (q line va : Nat) :
    Accesses s (State.fillWith r q line va).1 := by
  refine h.trans ?_
  obtain ⟨u, f | g⟩ := r
  · exact accesses_setFill u q line 0
  · exact (((logs_logAll u _ _).trans (stores_writeStore _ _ _ _ _).logs).accesses.trans (accesses_setFill _ _ _ _)).trans
      (accesses_auditIn _ _ _)

theorem accesses_fillDeep : ∀ (n : Nat) (s : State) (q line : Nat), Accesses s (State.fillDeep n s q line).1 := by
  intro n
  induction n with
  | zero => exact fun s _ _ => .refl s
  | succ n ih =>
    intro s q line
    unfold State.fillDeep
    split
    · exact .refl s
    · rename_i d _
      let w : Who := { p := q, ctx := s.ctxOf q, sv := d.sv, eng := true }
      let va := d.gva + (64 * line - d.voff)
      have hown := accesses_readG s w va 64 true
      dsimp only
      split
      · exact .refl s
      · cases s.peek w va false false with
        | error f =>
          dsimp only
          generalize s.readG w va 64 true = r at hown ⊢
          exact accesses_fillWith hown q line va
        | ok x =>
          dsimp only
          split_ifs
          · have hfirst := ih s (vaultCore x.pa) (vaultOff x.pa / 64)
            generalize State.fillDeep n s (vaultCore x.pa) (vaultOff x.pa / 64) = r at hfirst ⊢
            obtain ⟨u, f | f⟩ := r
            · have hread := hfirst.trans (accesses_readG u w va 64 true)
              dsimp only
              generalize u.readG w va 64 true = r at hread ⊢
              exact accesses_fillWith hread q line va
            · exact hfirst.trans (accesses_setFill u q line 0)
          · generalize s.readG w va 64 true = r at hown ⊢
            exact accesses_fillWith hown q line va

theorem accesses_fillRange (s : State) (q off n : Nat) : Accesses s (s.fillRange q off n).1 := by
  unfold State.fillRange
  refine Accesses.foldl_fst (fun r l => ?_) _ (s, none)
  split
  · exact .refl _
  · split
    · exact accesses_fillDeep 304 _ _ _
    · exact .refl _

theorem accesses_writeVault (s : State) (q off : Nat) (d : List Byte) (cls : List Nat) : Accesses s (s.writeVault q off d cls) :=
  (((accesses_fillRange s q off d.length).trans (stores_writeStore _ _ _ _ _).accesses).trans (logs_logAll _ _ _).accesses).trans
    (.foldl (fun _ _ => .ite (accesses_setFill _ _ _ _) (.refl _)) _ _)

theorem accesses_writePa (s : State) (pa : Nat) (d : List Byte) (cls : List Nat) (lc : Option Nat) :
    Accesses s (s.writePa pa d cls lc) := by
  have hnote : Accesses s (s.noteVault pa) := .ite ((Accesses.refl s).congr rfl rfl rfl rfl rfl) (.refl s)
  exact .ite (hnote.trans (accesses_writeVault _ _ _ _ _)) (logs_writeLogged s _ _ _ _ _).accesses

theorem accesses_writeLocal (s : State) (p off : Nat) (d : List Byte) (cls : List Nat) : Accesses s (s.writeLocal p off d cls) :=
  .ite (logs_writeLogged s _ _ _ _ _).accesses (accesses_writeVault s _ _ _ _)

/-- One page of a write to G-space, after those before it: it translates, and its mapped lines are filled. -/
def State.writePage (w : Who) (r : State × Except XFault (List Xlat)) (l : Nat × Nat) : State × Except XFault (List Xlat) :=
  match r.2 with
  | .error _ => r
  | .ok xs =>
    let (s, x) := r.1.translate w l.1 true false
    match x with
    | .error f => (s, .error f)
    | .ok x => match s.peerFault w.ctx l.1 x.pa with
               | some f => (s, .error f)
               | none =>
                 let (s, f) := if inVault x.pa then s.fillRange (vaultCore x.pa) (vaultOff x.pa) l.2 else (s, none)
                 match f with
                 | some f => (s, .error f)
                 | none => (s, .ok (xs ++ [x]))

theorem accesses_writePage (w : Who) (r : State × Except XFault (List Xlat)) (l : Nat × Nat) :
    Accesses r.1 (State.writePage w r l).1 := by
  unfold State.writePage
  obtain ⟨s, f | xs⟩ := r
  · exact .refl s
  · dsimp only
    have hx := accesses_translate s w l.1 true false
    generalize s.translate w l.1 true false = x at hx ⊢
    obtain ⟨u, f | x⟩ := x
    · exact hx
    · refine hx.trans ?_
      dsimp only
      split
      · exact .refl u
      · have hfill : Accesses u (if inVault x.pa then u.fillRange (vaultCore x.pa) (vaultOff x.pa) l.2 else (u, none)).1 := by
          split
          · exact accesses_fillRange u _ _ _
          · exact .refl u
        generalize (if inVault x.pa then u.fillRange (vaultCore x.pa) (vaultOff x.pa) l.2 else (u, none)) = y at hfill ⊢
        obtain ⟨v, f | f⟩ := y
        · exact hfill
        · exact hfill

theorem accesses_writeG (s : State) (w : Who) (va : Nat) (d : List Byte) (cls : List Nat) : Accesses s (s.writeG w va d cls).1 := by
  unfold State.writeG
  dsimp only
  have hpages : Accesses s ((pagesOf (d.length / 4096 + 2) va d.length).foldl (State.writePage w) (s, .ok [])).1 :=
    .foldl_fst (accesses_writePage w) _ (s, _)
  split
  · exact hpages
  · exact Accesses.trans hpages (.foldl (fun u lx => accesses_writePa u _ _ _ _) _ _)

/-- Writing back one line: its bytes are read, and written to G-space. -/
theorem accesses_writeBack (s : State) (q : Nat) (d : RDesc) (lines : List Nat) : Accesses s (s.writeBack q d lines).1 := by
  unfold State.writeBack
  refine Accesses.foldl_fst (fun r l => ?_) _ (s, none)
  split
  · exact .refl _
  · dsimp only
    have hread := (stores_readStore r.1 (vaultAddr q (64 * l)) 64).logs
    generalize r.1.readStore (vaultAddr q (64 * l)) 64 = g at hread ⊢
    have hlog := hread.accesses.trans (logs_logAll g.1 (g.1.recFor q {}) g.2.2.2).accesses
    generalize g.1.logAll (g.1.recFor q {}) g.2.2.2 = u at hlog ⊢
    have hwrite := hlog.trans (accesses_writeG u { p := q, ctx := u.ctxOf q, sv := d.sv, eng := true }
      (d.gva + (64 * l - d.voff)) g.2.1 g.2.2.1)
    generalize u.writeG { p := q, ctx := u.ctxOf q, sv := d.sv, eng := true } (d.gva + (64 * l - d.voff)) g.2.1 g.2.2.1 = x at hwrite ⊢
    obtain ⟨v, f | f⟩ := x
    · exact hwrite
    · exact hwrite.trans (accesses_setFill v q l 1)

/-! ### Stream write ports (10 R278 to R281) -/

theorem accesses_portFault (s : State) (p : Nat) (f : XFault) : Accesses s (s.portFault p f) := by
  unfold State.portFault
  refine accesses_updCore s p ?_
  exact fun _ => rfl

theorem accesses_writePart (s : State) (p : Nat) (x : Port) (e : Nat × Lane × Nat) (lo hi : Nat) :
    Accesses s (s.writePart p x e lo hi) := by
  unfold State.writePart
  dsimp only
  split
  · exact .ite (accesses_portFault s p _) (.refl s)
  · split
    · exact .ite (accesses_portFault s p _) (.refl s)
    · have hfill := accesses_fillRange s p e.1 (2 ^ x.lsz)
      generalize s.fillRange p e.1 (2 ^ x.lsz) = r at hfill ⊢
      obtain ⟨u, f | f⟩ := r
      · exact hfill.trans ((accesses_writeLocal u p _ _ _).trans (accesses_sign _ _ _ _))
      · exact hfill.trans (accesses_portFault u p f)

theorem accesses_drainPort (s : State) (p q : Nat) : Accesses s (s.drainPort p q) := by
  unfold State.drainPort
  dsimp only
  split
  · split
    · exact .refl s
    · exact (accesses_writePart s p _ _ _ _).trans (.foldl (fun u e => accesses_writePart u p _ e _ _) _ _)
  · exact .refl s

end Sys2Proof.Machine
end

section
/-! Obligation O54: a fault rolls its core back and takes an error trap, or stops its unit (16 R394 to R400; 17 R422). -/

namespace Sys2Proof.Machine

-- one proof after another: the memory of the whole text stands under one limit
set_option Elab.async false

open Sys2Proof Safety

/-! ### Agents that act together -/

/-- The agents that fault with an agent are those of before an access. -/
theorem Accesses.together {s t : State} (h : Accesses s t) (p : Nat) : t.together p = s.together p := by
  have hcore (q : Nat) : (t.core q).halted = (s.core q).halted ∧ (t.core q).stopped = (s.core q).stopped :=
    ⟨(congrArg Core.halted (h.core q) :), (congrArg Core.stopped (h.core q) :)⟩
  have hlock : t.lock p = s.lock p := by
    have hu := h.unitOf p
    unfold State.lock State.modeOf
    cases hs : s.unitOf p with
    | none =>
      rw [hs, Option.map_none, Option.map_eq_none_iff] at hu
      rw [hu]
    | some r =>
      obtain ⟨r', hr', hshape⟩ := h.unitOf_some hs
      have hm : r.mode = r'.mode := (congrArg UnitRec.mode hshape :)
      have hz : r.size = r'.size := (congrArg UnitRec.size hshape :)
      have hl : r.members = r'.members := (congrArg UnitRec.members hshape :)
      rw [hr']
      simp only [hm, hz, hl]
  unfold State.together
  rw [hlock]
  refine List.filter_congr fun q _ => ?_
  rw [(hcore q).1, (hcore q).2]

/-! ### A rollback -/

/-- A change of a tile, or none, leaves cores and stored bytes. -/
theorem ite_updTile_frame (s : State) (p : Nat) (f : Tile → Tile) (b : Prop) [Decidable b] :
    (∀ q, (if b then s else s.updTile p f).core q = s.core q) ∧ (if b then s else s.updTile p f).mem = s.mem := by
  split
  · exact ⟨fun _ => rfl, rfl⟩
  · exact ⟨fun _ => rfl, rfl⟩

/-- What is withdrawn with a checkpoint bundle that does not complete leaves these of the core as they are (02 R45). -/
theorem withdraw_core (s : State) (p : Nat) : ∃ (pend : List Pending) (regions : List Region) (new old : Irrev) (e0 e1 : List EngOp),
    (s.withdraw p).core p = { s.core p with
      pend := pend, regions := regions, irrevNew := new, irrev := old, eng0 := e0, eng1 := e1 } := by
  unfold State.withdraw
  dsimp only
  split
  · exact ⟨_, _, _, _, _, _, rfl⟩
  · rw [State.core_updCore_self, (ite_updTile_frame _ _ _ _).1]
    exact ⟨_, _, _, _, _, _, rfl⟩

theorem withdraw_core_other (s : State) {p q : Nat} (h : q ≠ p) : (s.withdraw p).core q = s.core q := by
  unfold State.withdraw
  dsimp only
  split
  · rfl
  · rw [State.core_updCore_other _ _ h, (ite_updTile_frame _ _ _ _).1]
    rfl

theorem withdraw_mem (s : State) (p : Nat) : (s.withdraw p).mem = s.mem := by
  unfold State.withdraw
  dsimp only
  split
  · rfl
  · exact (ite_updTile_frame _ _ _ _).2

theorem restoreTile_core (s : State) (p q : Nat) : (s.restoreTile p).core q = s.core q := by
  unfold State.restoreTile
  split
  · rfl
  · rfl

theorem restoreTile_mem (s : State) (p : Nat) : (s.restoreTile p).mem = s.mem := by
  unfold State.restoreTile
  split
  · rfl
  · rfl

/-- With no element held in a write port nothing is drained. -/
theorem drainPorts_empty {s : State} {p : Nat} (h : ∀ k, k < 8 → ((s.core p).port k).ahead = []) :
    (seqFrom 0 8).foldl (fun s q => s.drainPort p q) s = s := by
  refine foldl_fixed _ _ _ (fun q hq => ?_)
  have hq : q < 8 := by
    rw [mem_seqFrom] at hq
    omega
  unfold State.drainPort
  dsimp only
  rw [h q hq]
  split <;> rfl

/-! ### A stopped agent -/

/-- An agent that has stopped stays so through the rollback of any agent. -/
theorem rollbackOne_stopped {s : State} {p : Nat} (h : (s.core p).stopped = true) (q : Nat) :
    ((s.rollbackOne q).core p).stopped = true := by
  unfold State.rollbackOne
  dsimp only
  have hdrain : Accesses s ((seqFrom 0 8).foldl (fun s k => s.drainPort q k) s) := .foldl (fun u k => accesses_drainPort u q k) _ s
  generalize (seqFrom 0 8).foldl (fun s k => s.drainPort q k) s = u at hdrain ⊢
  have hsame : (u.core p).stopped = (s.core p).stopped := (congrArg Core.stopped (hdrain.core p) :)
  have hu : (u.core p).stopped = true := hsame.trans h
  rw [restoreTile_core]
  by_cases hq : p = q
  · subst hq
    obtain ⟨_, _, _, _, _, _, hw⟩ := withdraw_core u p
    rw [State.core_updCore_self, hw, Core.rollback]
    split
    · exact hu
    · exact hu
  · rw [State.core_updCore_other _ _ hq, withdraw_core_other u hq]
    exact hu

theorem rollbackAll_stopped {s : State} {p : Nat} (h : (s.core p).stopped = true) (l : List Nat) :
    ((s.rollbackAll l).core p).stopped = true := by
  unfold State.rollbackAll
  refine List.foldlRecOn l State.rollbackOne (motive := fun t : State => (t.core p).stopped = true) h ?_
  exact fun t ht q _ => rollbackOne_stopped ht q

/-- Members that stand keep a stopped agent stopped. -/
theorem stand_stopped {s : State} {p : Nat} (h : (s.core p).stopped = true) (l : List Nat) :
    ((l.foldl (fun s m => s.updCore m Core.stand) s).core p).stopped = true := by
  refine List.foldlRecOn l _ (motive := fun t : State => (t.core p).stopped = true) h ?_
  intro t ht q _
  by_cases hq : p = q
  · subst hq
    rw [State.core_updCore_self]; rfl
  · rw [State.core_updCore_other _ _ hq]; exact ht

theorem abandonHolds_stopped {s : State} {p : Nat} (h : (s.core p).stopped = true) (r : UnitRec) :
    ((s.abandonHolds r).core p).stopped = true := by
  unfold State.abandonHolds
  refine List.foldlRecOn r.members _ (motive := fun t : State => (t.core p).stopped = true) h ?_
  intro t ht q _
  dsimp only
  split
  · exact ht
  · have hstand := stand_stopped (rollbackAll_stopped ht (t.together q)) (t.together q)
    split
    · exact hstand
    · exact hstand

/-- A fatal stop stops the agents that fault together (16 R400). -/
theorem fatalStop_stopped {s : State} {p : Nat} (h : p ∈ s.together p) (r : Rec) : ((s.fatalStop p r).core p).stopped = true := by
  unfold State.fatalStop
  dsimp only
  have hlog : (s.log { r with sev := 6 }).together p = s.together p := (logs_log s { r with sev := 6 }).accesses.together p
  generalize s.log { r with sev := 6 } = u at hlog ⊢
  rw [← hlog] at h
  generalize u.together p = l at h ⊢
  generalize u.rollbackAll l = v
  have hstand : ((l.foldl (fun s m => s.updCore m Core.stand) v).core p).stopped = true := by
    obtain ⟨l1, l2, rfl⟩ := List.append_of_mem h
    rw [List.foldl_append, List.foldl_cons]
    refine stand_stopped ?_ l2
    rw [State.core_updCore_self]; rfl
  generalize l.foldl (fun s m => s.updCore m Core.stand) v = w at hstand ⊢
  have hreq : (((w.membersOf p).foldl (fun s m => s.updCore m fun c => { c with stopReq := true }) w).core p).stopped = true := by
    refine List.foldlRecOn (w.membersOf p) _ (motive := fun t : State => (t.core p).stopped = true) hstand ?_
    intro t ht q _
    by_cases hq : p = q
    · subst hq
      rw [State.core_updCore_self]; exact ht
    · rw [State.core_updCore_other _ _ hq]; exact ht
  generalize (w.membersOf p).foldl (fun s m => s.updCore m fun c => { c with stopReq := true }) w = x at hreq ⊢
  split
  · exact hreq
  · exact abandonHolds_stopped (s := x.setUnit _) hreq _

/-! ### The error trap -/

/-- The core after its rollback and error trap: the registers of its last checkpoint, and the handler next (16 R396). -/
theorem errorTrap_rollback {c : Core} {h : Shadow} (hshadow : c.shadow = some h) (bs : List Byte) :
    c.rollback.errorTrap bs = { c.rollback with
      ecode := 0xFFFF, epc := h.pc, psv := c.sv, sv := true, pc := c.svec.setWidth 64, needCk := true,
      errq := { sender := 0x1FF, bytes := bs, err := true } :: (h.msgs.filter (fun m => m.err) ++ c.errq) } := by
  rw [Core.rollback, hshadow]; rfl

/-- Settles O54: the record is appended, the core restores its shadow with nothing left of the faulting bundle, and takes its
trap; in supervisor mode its unit stops fatally, and nothing that a stop does afterwards starts a stopped core again. -/
theorem faultsTakeAnErrorTrap : Obligations.FaultsTakeAnErrorTrap := by
  unfold Obligations.FaultsTakeAnErrorTrap
  intro s p r h
  dsimp only
  intro hslot htog hshadow hports _
  have hdeliver : s.deliver p r false = if (s.core p).sv then s.fatalStop p { r with cpc := (s.core p).ckWord.toNat } else
      ((((s.append (s.delivered p r false)).1.rollbackAll [p]).updCore p
        (·.errorTrap (s.append (s.delivered p r false)).2)).pushTurns [.begin p]) := by
    unfold State.deliver
    dsimp only
    rw [hslot, htog]
    rfl
  refine ⟨fun hsv => ?_, fun hsv => ?_⟩
  · rw [hdeliver, hsv, if_neg Bool.false_ne_true]
    have hlog := logs_append s (s.delivered p r false)
    have hlen : (s.append (s.delivered p r false)).2.length = 64 := by rw [append_snd, recordBytes_length]
    have hmem (hen : s.err.en = false) := append_mem hen (s.delivered p r false)
    generalize s.append (s.delivered p r false) = x at hlog hlen hmem ⊢
    obtain ⟨u, bs⟩ := x
    have hcore := hlog.core p
    dsimp only at hcore hlen hmem ⊢
    have hroll : u.rollbackAll [p] = ((((u.cancelTurns [p]).withdraw p).updCore p Core.rollback).restoreTile p) := by
      show (u.cancelTurns [p]).rollbackOne p = _
      unfold State.rollbackOne
      rw [drainPorts_empty]
      intro k hk
      rw [← hports k hk, ← hcore]; rfl
    rw [hroll]
    generalize hv : (u.cancelTurns [p]) = v
    have hvc : v.core p = u.core p := by rw [← hv]; rfl
    obtain ⟨pend, regions, new, old, e0, e1, hw⟩ := withdraw_core v p
    have hc : ((((((v.withdraw p).updCore p Core.rollback).restoreTile p).updCore p (·.errorTrap bs)).pushTurns [.begin p]).core p) =
        (((v.withdraw p).core p).rollback.errorTrap bs) := by
      show ((((v.withdraw p).updCore p Core.rollback).restoreTile p).updCore p (·.errorTrap bs)).core p = _
      rw [State.core_updCore_self, restoreTile_core, State.core_updCore_self]
    have hsh : ((v.withdraw p).core p).shadow = some h := by
      rw [hw, hvc, ← hshadow, ← hcore]
    have hsv' : ((v.withdraw p).core p).sv = false := by
      rw [hw, hvc, ← hsv, ← hcore]
    have hsvec : ((v.withdraw p).core p).svec = (s.core p).svec := by
      rw [hw, hvc, ← hcore]
    have herrq : ((v.withdraw p).core p).errq = (s.core p).errq := by
      rw [hw, hvc, ← hcore]
    rw [hc, errorTrap_rollback hsh, Core.rollback, hsh, hsv', hsvec, herrq]
    refine ⟨rfl, rfl, rfl, rfl, rfl, rfl, rfl, rfl, rfl, rfl, rfl, rfl, rfl, rfl, rfl, rfl, rfl, ⟨_, rfl, rfl, hlen⟩, rfl, fun hen a => ?_⟩
    show (((v.withdraw p).updCore p Core.rollback).restoreTile p).byte a = s.byte a
    rw [State.byte, State.byte, restoreTile_mem]
    show SMap.get (v.withdraw p).mem _ _ = _
    rw [withdraw_mem, ← hmem hen, ← hv]; rfl
  · rw [hdeliver, hsv, if_pos rfl]
    exact fatalStop_stopped (by rw [htog]; exact List.mem_singleton_self p) _

end Sys2Proof.Machine
end

section
/-! Obligation O55: re-issue, the end of a hold, released stores and late faults (02 R42; 04 R86, R88; 17 R413 to R418). -/

namespace Sys2Proof.Machine

-- one proof after another: the memory of the whole text stands under one limit
set_option Elab.async false

open Sys2Proof Safety

/-! ### Released stores that nothing has passed -/

/-- Where no released store has been passed across a narrow fence, no party has one to wait for (11 R306). -/
theorem flush_of_nonePassed {s : State} (h : NonePassed s) (x : Party) (own : Bool) : s.flush x own = s := by
  refine foldl_fixed _ _ _ fun k hk => ?_
  have hnone : k.2.released.any (s.owesParty k.1 x own) = false := by
    rw [List.any_eq_false]
    intro e he
    rw [State.owesParty, h k hk e he]
    exact Bool.false_ne_true
  rw [hnone]
  rfl

/-- Overtaking no store changes no core. -/
theorem overtake_zero (s : State) (p : Nat) (z : Later) :
    (∀ q, (s.overtake p 0 z).core q = s.core q) ∧ ∃ cs, s.overtake p 0 z = { s with cores := cs } := by
  unfold State.overtake
  split
  · exact ⟨fun _ => rfl, s.cores, rfl⟩
  · refine ⟨fun q => ?_, _, rfl⟩
    by_cases hq : q = p
    · subst hq
      rw [State.core_updCore_self]
      have hmap : ((seqFrom 0 (s.core q).released.length).zip (s.core q).released).map Prod.snd = (s.core q).released :=
        List.map_snd_zip (by rw [seqFrom_length])
      refine (congrArg (fun l => { s.core q with released := l }) ?_ : _ = { s.core q with released := (s.core q).released })
      refine Eq.trans (List.map_congr_left fun x _ => ?_) hmap
      exact if_neg (Nat.not_lt_zero _)
    · rw [State.core_updCore_other _ _ hq]

/-! ### Stores to a vault of the cluster -/

/-- Bytes at neighbouring addresses are one run. -/
theorem runsOf_cellsAt (d : List Byte) : ∀ a, d ≠ [] → runsOf (cellsAt a d) = [(a, d)] := by
  induction d with
  | nil => exact fun _ h => absurd rfl h
  | cons b d ih =>
    intro a _
    rw [cellsAt, List.length_cons, seqFrom, List.zip_cons_cons, runsOf]
    cases d with
    | nil => rfl
    | cons c d =>
      have htail : runsOf ((seqFrom (a + 1) (c :: d).length).zip (c :: d)) = [(a + 1, c :: d)] := ih (a + 1) (List.cons_ne_nil c d)
      rw [htail]
      exact if_pos rfl

theorem accesses_storeCells (s : State) (p q : Nat) (cells : List (Nat × Byte)) (bad : SMap Nat) :
    Accesses s (s.storeCells p q cells bad) :=
  .foldl (fun _ _ => (accesses_writeLocal _ _ _ _ _).trans (accesses_sign _ _ _ _)) _ s

theorem accesses_storeCluster (s : State) (p : Nat) (cells : List (Nat × Byte)) (bad : SMap Nat) :
    Accesses s (s.storeCluster p cells bad) := .foldl (fun _ _ => accesses_storeCells _ _ _ _ _) _ s

theorem setBytes_mem_congr {s t : State} (h : t.mem = s.mem) (a : Nat) (d : List Byte) : (t.setBytes a d).mem = (s.setBytes a d).mem := by
  induction d generalizing s t a with
  | nil => exact h
  | cons b d ih => exact ih (congrArg (SMap.put · 0 a b) h) (a + 1)

/-- Stored bytes inside one line of a vault whose line has its data: they stand there, and nothing else is written. -/
theorem writeVault_mem {s : State} {p off : Nat} {d : List Byte} (hu : Undamaged s) (hp : p < 288)
    (hgone : s.vaultGone (vaultAddr p off) = false) (hd : d ≠ []) (hend : off + d.length ≤ 0x800000)
    (hline : off / 64 = (off + d.length - 1) / 64) (hfill : s.unfilled p (off / 64) = false) :
    (s.writeVault p off d []).mem = (s.setBytes (vaultAddr p off) d).mem := by
  have hpos := List.length_pos_iff.2 hd
  have hoff : off < 0x800000 := by omega
  have hstore := writeStore_vault hu d none (vaultAddr_inVault hp hoff) hgone hd (by simp only [vaultAddr]; omega)
  obtain ⟨m, us, hnote⟩ := noteBefore_eq s (vaultAddr p off) d.length
  obtain ⟨w, hev⟩ := lineEvents_vault (s.noteBefore (vaultAddr p off) d.length) (vaultAddr_inVault hp hoff)
  have hmem : ((s.noteBefore (vaultAddr p off) d.length).lineEvents (vaultAddr p off)).mem = s.mem := by rw [hev, hnote]
  simp only [State.writeVault, fillRange_of_filled hline hfill, hstore]
  rw [dirty_mem]
  exact setBytes_mem_congr hmem _ _

/-- A store of the cluster inside one line writes its bytes there and no others. -/
theorem storeCluster_line {s : State} {p i a : Nat} {d : List Byte} (hu : Undamaged s) (hi : i < 288)
    (hgone : s.vaultGone (vaultAddr i a) = false) (hd : d ≠ []) (hend : a + d.length ≤ 0x800000)
    (hline : a / 64 = (a + d.length - 1) / 64) (hfill : s.unfilled i (a / 64) = false) :
    (s.storeCluster p (cellsAt (vaultAddr i a) d) []).mem = (s.setBytes (vaultAddr i a) d).mem := by
  have hplace : ∀ x ∈ cellsAt (vaultAddr i a) d, ∃ o, x.1 = vaultAddr i o ∧ o < 0x800000 := by
    intro x hx
    have hmem := mem_seqFrom.1 (List.of_mem_zip hx).1
    exact ⟨x.1 - vaultAddr i 0, by simp only [vaultAddr] at hmem ⊢; omega, by simp only [vaultAddr] at hmem ⊢; omega⟩
  have hcore : ∀ x ∈ cellsAt (vaultAddr i a) d, (vaultPlace x.1).1 = i := by
    intro x hx
    obtain ⟨o, ho, hlt⟩ := hplace x hx
    rw [ho]
    exact vaultAddr_core hi hlt
  have hcells : cellsAt (vaultAddr i a) d ≠ [] := by
    intro h
    have := runsOf_cellsAt d (vaultAddr i a) hd
    rw [h] at this
    exact absurd this (List.cons_ne_nil _ _).symm
  have hdistinct : distinct ((cellsAt (vaultAddr i a) d).map fun x => (vaultPlace x.1).1) = [i] := by
    refine distinct_of_all_eq (by simpa using hcells) fun x hx => ?_
    obtain ⟨y, hy, rfl⟩ := List.mem_map.1 hx
    exact hcore y hy
  have hoffs : ((cellsAt (vaultAddr i a) d).filter fun x => (vaultPlace x.1).1 = i).map (fun x => ((vaultPlace x.1).2, x.2)) =
      cellsAt a d := by
    rw [List.filter_eq_self.2 fun x hx => decide_eq_true (hcore x hx)]
    have hoff : (seqFrom (vaultAddr i a) d.length).map vaultOff = seqFrom a d.length := by
      rw [seqFrom_eq_map, seqFrom_eq_map, List.map_map]
      refine List.map_congr_left fun k hk => ?_
      have hk := List.mem_range.1 hk
      simp only [Function.comp_apply, vaultOff, vaultAddr]
      omega
    rw [cellsAt, cellsAt, ← hoff, List.zip_map_left]
    rfl
  unfold State.storeCluster
  rw [hdistinct]
  show (s.storeCells p i _ []).mem = _
  rw [hoffs, State.storeCells, runsOf_cellsAt d a hd]
  have hslot : isSlot i = false := decide_eq_false (Nat.not_le.2 hi)
  show ((s.writeLocal i a d []).sign p _ d).mem = _
  obtain ⟨us, hsign⟩ := sign_eq (s.writeLocal i a d []) p (s.keyOf p i a) d
  rw [hsign, State.writeLocal, hslot]
  exact writeVault_mem hu hi hgone hd hend hline hfill

/-! ### Late loads (05 R135) -/

/-- However a load of G-space ends, its result has arrived, and goes where it was to go. -/
theorem lateLoad_arrived (s : State) (p : Nat) (x : Pending) (q : Piece) (sx inv : Bool) :
    (s.lateLoad p x q sx inv).2.arrived = true ∧ (s.lateLoad p x q sx inv).2.dest = x.dest ∧
      (s.lateLoad p x q sx inv).2.land = x.land := by
  unfold State.lateLoad
  dsimp only
  split
  · generalize s.translate { p := p, ctx := s.ctxOf p, sv := (s.core p).sv } q.addr false true = r
    obtain ⟨u, f | t⟩ := r
    · exact ⟨rfl, rfl, rfl⟩
    · dsimp only
      split
      · exact ⟨rfl, rfl, rfl⟩
      · split
        · exact ⟨rfl, rfl, rfl⟩
        · exact ⟨rfl, rfl, rfl⟩
  · generalize s.loadG { p := p, ctx := s.ctxOf p, sv := (s.core p).sv } q.addr q.width true = r
    obtain ⟨u, f | g⟩ := r
    · exact ⟨rfl, rfl, rfl⟩
    · exact ⟨rfl, rfl, rfl⟩

/-! ### The machine steps -/

/-- Re-issue steps mp0 and mp1 by mp7 (04 R88). -/
theorem stepM_gmp (c : Core) (k : Nat) : c.stepM.gmp k = if k < 2 then c.gmp k + c.gmp 7 else c.gmp k := by
  unfold Core.gmp Core.stepM
  by_cases h1 : k = 1
  · subst h1
    exact SMap.get_put_self _ _ _ _
  · refine (SMap.get_put_other _ _ _ _ h1).trans ?_
    by_cases h0 : k = 0
    · subst h0
      exact SMap.get_put_self _ _ _ _
    · rw [if_neg (by omega)]
      exact SMap.get_put_other _ _ _ _ h0

/-- The only access that may perform is the one that a hold's end completes. -/
theorem holdEnd_one {s : State} {p i : Nat} {x : Pending} (hhold : (s.core p).hold ≠ 2) (hx : (s.core p).pend[i]? = some x)
    (hmay : s.mayArrive p i = true) (honly : ∀ k, k ≠ i → s.mayArrive p k = false) :
    execHoldEnd p s = .next (if isSlot p then s.completeAccess p i else (s.completeAccess p i).pushTurns [.begin p]) := by
  have hlt : i < (s.core p).pend.length := (List.getElem?_eq_some_iff.1 hx).1
  have hfilter : (seqFrom 0 (s.core p).pend.length).filter (fun k => s.mayArrive p k) = [i] := by
    have hsplit : seqFrom 0 (s.core p).pend.length =
        seqFrom 0 i ++ (i :: seqFrom (i + 1) ((s.core p).pend.length - i - 1)) := by
      have hlen : (s.core p).pend.length = i + (((s.core p).pend.length - i - 1) + 1) := by omega
      rw [hlen, seqFrom_append, Nat.zero_add, seqFrom]
      congr 3
      omega
    have hnone (l : List Nat) (h : i ∉ l) : l.filter (fun k => s.mayArrive p k) = [] :=
      List.filter_eq_nil_iff.2 fun k hk => by
        rw [honly k (fun he => h (he ▸ hk))]
        exact Bool.false_ne_true
    rw [hsplit, List.filter_append, List.filter_cons_of_pos hmay, hnone, hnone, List.nil_append]
    · intro h
      have := mem_seqFrom.1 h
      omega
    · intro h
      have := mem_seqFrom.1 h
      omega
  unfold execHoldEnd
  have hpick : [i][Config.pick (s.tick + 2) % [i].length]? = some i := by
    rw [show Config.pick (s.tick + 2) % [i].length = 0 from Nat.mod_one _]; rfl
  rw [if_neg hhold]
  dsimp only
  rw [hfilter, hpick]

/-- An access in flight that is a load of G-space and may perform does so (05 R135). -/
theorem completeAccess_load {s : State} {p i : Nat} {x : Pending} {q : Piece} {ps : List Piece} {sx inv : Bool}
    (hx : (s.core p).pend[i]? = some x) (hsrc : x.src = .load .g (q :: ps) sx inv) (hirrev : x.irrev = none)
    (hmay : s.mayArrive p i = true) (hsec : s.secondary p = false) (hpassed : NonePassed s) :
    let z := s.later p x
    let r := (s.overtake p ((s.core p).releasedBefore z.pos) z).lateAccess p x
    s.completeAccess p i = (r.1.updCore p (·.setPend i r.2)).twinPend p r.2 := by
  have hret : x.returning = false := by
    rw [Pending.returning, Pending.waits, Pending.undone, Pending.loads, hsrc]
    cases x.late <;> cases x.arrived <;> rfl
  have hgo (u : State) : u.completes p x = (u, true) := by
    unfold State.completes
    rw [hirrev]
    rfl
  dsimp only
  unfold State.completeAccess
  split
  case h_1 heq =>
    rw [hx] at heq
    rw [Option.some.inj heq] at hsrc
    exact absurd hsrc (by simp)
  case h_2 =>
    unfold State.arrive
    rw [hx, hmay, hsec, flush_of_nonePassed hpassed]
    dsimp only
    rw [hret, hgo]
    rfl

theorem lateAccess_load {s : State} {p : Nat} {x : Pending} {q : Piece} {ps : List Piece} {sx inv : Bool}
    (hsrc : x.src = .load .g (q :: ps) sx inv) : s.lateAccess p x = s.lateLoad p x q sx inv := by
  rw [State.lateAccess, hsrc]

/-- The first released store of an agent performs and leaves its list (02 R42). -/
theorem storePerform_one {s : State} {p : Nat} {e : Gated} (hrel : (s.core p).released = [e]) (hmay : s.mayPerform p 0 = true)
    (hpassed : NonePassed s) : ∃ v : State, execStorePerform p 0 s = .next (v.performStore p e) ∧ SameWorld s v ∧
      (v.core p).released = [] ∧ ∀ q, (v.core q).fills = (s.core q).fills := by
  obtain ⟨hcore, cs, hcs⟩ := overtake_zero s p (e.later p)
  refine ⟨(s.overtake p 0 (e.later p)).updCore p fun c => { c with released := [] }, ?_, ?_, ?_, fun q => ?_⟩
  · unfold execStorePerform
    rw [hmay, hrel, flush_of_nonePassed hpassed]
    show Host.Outcome.next (State.performStore (State.updCore _ p _) p e) = _
    unfold State.updCore
    dsimp only
    rw [hcore, hrel]
    rfl
  · rw [hcs]; rfl
  · rw [State.core_updCore_self]
  · by_cases hq : q = p
    · subst hq
      rw [State.core_updCore_self, hcore]
    · rw [State.core_updCore_other _ _ hq, hcore]

theorem deliverAmong_nil (s : State) (p : Nat) (r : Rec) : s.deliverAmong p r false [] = s.deliver p r false := by
  unfold State.deliverAmong
  have hlog (u : State) : u.logSorted [] = u := rfl
  rw [List.filter_nil, List.filter_nil, hlog, hlog]

/-- The one fault reported to a core is due and is delivered (17 R418). -/
theorem deliverLate_one {s : State} {p : Nat} {x : Late} (hlate : (s.core p).late = [x]) (hheld : s.pathHeld p = false)
    (hdue : x.due < (s.core p).vc ∨ 5 ≤ (s.core p).hold) :
    s.deliverLate p = (s.updCore p fun c => { c with late := [] }).deliver p x.what false := by
  have hfaults : s.dueFaults p = [x] := by
    unfold State.dueFaults
    dsimp only
    rw [hheld, hlate]
    exact List.filter_eq_self.2 fun y hy => by
      rw [List.mem_singleton.1 hy]
      simpa using hdue
  have hleft : (s.updCore p fun c => { c with late := c.late.filter fun y => !([x] : List Late).contains y }) =
      s.updCore p fun c => { c with late := [] } := by
    unfold State.updCore
    dsimp only
    rw [hlate]
    simp
  unfold State.deliverLate
  rw [hfaults]
  dsimp only
  rw [hleft]
  exact deliverAmong_nil _ p x.what

/-- Settles O55: each step by what its own definition does; the store that performs writes one line of a vault. -/
theorem bundleSteps : Obligations.BundleSteps := by
  unfold Obligations.BundleSteps
  intro s p i c
  refine ⟨⟨s, rfl, rfl⟩, fun h => ?_, fun h => ?_, fun hhold => ⟨fun hnone => ?_, ?_⟩,
    ?_, ?_, fun h => ?_, fun cause enc => ?_, fun w => ⟨fun h => ?_, fun r h => ?_⟩⟩
  · exact ⟨s, (congrArg Host.Outcome.next (if_neg h) : execReissue s = _), rfl⟩
  · refine ⟨s.upd Core.stepM, (congrArg Host.Outcome.next (if_pos h) : execReissue s = _), onlyMe_upd s _, ?_, fun k => ?_⟩
    · rw [State.me_upd]; rfl
    · rw [State.me_upd]; exact stepM_gmp s.me k
  · refine ⟨_, ?_, rfl⟩
    show execHoldEnd p s = _
    unfold execHoldEnd
    have hfilter : (seqFrom 0 (s.core p).pend.length).filter (fun k => s.mayArrive p k) = [] :=
      List.filter_eq_nil_iff.2 fun k _ => by rw [hnone k]; exact Bool.false_ne_true
    rw [if_neg hhold]
    dsimp only
    rw [hfilter]
    rfl
  · intro x q ps sx inv hx hsrc hirrev hmay honly hsec hpassed
    have haccess := completeAccess_load hx hsrc hirrev hmay hsec hpassed
    have hload := lateAccess_load (s := s.overtake p ((s.core p).releasedBefore (s.later p x).pos) (s.later p x)) (p := p) hsrc
    have harrived := lateLoad_arrived (s.overtake p ((s.core p).releasedBefore (s.later p x).pos) (s.later p x)) p x q sx inv
    rw [← hload] at harrived
    refine ⟨harrived.1, harrived.2.1, harrived.2.2, _, holdEnd_one hhold hx hmay honly, ?_⟩
    rw [haccess]
  · intro e a d hrel hmay hform hcells hbad hd hi hline hend hfill hpassed hu hgone
    obtain ⟨v, hexec, hworld, hgone', hfills⟩ := storePerform_one hrel hmay hpassed
    have hstore : v.performStore p e = v.storeCluster p (cellsAt (vaultAddr i a) d) [] := by
      rw [State.performStore, hform, hcells, hbad]
    have hfield {α : Type} (g : State → α) (hg : ∀ (u : State) cs, g { u with cores := cs } = g u) : g v = g s :=
      sameWorld_field hworld g hg
    have hmem : v.mem = s.mem := hfield State.mem fun _ _ => rfl
    have hbytes : (v.performStore p e).mem = (s.setBytes (vaultAddr i a) d).mem := by
      rw [hstore, storeCluster_line ⟨(hfield State.sect fun _ _ => rfl).trans hu.1, (hfield State.marks fun _ _ => rfl).trans hu.2⟩ hi
        ((hfield (fun u => u.vaultGone (vaultAddr i a)) fun _ _ => rfl).trans hgone) hd hend hline
        ((unfilled_congr hworld (by rw [State.fillOf, hfills]; rfl)).trans hfill)]
      exact setBytes_mem_congr hmem _ _
    refine ⟨_, hexec, ?_, fun k hk => ?_, fun b hb => ?_⟩
    · rw [hstore, ← hgone', ← (accesses_storeCluster v p (cellsAt (vaultAddr i a) d) []).core p]
    · rw [State.byte, hbytes]
      exact State.byte_setBytes_inside s (vaultAddr i a) k d hk
    · rw [State.byte, hbytes]
      exact State.byte_setBytes_outside s (vaultAddr i a) d hb
  · intro x hlate hheld hdue
    exact ⟨_, congrArg Host.Outcome.next (deliverLate_one hlate hheld hdue), rfl⟩
  · refine ⟨s, ?_, rfl⟩
    have hnone : s.dueFaults p = [] := by
      unfold State.dueFaults
      split
      · rfl
      · rename_i hfree
        obtain ⟨hlate, hhold⟩ := h.resolve_left hfree
        exact List.filter_eq_nil_iff.2 fun x hx => by
          simp only [Bool.or_eq_true, decide_eq_true_eq, not_or, Nat.not_le]
          exact ⟨hlate x hx, hhold⟩
    show execLateFaultDelivery p s = _
    rw [execLateFaultDelivery, State.deliverLate, hnone]
  · exact ⟨_, (rfl : execNotAnInstruction cause enc s = _), rfl⟩
  · exact ⟨s, by show execTscNotAnInstruction w s = _; rw [execTscNotAnInstruction, State.tsc, h], rfl⟩
  · exact ⟨_, by show execTscNotAnInstruction w s = _; rw [execTscNotAnInstruction, State.tsc, h], rfl⟩

end Sys2Proof.Machine
end

section
/-! Obligation O12: the step, and what the passing of time does (01 R14 to R16; 05 R147; 13 R349, R356, R358). -/

namespace Sys2Proof.Machine

-- one proof after another: the memory of the whole text stands under one limit
set_option Elab.async false

open Sys2Proof Safety

/-! ### Snapshot records (13 R359) -/

theorem layParts_length (l : List (Nat × Nat)) : (layParts l).length = (l.map Prod.fst).sum := by
  rw [layParts, List.length_flatMap]
  exact congrArg List.sum (List.map_congr_left fun e _ => toBytes_length e.1 e.2)

theorem snapParts_width (s : State) (k : Nat) : ((s.snapParts k).map Prod.fst).sum ≤ 48 := by
  unfold State.snapParts
  split_ifs
  all_goals
    simp only [List.map_cons, List.map_nil, List.sum_cons, List.sum_nil]
    omega

theorem snapRecord_length (s : State) (k : Nat) : (s.snapRecord k).length = 64 := by
  have h := snapParts_width s k
  simp only [State.snapRecord, List.length_append, toBytes_length, layParts_length, List.length_replicate]
  omega

theorem setBytes_eq (d : List Byte) : ∀ (s : State) (a : Nat), ∃ m, s.setBytes a d = { s with mem := m } := by
  induction d with
  | nil => exact fun s _ => ⟨s.mem, rfl⟩
  | cons b d ih =>
    intro s a
    obtain ⟨m, hm⟩ := ih (s.setByte a b) (a + 1)
    exact ⟨m, hm⟩

/-- Records written one after another change stored bytes of the snapshot's range alone. -/
theorem records_frame {r : Nat → List Byte} (hr : ∀ k, (r k).length = 64) (l : List Nat) (hl : ∀ k ∈ l, k < 620) : ∀ s : State,
    (∃ m, l.foldl (fun t k => t.setBytes (snapAddr (64 * k)) (r k)) s = { s with mem := m }) ∧
    ∀ a, (a < snapAddr 0 ∨ snapAddr (64 * 620) ≤ a) →
      (l.foldl (fun t k => t.setBytes (snapAddr (64 * k)) (r k)) s).byte a = s.byte a := by
  induction l with
  | nil => exact fun s => ⟨⟨s.mem, rfl⟩, fun _ _ => rfl⟩
  | cons k l ih =>
    intro s
    obtain ⟨hk, hl⟩ := List.forall_mem_cons.1 hl
    obtain ⟨⟨m, hm⟩, hbyte⟩ := ih hl (s.setBytes (snapAddr (64 * k)) (r k))
    obtain ⟨m1, hm1⟩ := setBytes_eq (r k) s (snapAddr (64 * k))
    refine ⟨⟨m, ?_⟩, fun a ha => (hbyte a ha).trans (State.byte_setBytes_outside s _ _ ?_)⟩
    · rw [List.foldl_cons, hm, hm1]
    · rw [hr]
      simp only [snapAddr] at ha ⊢
      omega

/-! ### Comparisons with the GTC (05 R147; 13 R358) -/

/-- Nothing has changed but events of snapshots, the snapshot registers and the snapshot's range of bytes. -/
structure Rung (s t : State) : Prop where
  rest : { t with mem := s.mem, snap := s.snap, cores := s.cores } = s
  core : ∀ q, { t.core q with evt := (s.core q).evt } = s.core q
  bits : ∀ q k, k ≠ 3 → (t.core q).evt.getLsbD k = (s.core q).evt.getLsbD k
  byte : ∀ a, (a < snapAddr 0 ∨ snapAddr (64 * 620) ≤ a) → t.byte a = s.byte a

theorem Rung.refl (s : State) : Rung s s := ⟨rfl, fun _ => rfl, fun _ _ _ => rfl, fun _ _ => rfl⟩

theorem Rung.trans {s t u : State} (h : Rung s t) (h' : Rung t u) : Rung s u where
  rest := (congrArg (fun x : State => { x with mem := s.mem, snap := s.snap, cores := s.cores }) h'.rest).trans h.rest
  core q := (congrArg (fun c : Core => { c with evt := (s.core q).evt }) (h'.core q)).trans (h.core q)
  bits q k hk := (h'.bits q k hk).trans (h.bits q k hk)
  byte a ha := (h'.byte a ha).trans (h.byte a ha)

/-- The registers of a snapshot may change besides. -/
theorem Rung.withSnap {s t : State} (h : Rung s t) (x : Snap) : Rung s { t with snap := x } := ⟨h.rest, h.core, h.bits, h.byte⟩

/-- What holds at another GTC holds at this one. -/
theorem Rung.withGtc {s t : State} {g : Word} (h : Rung { s with gtc := g } t) : Rung s { t with gtc := s.gtc } where
  rest := congrArg (fun x : State => { x with gtc := s.gtc }) h.rest
  core := h.core
  bits := h.bits
  byte := h.byte

/-- Setting EVT.SNAP in some cores. -/
theorem rung_of_rings {s t : State} {f : Nat → Prop} [DecidablePred f]
    (hcore : ∀ q, t.core q = if f q then { s.core q with evt := (s.core q).evt ||| 8 } else s.core q)
    (hrest : { t with cores := s.cores } = s) : Rung s t := by
  refine ⟨congrArg (fun x : State => { x with mem := s.mem, snap := s.snap }) hrest, fun q => ?_, fun q k hk => ?_, fun a _ => ?_⟩
  · rw [hcore]
    split
    · rfl
    · rfl
  · rw [hcore]
    split
    · have h8 : (8#5).getLsbD k = decide (k = 3) := by
        rw [show (8#5) = BitVec.twoPow 5 3 from rfl, BitVec.getLsbD_twoPow]
        simp [eq_comm]
      rw [show (8 : BitVec 5) = 8#5 from rfl, BitVec.getLsbD_or, h8, decide_eq_false hk, Bool.or_false]
    · rfl
  · rw [State.byte, (congrArg State.mem hrest :), State.byte]

theorem rung_ringSnap (s : State) : Rung s s.ringSnap := rung_of_rings (ringSnap_rings s).1 (ringSnap_rings s).2

theorem rung_trigger (s : State) (src : Nat) (tag : Byte) (pcore : Nat) : Rung s (s.trigger src tag pcore) := by
  unfold State.trigger
  split
  · exact .refl s
  · dsimp only
    split
    · exact (rung_ringSnap s).withSnap _
    · exact (rung_ringSnap s).withSnap _

/-- A latch writes the snapshot's records one after another (13 R359). -/
theorem latch_of_trig {s : State} (h : s.snap.trig = true) : ∃ l : List Nat, (∀ k ∈ l, k < 620) ∧ s.latch =
    let t := l.foldl (fun t k => t.setBytes (snapAddr (64 * k)) (s.snapRecord k)) s
    { t with snap := { t.snap with trig := false, fresh := true, latch := s.gtc } } := by
  refine ⟨seqFrom 0 620, fun k hk => ?_, ?_⟩
  · have := mem_seqFrom.1 hk
    omega
  · rw [State.latch, h]; rfl

/-- A latch changes the snapshot's bytes, and its registers but for the enabled sources (13 R358). -/
theorem latch_eq (s : State) : s.latch.cores = s.cores ∧ s.latch.snap.en = s.snap.en ∧ Rung s s.latch := by
  cases htrig : s.snap.trig with
  | false =>
    have h : s.latch = s := by rw [State.latch, htrig]; rfl
    rw [h]
    exact ⟨rfl, rfl, .refl s⟩
  | true =>
    obtain ⟨l, hl, h⟩ := latch_of_trig htrig
    obtain ⟨⟨m, hm⟩, hbyte⟩ := records_frame (snapRecord_length s) l hl s
    rw [h, hm]
    rw [hm] at hbyte
    exact ⟨rfl, rfl, rfl, fun _ => rfl, fun _ _ _ => rfl, hbyte⟩

theorem rung_snapReach (s : State) (g : Nat) : Rung s (s.snapReach g) := by
  unfold State.snapReach
  dsimp only
  split
  · exact (Rung.withSnap (.refl s) _).trans (rung_trigger _ 3 0 0).withGtc
  · exact Rung.withSnap (.refl s) _

/-- With the GTC's trigger disabled only the register that says that SNAPGTC was met changes. -/
theorem snapReach_off {s : State} (hen : s.snap.en.getLsbD 3 = false) (g : Nat) :
    ∃ hit, s.snapReach g = { s with snap := { s.snap with hit := hit } } := by
  unfold State.snapReach
  rw [hen]
  exact ⟨_, rfl⟩

theorem rung_snapTick (s : State) (g : Nat) : Rung s (s.snapTick g) := by
  have h := rung_snapReach s g
  have hgtc : (s.snapReach g).gtc = s.gtc := (congrArg State.gtc h.rest :)
  unfold State.snapTick
  dsimp only
  split
  · rw [← hgtc]
    exact h.trans (latch_eq _).2.2.withGtc
  · exact h

theorem snapTick_off {s : State} (hen : s.snap.en.getLsbD 3 = false) (g : Nat) :
    ∃ hit, s.snapTick g = { s with snap := { s.snap with hit := hit } } := by
  obtain ⟨hit, h⟩ := snapReach_off hen g
  refine ⟨hit, ?_⟩
  unfold State.snapTick
  rw [h]
  dsimp only
  rw [if_neg]
  cases s.snap.trig <;> simp

/-! The comparisons of the cores (05 R147). -/

theorem gtcEdge_frame (c : Core) (g : Nat) (e : BitVec 5) (a : Bool) :
    { c.gtcEdge g with evt := e, armed := a } = { c with evt := e, armed := a } := by
  unfold Core.gtcEdge
  split
  · rfl
  · rfl

theorem gtcEdge_bits (c : Core) (g : Nat) {k : Nat} (hk : k ≠ 1) : (c.gtcEdge g).evt.getLsbD k = c.evt.getLsbD k := by
  unfold Core.gtcEdge
  split
  · have h2 : (1#5 <<< 1).getLsbD k = decide (k = 1) := by
      rw [show (1#5 <<< 1) = BitVec.twoPow 5 1 from rfl, BitVec.getLsbD_twoPow]
      simp [eq_comm]
    exact (BitVec.getLsbD_or ..).trans (by rw [h2, decide_eq_false hk, Bool.or_false])
  · rfl

theorem gtcEdge_met {c : Core} {g : Nat} (ha : c.armed = true) (hg : c.evgtc.toNat ≤ g) :
    (c.gtcEdge g).evt.getLsbD 1 = true ∧ (c.gtcEdge g).armed = false := by
  rw [Core.gtcEdge, ha, decide_eq_true hg]
  exact ⟨(BitVec.getLsbD_or ..).trans (Bool.or_eq_true_iff.2 (.inr rfl)), rfl⟩

theorem gtcEdge_unmet {c : Core} {g : Nat} (h : c.armed = false ∨ g < c.evgtc.toNat) : c.gtcEdge g = c := by
  rw [Core.gtcEdge, if_neg]
  simp only [Bool.and_eq_true, decide_eq_true_eq]
  rintro ⟨ha, hg⟩
  obtain ha' | hg' := h
  · exact Bool.false_ne_true (ha'.symm.trans ha)
  · exact absurd hg (by omega)

theorem gtcEdge_again (c : Core) (g : Nat) : (c.gtcEdge g).gtcEdge g = c.gtcEdge g := by
  by_cases h : c.armed = true ∧ c.evgtc.toNat ≤ g
  · exact gtcEdge_unmet (.inl (gtcEdge_met h.1 h.2).2)
  · have hunmet : c.gtcEdge g = c := gtcEdge_unmet (by
      by_cases ha : c.armed = true
      · exact .inr (Nat.lt_of_not_le fun hg => h ⟨ha, hg⟩)
      · exact .inl (Bool.not_eq_true _ ▸ ha))
    rw [hunmet, hunmet]

theorem edges_frame (g : Nat) (l : List Nat) : ∀ s : State,
    { l.foldl (fun s p => s.updCore p (·.gtcEdge g)) s with cores := s.cores } = s ∧
    ∀ q, (l.foldl (fun s p => s.updCore p (·.gtcEdge g)) s).core q = if q ∈ l then (s.core q).gtcEdge g else s.core q := by
  induction l with
  | nil => exact fun s => ⟨rfl, fun q => rfl⟩
  | cons p l ih =>
    intro s
    obtain ⟨hrest, hcore⟩ := ih (s.updCore p (·.gtcEdge g))
    refine ⟨congrArg (fun x : State => { x with cores := s.cores }) hrest, fun q => ?_⟩
    rw [List.foldl_cons, hcore]
    by_cases hq : q = p
    · subst hq
      rw [State.core_updCore_self, gtcEdge_again, ite_self, if_pos List.mem_cons_self]
    · rw [State.core_updCore_other _ _ hq]
      exact if_congr (by simp [hq]) rfl rfl

/-- A value of a map is its default or stands in it. -/
theorem get_eq_or_mem {α : Type} (m : SMap α) (d : α) (k : Nat) : SMap.get m d k = d ∨ (k, SMap.get m d k) ∈ m := by
  induction m with
  | nil => exact .inl rfl
  | cons e m ih =>
    obtain ⟨j, x⟩ := e
    rw [SMap.get_cons]
    split
    case isTrue h => exact .inr (by rw [h]; exact List.mem_cons_self)
    case isFalse => exact ih.imp id (List.mem_cons_of_mem _)

/-- The cores whose comparison is armed. -/
theorem mem_armed {s : State} {n q : Nat} (ha : (s.core q).armed = true) (hn : 0 < n) :
    q ∈ (s.cores.filter fun e => e.2.armed && n != 0).map (·.1) := by
  obtain hd | hm := get_eq_or_mem s.cores (Core.resetOf q) q
  · exact absurd ((congrArg Core.armed hd).symm.trans ha) Bool.false_ne_true
  · refine List.mem_map.2 ⟨_, List.mem_filter.2 ⟨hm, ?_⟩, rfl⟩
    exact Bool.and_eq_true_iff.2 ⟨ha, by simp; omega⟩

/-- The comparisons of the armed cores, when time has passed. -/
def State.edges (s : State) (g n : Nat) : State :=
  ((s.cores.filter fun e => e.2.armed && n != 0).map (·.1)).foldl (fun s p => s.updCore p (·.gtcEdge g)) s

theorem edges_core (s : State) (g n q : Nat) :
    (s.edges g n).core q = if (s.core q).armed = true ∧ 0 < n then (s.core q).gtcEdge g else s.core q := by
  rw [State.edges, (edges_frame g _ s).2 q]
  by_cases h : (s.core q).armed = true ∧ 0 < n
  · rw [if_pos h, if_pos (mem_armed h.1 h.2)]
  · rw [if_neg h]
    split
    case isFalse => rfl
    case isTrue hq =>
      obtain ⟨e, he, -⟩ := List.mem_map.1 hq
      have hn : 0 < n := Nat.pos_of_ne_zero (by simpa using (Bool.and_eq_true_iff.1 (List.mem_filter.1 he).2).2)
      exact gtcEdge_unmet (.inl (Bool.not_eq_true _ ▸ fun ha => h ⟨ha, hn⟩))

/-- The running on of the GTC by `n`: a latch that is due, the GTC's own trigger, and the comparisons of the cores. -/
theorem ticks_of (s : State) (n : Nat) : ∃ t : State, (t = s ∨ t = s.latch) ∧ (s.snap.trig = false → t = s) ∧
    s.ticks n = { (t.snapTick (s.gtc.toNat + n)).edges (s.gtc.toNat + n) n with
      gtc := ((t.snapTick (s.gtc.toNat + n)).edges (s.gtc.toNat + n) n).gtc + BitVec.ofNat 64 n,
      ptp := ((t.snapTick (s.gtc.toNat + n)).edges (s.gtc.toNat + n) n).ptp.due (s.gtc.toNat + n) } := by
  refine ⟨if (s.snap.trig && n != 0) = true then s.latch else s, ?_, fun h => ?_, rfl⟩
  · split
    · exact .inr rfl
    · exact .inl rfl
  · rw [h, Bool.false_and]; rfl

/-- What the running on of the GTC by `n` does, the comparisons of the cores apart. -/
theorem ticks_eq (s : State) (n : Nat) : ∃ u, Rung s u ∧
    (s.snap.en.getLsbD 3 = false → u.cores = s.cores) ∧
    (s.snap.en.getLsbD 3 = false → s.snap.trig = false → ∃ hit, u = { s with snap := { s.snap with hit := hit } }) ∧
    { s.ticks n with gtc := u.gtc, ptp := u.ptp, cores := u.cores } = u ∧
    (s.ticks n).gtc = s.gtc + BitVec.ofNat 64 n ∧ (s.ticks n).ptp = s.ptp.due (s.gtc.toNat + n) ∧
    ∀ q, (s.ticks n).core q = if (u.core q).armed = true ∧ 0 < n then (u.core q).gtcEdge (s.gtc.toNat + n) else u.core q := by
  obtain ⟨t, hcase, hsame, hticks⟩ := ticks_of s n
  have ht : t.cores = s.cores ∧ t.snap.en = s.snap.en ∧ Rung s t := by
    obtain rfl | rfl := hcase
    · exact ⟨rfl, rfl, .refl _⟩
    · exact latch_eq s
  obtain ⟨hcores, hen, hrung⟩ := ht
  have hu := hrung.trans (rung_snapTick t (s.gtc.toNat + n))
  have hrest : { (t.snapTick (s.gtc.toNat + n)).edges (s.gtc.toNat + n) n with cores := (t.snapTick (s.gtc.toNat + n)).cores } =
    t.snapTick (s.gtc.toNat + n) := (edges_frame _ _ _).1
  have hcore := edges_core (t.snapTick (s.gtc.toNat + n)) (s.gtc.toNat + n) n
  refine ⟨t.snapTick (s.gtc.toNat + n), hu, fun hoff => ?_, fun hoff htrig => ?_, ?_, ?_, ?_, ?_⟩
  · obtain ⟨hit, h⟩ := snapTick_off (hen.symm ▸ hoff) (s.gtc.toNat + n)
    exact (congrArg State.cores h).trans hcores
  · obtain rfl := hsame htrig
    exact snapTick_off hoff _
  all_goals
    generalize t.snapTick (s.gtc.toNat + n) = u at *
    rw [hticks]
  · exact congrArg (fun x : State => { x with gtc := u.gtc, ptp := u.ptp }) hrest
  · exact congrArg (· + BitVec.ofNat 64 n) ((congrArg State.gtc hrest :).trans (congrArg State.gtc hu.rest :))
  · exact congrArg (Ptp.due · _) ((congrArg State.ptp hrest :).trans (congrArg State.ptp hu.rest :))
  · exact hcore

/-! ### Histories and the host's route (11 R313; 13 R349) -/

theorem noteWrites_eq (s : State) : ∃ past units, s.noteWrites = { s with past := past, units := units } := by
  unfold State.noteWrites
  split
  · exact ⟨s.past, s.units, rfl⟩
  · split
    · exact ⟨s.past, s.units, rfl⟩
    · exact ⟨_, _, rfl⟩

/-- A map whose values change where they stand. -/
theorem get_map {α : Type} (m : SMap α) (d : α) (f : Nat × α → Nat × α) (hf : ∀ e, (f e).1 = e.1) (k : Nat) :
    SMap.get (m.map f) d k = d ∧ SMap.get m d k = d ∨ SMap.get (m.map f) d k = (f (k, SMap.get m d k)).2 := by
  induction m with
  | nil => exact .inl ⟨rfl, rfl⟩
  | cons e m ih =>
    obtain ⟨j, x⟩ := e
    have hj := hf (j, x)
    rw [List.map_cons, show f (j, x) = ((f (j, x)).1, (f (j, x)).2) from rfl, hj, SMap.get_cons, SMap.get_cons]
    by_cases h : j = k
    · subst h
      rw [if_pos rfl, if_pos rfl]
      exact .inr rfl
    · rw [if_neg h, if_neg h]
      exact ih

/-- A tile whose queued operations have learned what their unit's history holds. -/
def State.issuesNoted (s : State) (e : Nat × Tile) : Nat × Tile :=
  match s.unitOf e.1 with
  | none => e
  | some u => (e.1, { e.2 with queue := e.2.queue.map fun o => if o.seen.isNone then { o with seen := some u.hist.length } else o })

theorem issuesNoted_frame (s : State) (q : Nat) (t : Tile) : (s.issuesNoted (q, t)).1 = q ∧
    { (s.issuesNoted (q, t)).2 with queue := t.queue } = t ∧
    (s.issuesNoted (q, t)).2.queue.map (fun o => { o with seen := none }) = t.queue.map fun o => { o with seen := none } := by
  unfold State.issuesNoted
  split
  · exact ⟨rfl, rfl, rfl⟩
  · refine ⟨rfl, rfl, (List.map_map ..).trans (List.map_congr_left fun o _ => ?_)⟩
    dsimp only [Function.comp]
    split
    · rfl
    · rfl

theorem noteIssues_eq (s : State) : ∃ tiles, s.noteIssues = { s with tiles := tiles } ∧
    ∀ q, { SMap.get tiles {} q with queue := (s.tile q).queue } = s.tile q ∧
      (SMap.get tiles {} q).queue.map (fun o => { o with seen := none }) = (s.tile q).queue.map fun o => { o with seen := none } := by
  refine ⟨s.tiles.map s.issuesNoted, rfl, fun q => ?_⟩
  obtain ⟨h, h'⟩ | h := get_map s.tiles {} s.issuesNoted (fun e => (issuesNoted_frame s e.1 e.2).1) q
  · rw [h, State.tile, h']
    exact ⟨rfl, rfl⟩
  · rw [h]
    exact (issuesNoted_frame s q (s.tile q)).2

theorem settleRoute_eq {s : State} (h : s.ctl.hnext = none ∨ s.ctl.hqueue = []) :
    ∃ k n l, s.settleRoute = { s with ctl := { s.ctl with hroute := k, hnext := n, hcuts := l } } := by
  unfold State.settleRoute
  split
  · exact ⟨_, _, _, rfl⟩
  case h_2 k hk =>
    obtain hnone | hq := h
    · exact absurd (hk.symm.trans hnone) (by simp)
    · split
      · refine ⟨k, none, [], ?_⟩
        rw [State.flushOwn]
        dsimp only
        rw [hq]
        rfl
      · exact ⟨_, _, _, rfl⟩

/-- Writes that waited for the host route leave the GTC and the agenda. -/
theorem flushOwn_kept (s : State) : s.flushOwn.gtc = s.gtc ∧ s.flushOwn.agenda = s.agenda := by
  have hlogs {t u : State} (h : Logs t u) : u.gtc = t.gtc ∧ u.agenda = t.agenda :=
    ⟨(congrArg State.gtc h.rest :), (congrArg State.agenda h.rest :)⟩
  have hdone (t : State) (w : Own) : (t.ownDone w).gtc = t.gtc ∧ (t.ownDone w).agenda = t.agenda := by
    cases w with
    | audit => exact ⟨rfl, rfl⟩
    | telemetry => exact ⟨rfl, rfl⟩
    | record irq => exact hlogs (logs_ownDone t irq)
  have hfold (l : List OwnWrite) : ∀ t : State, let u := l.foldl (fun s x => if s.err.viral && inHost x.addr then s else
      (s.writeLogged {} x.addr x.data [] none).ownDone x.what) t
      u.gtc = t.gtc ∧ u.agenda = t.agenda := by
    induction l with
    | nil => exact fun _ => ⟨rfl, rfl⟩
    | cons x l ih =>
      intro t
      obtain ⟨hg, ha⟩ := ih (if t.err.viral && inHost x.addr then t else (t.writeLogged {} x.addr x.data [] none).ownDone x.what)
      rw [List.foldl_cons]
      refine ⟨hg.trans ?_, ha.trans ?_⟩
      all_goals
        split
        · rfl
      · exact (hdone _ _).1.trans (hlogs (logs_writeLogged t _ _ _ _ _)).1
      · exact (hdone _ _).2.trans (hlogs (logs_writeLogged t _ _ _ _ _)).2
  exact hfold _ _

theorem settleRoute_kept (s : State) : s.settleRoute.gtc = s.gtc ∧ s.settleRoute.agenda = s.agenda := by
  unfold State.settleRoute
  split
  · exact ⟨rfl, rfl⟩
  · split
    · exact flushOwn_kept _
    · exact ⟨rfl, rfl⟩

/-- The same of all that stands before the GTC runs on. -/
theorem settled_kept (s : State) : s.noteWrites.noteIssues.settleRoute.gtc = s.gtc ∧
    s.noteWrites.noteIssues.settleRoute.agenda = s.agenda := by
  obtain ⟨hg, ha⟩ := settleRoute_kept s.noteWrites.noteIssues
  have h := (stores_noteWrites s).1
  exact ⟨hg.trans (congrArg State.gtc h :), ha.trans (congrArg State.agenda h :)⟩

/-! ### The step -/

/-- What stands before the GTC runs on: histories have taken note, and a host route may have taken force. -/
theorem settled_eq {s : State} (h : s.ctl.hnext = none ∨ s.ctl.hqueue = []) : ∃ past units tiles k m l,
    s.noteWrites.noteIssues.settleRoute =
      { s with past := past, units := units, tiles := tiles, ctl := { s.ctl with hroute := k, hnext := m, hcuts := l } } ∧
    units.map (fun r => { r with hist := [] }) = s.units.map (fun r => { r with hist := [] }) ∧
    ∀ q, { SMap.get tiles {} q with queue := (s.tile q).queue } = s.tile q ∧
      (SMap.get tiles {} q).queue.map (fun o => { o with seen := none }) = (s.tile q).queue.map fun o => { o with seen := none } := by
  obtain ⟨past, units, hw⟩ := noteWrites_eq s
  have hunits : SameUnits s s.noteWrites := (stores_noteWrites s).2.1
  obtain ⟨tiles, hi, htiles⟩ := noteIssues_eq s.noteWrites
  rw [hw] at hi htiles hunits
  obtain ⟨k, n, l, hr⟩ := settleRoute_eq (s := s.noteWrites.noteIssues) (by rw [hw, hi]; exact h)
  refine ⟨past, units, tiles, k, n, l, ?_, hunits, htiles⟩
  rw [hr, hw, hi]

/-- A core whose comparison with the GTC has been made after a snapshot's events. -/
theorem core_elapsed {c d e : Core} {n g : Nat} {p : Prop} (hcore : { d with evt := c.evt } = c)
    (hbits : ∀ k, k ≠ 3 → d.evt.getLsbD k = c.evt.getLsbD k) (hsame : p → d = c)
    (he : e = if d.armed = true ∧ 0 < n then d.gtcEdge g else d) :
    { e with evt := c.evt, armed := c.armed } = c ∧
    (∀ k, k < 5 → k ≠ 1 → k ≠ 3 → e.evt.getLsbD k = c.evt.getLsbD k) ∧
    (c.armed = true → 0 < n → c.evgtc.toNat ≤ g → e.evt.getLsbD 1 = true ∧ e.armed = false) ∧
    (p → c.armed = false ∨ n = 0 ∨ g < c.evgtc.toNat → e = c) := by
  have harmed : d.armed = c.armed := (congrArg Core.armed hcore :)
  have hevgtc : d.evgtc = c.evgtc := (congrArg Core.evgtc hcore :)
  have hframe : { d with evt := c.evt, armed := c.armed } = c := congrArg (fun x : Core => { x with armed := c.armed }) hcore
  by_cases h : d.armed = true ∧ 0 < n
  · rw [if_pos h] at he
    subst he
    refine ⟨(gtcEdge_frame d g _ _).trans hframe, fun k _ h1 h3 => (gtcEdge_bits d g h1).trans (hbits k h3), fun _ _ hg =>
      gtcEdge_met h.1 (hevgtc ▸ hg), fun hp hun => ?_⟩
    rw [gtcEdge_unmet, hsame hp]
    obtain ha | hn | hg := hun
    · exact .inl (harmed.trans ha)
    · exact absurd h.2 (by omega)
    · exact .inr (hevgtc ▸ hg)
  · rw [if_neg h] at he
    subst he
    exact ⟨hframe, fun k _ _ h3 => hbits k h3, fun ha hn _ => absurd ⟨harmed.trans ha, hn⟩ h, fun hp _ => hsame hp⟩

theorem elapsed_elapse (s : State) : Elapsed s s.elapse := by
  refine ⟨rfl, ?_, fun h => ?_⟩
  · obtain ⟨u, -, -, -, -, ht, -⟩ := ticks_eq s.noteWrites.noteIssues.settleRoute (Config.elapsed s.tick)
    exact ht.trans (congrArg (· + _) (settled_kept s).1)
  · obtain ⟨past, units, tiles, k, m, l, hset, hunits, htiles⟩ := settled_eq h
    obtain ⟨u, hrung, hcores, hoff, hrest, -, hptp, hcore⟩ := ticks_eq s.noteWrites.noteIssues.settleRoute (Config.elapsed s.tick)
    rw [State.elapse, State.timePasses]
    rw [hset] at hrung hcores hoff hrest hptp hcore ⊢
    generalize State.ticks _ _ = t at hrest hptp hcore ⊢
    have hmem : ∀ a, t.byte a = u.byte a := fun a => congrArg (SMap.get · 0 a) (congrArg State.mem hrest :)
    refine ⟨hptp, fun a ha => (hmem a).trans (hrung.byte a ha), fun htrig hen => ?_, fun q => ?_, fun q => ?_, ?_, ?_, ?_⟩
    · obtain ⟨hit, rfl⟩ := hoff hen htrig
      exact ⟨congrArg (fun x : Snap => { x with hit := s.snap.hit }) (congrArg State.snap hrest :), hmem⟩
    · exact core_elapsed (hrung.core q) (hrung.bits q) (fun hen => congrArg (SMap.get · (Core.resetOf q) q) (hcores hen)) (hcore q)
    · have htile : t.tiles = tiles := (congrArg State.tiles hrest :).trans (congrArg State.tiles hrung.rest :)
      have h := htiles q
      rw [← htile] at h
      exact h
    · have hu : t.units = units := (congrArg State.units hrest :).trans (congrArg State.units hrung.rest :)
      exact (congrArg (List.map fun r : UnitRec => { r with hist := [] }) hu).trans hunits
    · have hctl := (congrArg State.ctl hrest :).trans (congrArg State.ctl hrung.rest :)
      exact congrArg (fun x : Ctl => { x with hroute := s.ctl.hroute, hnext := s.ctl.hnext, hcuts := s.ctl.hcuts }) hctl
    · have h := (congrArg (fun x : State => { x with mem := s.mem, snap := s.snap, cores := s.cores, gtc := s.gtc, ptp := s.ptp })
        hrest).trans (congrArg (fun x : State => { x with gtc := s.gtc, ptp := s.ptp }) hrung.rest)
      exact congrArg (fun x : State => { x with tick := s.tick, past := s.past, tiles := s.tiles, units := s.units, ctl := s.ctl }) h

/-- Settles O12: the agenda's head is run by the step's own definition; what elapses is latched, compared and noted part by
part. -/
theorem stepIsTheOperation : Obligations.StepIsTheOperation := by
  refine ⟨fun s o r h => ?_, elapsed_elapse⟩
  have hagenda : s.elapse.agenda = .op o :: r := by
    obtain ⟨u, hrung, -, -, hrest, -⟩ := ticks_eq s.noteWrites.noteIssues.settleRoute (Config.elapsed s.tick)
    exact (congrArg State.agenda hrest :).trans (((congrArg State.agenda hrung.rest :).trans (settled_kept s).2).trans h)
  rw [step]
  dsimp only
  rw [hagenda]
  rfl

end Sys2Proof.Machine
end

section
/-! Obligation O13: a bundle with an S slot alone runs that slot's instruction (04 R84 to R89; 17 R411). -/

namespace Sys2Proof.Machine

-- one proof after another: the memory of the whole text stands under one limit
set_option Elab.async false

open Sys2Proof Safety

/-! ### Results that an S slot puts in flight -/

/-- Does a result in flight touch no vault but the own one? -/
def Src.ownVault : Src → Prop
  | .load .l ps _ _ => ∀ y ∈ ps, 0 < y.width ∧ y.addr + y.width ≤ 0x800000
  | .load .c _ _ _ | .wcread _ _ | .atomic _ _ _ _ => False
  | _ => True

/-- What an operation leaves in flight beside what was there touches no vault but the own one. -/
def Puts (s t : State) : Prop :=
  t.cur = s.cur ∧ ∃ l, t.me.pend = s.me.pend ++ l ∧ ∀ x ∈ l, Src.ownVault x.src

theorem puts_of_pend_eq {s t : State} (hcur : t.cur = s.cur) (h : t.me.pend = s.me.pend) : Puts s t :=
  ⟨hcur, [], by rw [h, List.append_nil], fun _ hx => absurd hx List.not_mem_nil⟩

theorem Puts.refl (s : State) : Puts s s := puts_of_pend_eq rfl rfl

/-- A change of the acting core that adds one result. -/
theorem puts_upd (s : State) (f : Core → Core) {x : Pending} (h : (f s.me).pend = s.me.pend ++ [x]) (hx : Src.ownVault x.src) :
    Puts s (s.upd f) :=
  ⟨rfl, [x], by rw [State.me_upd, h], fun y hy => by rw [List.mem_singleton.1 hy]; exact hx⟩

theorem puts_upd_same (s : State) (f : Core → Core) (h : (f s.me).pend = s.me.pend) : Puts s (s.upd f) :=
  puts_of_pend_eq rfl (by rw [State.me_upd, h])

theorem puts_land (s : State) (d : Dest) {x : Src} (lat : Nat) (hx : Src.ownVault x) : Puts s (s.land d x lat) :=
  puts_upd s _ rfl hx

theorem Puts.trans {s t u : State} (h : Puts s t) (h' : Puts t u) : Puts s u := by
  obtain ⟨hcur, l, hl, hown⟩ := h
  obtain ⟨hcur', l', hl', hown'⟩ := h'
  refine ⟨hcur'.trans hcur, l ++ l', by rw [hl', hl, List.append_assoc], fun x hx => ?_⟩
  exact (List.mem_append.1 hx).elim (hown x) (hown' x)

theorem Puts.ite {s t u : State} {p : Prop} [Decidable p] (ht : Puts s t) (hu : Puts s u) : Puts s (if p then t else u) := by
  split
  · exact ht
  · exact hu

theorem puts_markDone (s : State) : Puts s s.markDone := puts_upd_same s _ rfl

theorem puts_sendHub (s : State) (op func : Nat) (x y : Word) : Puts s (s.sendHub op func x y) := by
  refine puts_of_pend_eq rfl ?_
  simp only [State.sendHub, State.me, State.core, State.upd, State.updCore, State.setCore, SMap.get_put_self]

/-- An access leaves what is in flight. -/
theorem Accesses.puts {s t : State} (h : Accesses s t) : Puts s t := by
  refine puts_of_pend_eq h.cur ?_
  unfold State.me
  rw [h.cur]
  exact (congrArg Core.pend (h.core s.cur.core) :)

theorem puts_gate (s : State) (f : Form) (l : List (Nat × Byte)) (b : Bool) : Puts s (s.gate f l b) := by
  have h := startStores_starts s f (blocksOf l)
  have hstart : Puts s (s.startStores f (blocksOf l)) :=
    puts_of_pend_eq (startsFills_cur h) (startsFills_me h Core.pend fun _ _ => rfl)
  exact hstart.trans (puts_upd_same _ _ rfl)

/-- In a trial an operation leaves in flight at most results that touch no vault but the own one. -/
def PutsOwn (s : State) (o : Host.Outcome State Fault Refusal) : Prop := ∀ t, o = .next t → Puts s t

theorem putsOwn_next {s t : State} (h : Puts s t) : PutsOwn s (.next t) := fun u hu => by cases hu; exact h

theorem putsOwn_guarded {s t : State} {u : Option Use} {l : List Use} (htrial : s.trial = some l) (h : u = none → Puts s t) :
    PutsOwn s (guarded s u t) := by
  cases u with
  | none => exact putsOwn_next (h rfl)
  | some u =>
    rw [guarded, htrial]
    exact putsOwn_next (puts_of_pend_eq rfl rfl)

theorem putsOwn_hubOp {s : State} {l : List Use} (htrial : s.trial = some l) (op func : Nat) (d : Dest) (x y : Word) :
    PutsOwn s (s.hubOp op func d x y) := by
  refine putsOwn_guarded htrial fun _ => .ite (.ite ?_ (.ite ?_ ?_)) ?_
  · exact puts_land s d 1 trivial
  · exact (puts_markDone s).trans (puts_land _ d 1 trivial)
  · exact (puts_markDone s).trans (puts_sendHub _ op func x y)
  · exact puts_sendHub s op func x y

theorem putsOwn_loadS {s : State} {l : List Use} (htrial : s.trial = some l) (hcore : s.cur.core < slotBase) {n : Nat} (hn : 0 < n)
    (r : BitVec 5) (a : BitVec 4) (imm : BitVec 16) : PutsOwn s (s.loadS n r a imm) := by
  refine putsOwn_guarded htrial fun hchk => puts_upd s _ rfl fun y hy => ?_
  obtain rfl := List.mem_singleton.1 hy
  refine ⟨hn, ?_⟩
  have hsize : localSize s.cur.core = 0x800000 := by
    rw [localSize, isSlot, decide_eq_false (Nat.not_le.2 hcore)]; rfl
  have h := orUse_eq_none.1 (firstUse_eq_none.1 hchk _ (List.mem_cons_of_mem _ List.mem_cons_self))
  rw [hsize] at h
  exact of_decide_eq_true h

theorem putsOwn_storeS {s : State} {l : List Use} (htrial : s.trial = some l) (n : Nat)
    (r : BitVec 5) (a : BitVec 4) (imm : BitVec 16) : PutsOwn s (s.storeS n r a imm) :=
  putsOwn_guarded htrial fun _ => puts_gate s _ _ _

theorem putsOwn_gst {s : State} {l : List Use} (htrial : s.trial = some l)
    (r : BitVec 5) (a : BitVec 4) (off : BitVec 11) (wid : BitVec 2) (rel : Bool) : PutsOwn s (execGst r a off wid rel s) := by
  refine putsOwn_guarded htrial fun _ => .ite ?_ (puts_gate s _ _ _)
  refine Puts.ite ?_ (.ite ?_ ?_)
  · exact puts_land s _ 8 trivial
  · exact (puts_markDone s).trans (puts_land _ _ 8 trivial)
  · exact (puts_markDone s).trans (puts_upd _ _ rfl trivial)

theorem sysPut_pend (c : Core) (n : Nat) (v : Word) : (c.sysPut n v).pend = c.pend := by
  unfold Core.sysPut
  split <;> rfl

/-- Does an operation hold its bundle until a timeline advances? -/
noncomputable def opWaits (c : Core) : Instr → Bool
  | .tlwait k ss => (c.gtl k.toNat).toNat < (c.gs ss).toNat
  | _ => false

/-- Does an operation hold its bundle until a message is present? -/
noncomputable def opReceives : Instr → Bool
  | .recv .. => true
  | _ => false

/-- What a plan asks of an operation: neither streams, queues, block metadata, bytes at issue nor holds, and no vault but
the own one in a trial. -/
structure PlainS (i : Instr) : Prop where
  asks : (i.streams, i.queues, i.takesMeta, i.readsAtIssue, i.stage.ble 2, opReceives i) =
    ((none, none), false, false, none, true, false)
  waits : ∀ c, opWaits c i = false
  puts : ∀ {s : State} {l : List Use}, s.trial = some l → s.cur.core < slotBase → PutsOwn s (exec i s)

theorem PlainS.streams {i : Instr} (h : PlainS i) : i.streams = (none, none) := congrArg (·.1) h.asks

theorem PlainS.queues {i : Instr} (h : PlainS i) : i.queues = false := congrArg (·.2.1) h.asks

theorem PlainS.takesMeta {i : Instr} (h : PlainS i) : i.takesMeta = false := congrArg (·.2.2.1) h.asks

theorem PlainS.reads {i : Instr} (h : PlainS i) : i.readsAtIssue = none := congrArg (·.2.2.2.1) h.asks

theorem PlainS.stage {i : Instr} (h : PlainS i) : i.stage ≤ 2 :=
  Nat.le_of_ble_eq_true (congrArg (·.2.2.2.2.1) h.asks)

theorem PlainS.receives {i : Instr} (h : PlainS i) : opReceives i = false := congrArg (·.2.2.2.2.2) h.asks

theorem add_three_ne_two {P : Prop} {n : Nat} (h : n + 3 = 2) : P := nomatch h

theorem zero_ne_two {P : Prop} (h : 0 = 2) : P := nomatch h

/-- Every S-slot operation is plain. -/
theorem slotS_plain {i : Instr} (hi : placeOf i = 2) : PlainS i := by
  cases i
  all_goals try exact add_three_ne_two hi
  all_goals try exact zero_ne_two hi
  all_goals
    refine ⟨rfl, fun _ => rfl, fun {s l} htrial hcore => ?_⟩
  case sldB r a imm => exact putsOwn_loadS htrial hcore (by decide) r a imm
  case sldH r a imm => exact putsOwn_loadS htrial hcore (by decide) r a imm
  case sldW r a imm => exact putsOwn_loadS htrial hcore (by decide) r a imm
  case sldD r a imm => exact putsOwn_loadS htrial hcore (by decide) r a imm
  case sstB r a imm => exact putsOwn_storeS htrial 1 r a imm
  case sstH r a imm => exact putsOwn_storeS htrial 2 r a imm
  case sstW r a imm => exact putsOwn_storeS htrial 4 r a imm
  case sstD r a imm => exact putsOwn_storeS htrial 8 r a imm
  case gld => exact putsOwn_guarded htrial fun _ => puts_upd s _ rfl trivial
  case gst r a off wid rel => exact putsOwn_gst htrial r a off wid rel
  case nop | ifence => exact putsOwn_next (puts_of_pend_eq rfl rfl)
  case ret => exact putsOwn_next (puts_upd_same s _ rfl)
  case snap tag => exact putsOwn_guarded htrial fun _ => (logs_trigger s 0 tag s.cur.core).accesses.puts
  case add | sub | and | or | xor | sll | srl | sra | mul | mulh | mulhu | div | divu | rem | remu | min | max | minu | maxu |
      slt | sltu | clz | ctz | popc | sextB | sextH | sextW | zextB | zextH | zextW | addi | andi | ori | xori | slli | srli |
      srai | slti | lih | aadd | amov | movsa | movas | aaddi | cmpEq | cmpNe | cmpLt | cmpGe | cmpLtu | cmpGeu | pand | por |
      pnot | msetp | mgetp | getmpc =>
    exact putsOwn_next (puts_land s _ _ trivial)
  case setfmt | setmpc => exact putsOwn_guarded htrial fun _ => puts_land s _ _ trivial
  case br | bswap | halt | trap | tret => exact putsOwn_guarded htrial fun _ => puts_upd_same s _ rfl
  case brp => exact putsOwn_guarded htrial fun _ => .ite (puts_upd_same s _ rfl) (.refl s)
  case brpN => exact putsOwn_guarded htrial fun _ => .ite (.refl s) (puts_upd_same s _ rfl)
  case call => exact putsOwn_guarded htrial fun _ => (puts_land s _ 1 (x := .word _) trivial).trans (puts_upd_same _ _ rfl)
  case loop => exact putsOwn_guarded htrial fun _ => .ite (puts_upd_same s _ rfl) (puts_upd_same s _ rfl)
  case sysrd => exact putsOwn_guarded htrial fun _ =>
    (Puts.ite (accesses_auditIn s _ _).puts (.refl s)).trans (puts_land _ _ 1 (x := .word _) trivial)
  case syswr n a => exact putsOwn_guarded htrial fun _ => .ite (puts_of_pend_eq rfl rfl) (puts_upd_same s _ (sysPut_pend _ _ _))
  case wfe => exact putsOwn_guarded htrial fun _ => .ite (.refl s) (puts_upd_same s _ rfl)
  case hwaitc d a b => exact putsOwn_hubOp htrial 0x31 0 (.s d.toNat) (s.me.gs a) (s.me.gs b)
  case hreadc d a => exact putsOwn_hubOp htrial 0x34 0 (.s d.toNat) (s.me.gs a) 0
  case hreadcSt d a => exact putsOwn_hubOp htrial 0x34 1 (.s d.toNat) (s.me.gs a) 0
  all_goals exact putsOwn_hubOp htrial _ _ _ _ _

/-! ### Vault lines that an S slot touches -/

theorem mem_linesIn {l a k : Nat} (h : l ∈ linesIn a k) : 0 < k ∧ a / 64 ≤ l ∧ l ≤ (a + k - 1) / 64 := by
  unfold linesIn at h
  split at h
  case isTrue => exact absurd h List.not_mem_nil
  case isFalse hk =>
    have := mem_seqFrom.1 h
    omega

theorem vaultCore_line {p a k l : Nat} (hp : p < slotBase) (hk : a + k ≤ 0x800000) (h : l ∈ linesIn (localAddr p a) k) :
    vaultCore (64 * l) = p := by
  obtain ⟨hpos, hlo, hhi⟩ := mem_linesIn h
  rw [localAddr, if_pos hp, vaultAddr] at hlo hhi
  simp only [vaultCore]
  have hp' : p < 288 := hp
  omega

/-- The vault lines that new results touch lie in the own vault. -/
theorem newTouches_own {s t : State} {p : Nat} (hp : s.cur.core = p) (hcore : p < slotBase) (h : Puts s t) :
    ∀ x ∈ (t.core p).newTouches p (s.core p).pend.length, x.1 = p := by
  subst hp
  obtain ⟨hcur, l, hl, hown⟩ := h
  have hpend : (t.core s.cur.core).pend = (s.core s.cur.core).pend ++ l := by
    rw [State.me, hcur] at hl; exact hl
  have hslot : isSlot s.cur.core = false := decide_eq_false (Nat.not_le.2 hcore)
  rintro x hx
  simp only [Core.newTouches, hpend, List.drop_left, hslot, Bool.false_or] at hx
  obtain ⟨y, hy, rfl⟩ := List.mem_map.1 hx
  obtain ⟨z, hz, hy⟩ := List.mem_flatMap.1 (mem_distinct.1 hy)
  have hzown := hown z hz
  dsimp only
  split at hy
  case h_1 f ps sx inv hsrc =>
    rw [hsrc] at hzown
    obtain ⟨w, hw, hy⟩ := List.mem_flatMap.1 hy
    cases f with
    | l => exact vaultCore_line hcore (hzown w hw).2 hy
    | c => exact absurd hzown id
    | g => exact absurd hy List.not_mem_nil
  case h_2 hsrc => rw [hsrc] at hzown; exact absurd hzown id
  case h_3 hsrc => rw [hsrc] at hzown; exact absurd hzown id
  case h_4 => exact absurd hy List.not_mem_nil

/-- A hub program slot touches no vault. -/
theorem newTouches_slot {p : Nat} (hp : isSlot p = true) (c : Core) (n : Nat) : ∀ x ∈ c.newTouches p n, x.1 = p := by
  rintro x hx
  simp only [Core.newTouches, hp, Bool.true_or, if_true] at hx
  obtain ⟨y, hy, -⟩ := List.mem_map.1 hx
  obtain ⟨z, -, hy⟩ := List.mem_flatMap.1 (mem_distinct.1 hy)
  split at hy
  case h_1 =>
    obtain ⟨w, -, hy⟩ := List.mem_flatMap.1 hy
    exact absurd hy List.not_mem_nil
  all_goals exact absurd hy List.not_mem_nil

/-- The trial of an S-slot operation touches lines of the own vault alone. -/
theorem trial_touches {i : Instr} (hi : placeOf i = 2) {base : State} {cx : Ctx} (hslot : cx.slot = 2) (hreis : cx.reis = false) :
    ∀ x ∈ (Trial.op { st := base } { ctx := cx, instr := i }).touches, x.1 = cx.core := by
  have hnot : ¬(cx.slot = 3 ∨ cx.slot = 4) := by
    rw [hslot]; decide
  rintro x hx
  simp only [Trial.op, hreis, Bool.false_and, Bool.false_eq_true, if_false, (slotS_plain hi).reads, if_neg hnot, List.nil_append] at hx
  obtain hx | hx := List.mem_append.1 hx
  · by_cases hs : isSlot cx.core = true
    · exact newTouches_slot hs _ _ x hx
    · refine newTouches_own (s := { base with cur := cx, agenda := [], trial := some [] }) rfl
        (Nat.not_le.1 fun h => hs (decide_eq_true h)) ?_ x hx
      split
      case h_1 t ht => exact (slotS_plain hi).puts (l := []) rfl (Nat.not_le.1 fun h => hs (decide_eq_true h)) t ht
      case h_2 => exact .refl _
  · split at hx
    · exact absurd hx List.not_mem_nil
    · exact absurd hx List.not_mem_nil

/-! ### The bundle and its fetch (04 R84, R85; 18 R429) -/

/-- The bundle whose header names an S slot alone. -/
def bundleS (w : BitVec 32) : Bundle :=
  { len := 2, header := 0xA0000002, qp := false, ck := false, reis := 0, rpt := 0, pslot := none, slots := [(2, w)] }

theorem bundleString_pair (h w : BitVec 32) : bundleString [h, w] = (w.setWidth 224 <<< 32) ||| h.setWidth 224 := by
  simp [bundleString]

theorem bundleString_getLsbD (h w : BitVec 32) (k : Nat) :
    (bundleString [h, w]).getLsbD (32 + k) = (decide (32 + k < 224) && w.getLsbD k) := by
  have hh : h.getLsbD (32 + k) = false := BitVec.getLsbD_of_ge h _ (by omega)
  rw [bundleString_pair, BitVec.getLsbD_or, BitVec.getLsbD_shiftLeft, BitVec.getLsbD_setWidth, BitVec.getLsbD_setWidth, hh]
  by_cases hk : 32 + k < 224
  · simp [hk, show k < 224 by omega]
  · simp [hk]

theorem decodeBundle_bundleS (w : BitVec 32) : decodeBundle [0xA0000002, w] = .ok (bundleS w) := by
  have hlen : bundleLen 0xA0000002 = 2 := by decide
  have hbits : bundleBits 0xA0000002 = 64 := by decide
  have hslots : takeSlots 0xA0000002 (bundleString [0xA0000002, w]) slotOrder 32 = [(2, w)] := by
    have hw : ((bundleString [0xA0000002, w]).extractLsb' 32 32).setWidth 32 = w := by
      refine BitVec.eq_of_getLsbD_eq fun k hk => ?_
      rw [BitVec.getLsbD_setWidth, BitVec.getLsbD_extractLsb', bundleString_getLsbD]
      simp [hk, show 32 + k < 224 by omega]
    exact congrArg (fun x => [(2, x)]) hw
  have hfill : (bundleString [0xA0000002, w] >>> 64).toNat = 0 := by
    have hzero : bundleString [0xA0000002, w] >>> 64 = 0#224 := by
      refine BitVec.eq_of_getLsbD_eq fun k _ => ?_
      have hk : w.getLsbD (32 + k) = false := BitVec.getLsbD_of_ge w _ (by omega)
      rw [BitVec.getLsbD_ushiftRight, show 64 + k = 32 + (32 + k) by omega, bundleString_getLsbD, hk, Bool.and_false,
        BitVec.getLsbD_zero]
    rw [hzero]; rfl
  simp only [decodeBundle, hlen, hbits, List.take_succ_cons, List.take_nil, hslots, hfill]
  rfl

/-- Reading undamaged bytes of the stores beside HBM, vaults, host and peers changes nothing. -/
theorem readLine_inner {s : State} (h : Undamaged s) {a : Nat} (n : Nat) (ha : 0x10000000000000 ≤ a) :
    s.readLine a n = (s, s.bytes a n, List.replicate n 0, []) := by
  have hhbm : s.inHbm a = false := by
    simp only [State.inHbm, State.dataUnits]
    split <;> simp <;> omega
  have hvault : inVault a = false := by simp [inVault]; omega
  have hhost : inHost a = false := by simp [inHost]; omega
  have hpeer : inPeer a = false := by simp [inPeer]; omega
  have hevents : s.lineEvents a = s := by
    simp only [State.lineEvents, hhbm, hvault, hhost, hpeer, Bool.or_self, Bool.false_and, Bool.false_eq_true, if_false]
  have hgone : s.vaultGone a = false := by rw [State.vaultGone, hvault]; rfl
  have hread : s.readOther = fun x => (s.byte x, 0, false) := funext fun x => readOther_clean h x
  have hzero : (seqFrom a n).map (fun _ => (0 : Nat)) = List.replicate n 0 := by rw [List.map_const', seqFrom_length]
  have hcls : ∀ x, (if a ≤ x ∧ x < a + n then ((List.replicate n 0)[x - a]?).getD 0 else 0) = 0 := by
    intro x
    split
    · rw [List.getElem?_replicate]
      split <;> rfl
    · rfl
  have hmax : ∀ k, (List.replicate k 0).foldl max 0 = 0 := by
    intro k
    induction k with
    | zero => rfl
    | succ k ih => exact ih
  simp only [State.readLine, hhbm, hgone, hevents, hread, hvault, Bool.false_eq_true, if_false, List.map_map, Function.comp_def,
    hzero]
  rw [if_neg]
  · rfl
  · simp [Find.any, Find.worst, hmax]

/-- The same of a range of such bytes. -/
theorem readStore_inner {s : State} (h : Undamaged s) {a : Nat} (n : Nat) (ha : 0x10000000000000 ≤ a) :
    ∃ b c, s.readStore a n = (s, b, c, []) := by
  have hpieces : ∀ (f a n : Nat), 0x10000000000000 ≤ a → ∀ l ∈ linesOf f a n, 0x10000000000000 ≤ l.1 := by
    intro f
    induction f with
    | zero => exact fun _ _ _ _ hl => absurd hl List.not_mem_nil
    | succ f ih =>
      intro a n ha l hl
      rw [linesOf] at hl
      split at hl
      · exact absurd hl List.not_mem_nil
      · obtain rfl | hl := List.mem_cons.1 hl
        · exact ha
        · exact ih _ _ (by omega) l hl
  have hfold : ∀ (ls : List (Nat × Nat)), (∀ l ∈ ls, 0x10000000000000 ≤ l.1) → ∀ b c, ∃ b' c',
      ls.foldl (fun (r : State × List Byte × List Nat × List Find) l =>
        let (s, b, c, f) := r.1.readLine l.1 l.2
        (s, r.2.1 ++ b, r.2.2.1 ++ c, r.2.2.2 ++ f)) (s, b, c, []) = (s, b', c', []) := by
    intro ls
    induction ls with
    | nil => exact fun _ b c => ⟨b, c, rfl⟩
    | cons l ls ih =>
      intro hls b c
      obtain ⟨hl, hls⟩ := List.forall_mem_cons.1 hls
      rw [List.foldl_cons]
      dsimp only
      rw [readLine_inner h l.2 hl]
      exact ih hls _ _
  exact hfold _ (hpieces _ _ _ ha) [] []

theorem wordDamage_isp {s : State} (h : Undamaged s) (p o n : Nat) : s.wordDamage p (ispAddr p o) n = (s, []) := by
  obtain ⟨b, c, hread⟩ := readStore_inner h n (a := ispAddr p o) (by unfold ispAddr; omega)
  rw [State.wordDamage, hread]
  rfl

/-- The fetch of a bundle with an S slot alone. -/
theorem fetch_bundleS {s : State} {p o : Nat} {w : BitVec 32} (h : Undamaged s)
    (ho : ispOffset (s.core p).ispsel (s.core p).pc.toNat = some o) (hspan : codeSpan (s.core p).pc.toNat 2 = true)
    (hwords : s.ispWords p o 2 = [0xA0000002, w]) : s.fetch p = (s, .ok (bundleS w), []) := by
  have hhead : s.codeWord (ispAddr p o) = 0xA0000002 := (List.cons.inj hwords).1
  have hone : ∃ b, decodeBundle [0xA0000002] = .ok b := ⟨_, rfl⟩
  have hlen : bundleLen 0xA0000002 = 2 := by decide
  obtain ⟨b, hone⟩ := hone
  rw [State.fetch]
  dsimp only
  rw [ho]
  dsimp only
  rw [hhead, hone, hlen]
  dsimp only
  rw [hspan, wordDamage_isp h, hwords, decodeBundle_bundleS]
  rfl

/-! ### The plan (17 R411, R412) -/

/-- The operation of the S slot. -/
def opS (p : Nat) (sv : Bool) (w : BitVec 32) (i : Instr) : MicroOp :=
  { ctx := { core := p, slot := 2, enc := w, sv := sv }, instr := i }

theorem effective_bundleS (c : Core) (w : BitVec 32) : c.effective (bundleS w) = [(2, w, false)] := by
  have hnone : (reisSlots.filter fun r => (bundleS w).reis.getLsbD r.1 && !((bundleS w).slots.any fun x => x.1 == r.2) &&
      c.recs.any fun e => e.1 == r.2) = [] := by
    refine List.filter_eq_nil_iff.2 fun r _ => ?_
    rw [show (bundleS w).reis = 0#5 from rfl, BitVec.getLsbD_zero]
    simp
  rw [Core.effective]
  dsimp only
  rw [hnone]
  rfl

theorem gather_opS (s : State) (p : Nat) (sv : Bool) {w : BitVec 32} {i : Instr} (hdec : decodeSlot 2 w = .ok i)
    (hi : placeOf i = 2) : s.gather { core := p, sv := sv } [(2, w, false)] = (s, [opS p sv w i], [], []) := by
  have hmeta : i.takesMeta = false := (slotS_plain hi).takesMeta
  have hops : s.slotOps { core := p, sv := sv } 2 w false = [.ok (opS p sv w i)] := by
    rw [State.slotOps]
    rw [if_neg (by decide), hdec]
    rfl
  have hside : s.sideDamage (opS p sv w i) = (s, []) := by
    rw [State.sideDamage]
    have hslot : ¬((opS p sv w i).ctx.slot = 3 ∨ (opS p sv w i).ctx.slot = 4) := show ¬((2#4) = 3 ∨ (2#4) = 4) by decide
    have htakes : ¬(opS p sv w i).instr.takesMeta = true := fun ht => Bool.false_ne_true (hmeta.symm.trans ht)
    exact (if_neg hslot).trans (if_neg htakes)
  rw [State.gather, List.foldl_cons, List.foldl_nil]
  dsimp only
  rw [hops, List.foldl_cons, List.foldl_nil]
  dsimp only
  rw [hside]
  rfl

/-- The plan of a bundle with an S slot alone. -/
theorem plan_bundleS {s : State} {p o : Nat} {w : BitVec 32} {i : Instr} (h : Undamaged s) (hrep : (s.core p).inIssue.rep = 0)
    (ho : ispOffset (s.core p).ispsel (s.core p).pc.toNat = some o) (hspan : codeSpan (s.core p).pc.toNat 2 = true)
    (hwords : s.ispWords p o 2 = [0xA0000002, w]) (hdec : decodeSlot 2 w = .ok i) (hi : placeOf i = 2) :
    ∃ x, s.plan p = (s, x) ∧ x.p = p ∧ x.iss = (s.core p).entering (bundleS w) ∧ x.ops = [opS p (s.core p).sv w i] ∧ x.bad = [] ∧
      x.isBundle = true ∧ ∀ t ∈ x.touches, t.1 = p := by
  rw [State.plan]
  dsimp only
  rw [if_neg (not_not.2 hrep), fetch_bundleS h ho hspan hwords]
  dsimp only [bundleS]
  rw [show ({ len := 2, header := 0xA0000002, qp := false, ck := false, reis := 0, rpt := 0, pslot := none, slots := [(2, w)] } : Bundle) =
    bundleS w from rfl, effective_bundleS, State.planOf]
  dsimp only
  have hctx : ∀ c : Core, ({ core := p, rnd := (c.entering (bundleS w)).rnd, sat := (c.entering (bundleS w)).sat,
                             ftz := (c.entering (bundleS w)).ftz, sv := c.sv } : Ctx) = { core := p, sv := c.sv } := by
    simp [Core.entering, bundleS]
  have hgather := gather_opS s p (s.core p).sv hdec hi
  rw [← hctx] at hgather
  rw [hgather]
  dsimp only
  exact ⟨_, rfl, rfl, rfl, rfl, rfl, rfl, trial_touches hi (cx := (opS p (s.core p).sv w i).ctx) rfl rfl⟩

/-! ### The issue (04 R86; 17 R411) -/

/-- What a plan of one S-slot operation pops, pushes, waits for and touches: nothing. -/
structure PlansS (s : State) (p : Nat) (sv : Bool) (w : BitVec 32) (i : Instr) (x : Plan) : Prop where
  p_eq : x.p = p
  ops : x.ops = [opS p sv w i]
  notCk : x.iss.ck = false
  place : placeOf i = 2
  touches : ∀ t ∈ x.touches, s.unfilled t.1 t.2 = false

section
variable {s : State} {p : Nat} {sv : Bool} {w : BitVec 32} {i : Instr} {x : Plan}

theorem PlansS.counts (h : PlansS s p sv w i x) (push : Bool) (q : Nat) : streamCount x.ops push q = 0 := by
  have hs := (slotS_plain h.place).streams
  rw [h.ops]
  cases push
  · simp [streamCount, opS, hs]
  · simp [streamCount, opS, hs]

theorem PlansS.releases (h : PlansS s p sv w i x) : x.releases = false := by
  simp [Plan.releases, Plan.ck, h.notCk]

theorem PlansS.popDamages (h : PlansS s p sv w i x) : s.popDamages x = ([], []) := by
  have hnone (q : Nat) : s.popDamage x q = {} := by
    rw [State.popDamage, h.counts]
    rfl
  simp only [State.popDamages, funext hnone]
  rfl

theorem PlansS.popFault (h : PlansS s p sv w i x) (q : Nat) : s.popFault x q = none := by
  have hw : s.popWaits x q = false := by
    rw [State.popWaits, h.counts]
    simp
  rw [State.popFault, hw]
  rfl

theorem PlansS.touchWaits (h : PlansS s p sv w i x) : s.touchWaits x = [] :=
  List.filter_eq_nil_iff.2 fun t ht => by rw [h.touches t ht]; exact Bool.false_ne_true

theorem PlansS.holdRow (h : PlansS s p sv w i x) : s.holdRow x = 0 := by
  have hfull : ((seqFrom 0 8).any fun q => streamCount x.ops true q != 0 &&
      decide (512 < (((s.core x.p).port q).ahead.length + (s.core x.p).reserved q + 16 * streamCount x.ops true q))) = false := by
    simp [h.counts]
  have hpops : (seqFrom 0 8).any (s.popWaits x) = false := by
    simp [State.popWaits, h.counts]
  have hqueue : (x.ops.any fun o => o.instr.queues && decide (16 ≤ (s.tile x.p).outstanding)) = false := by
    simp [h.ops, opS, (slotS_plain h.place).queues]
  have hwaits : (x.ops.any fun o => opWaits (s.core x.p) o.instr) = false := by
    simp [h.ops, opS, (slotS_plain h.place).waits]
  have hrecvs : x.ops.filter (fun o => opReceives o.instr) = [] := by
    simp [h.ops, opS, (slotS_plain h.place).receives]
  rw [State.holdRow]
  dsimp only
  rw [hfull, hpops, hqueue, if_neg Bool.false_ne_true, if_neg (by simp)]
  refine (if_neg fun hm => Bool.false_ne_true (hwaits.symm.trans hm)).trans (if_neg ?_)
  exact fun hlt => absurd (hlt.trans_eq ((congrArg List.length hrecvs :))) (Nat.not_lt_zero _)

/-- The state in which the slot's operation acts. -/
def State.atSlot (s : State) (p : Nat) (sv : Bool) (w : BitVec 32) (x : Plan) : State :=
  let t := (s.updCore p fun c => { c with inIssue := x.iss }).updCore p fun c => { c with hold := 0 }
  let u := ({ t with cur := { core := p } } : State).tally 0 1
  { u with agenda := .op { ctx := { core := p }, instr := .bundleRepetition } :: s.agenda
           cur := { core := p, slot := 2, enc := w, sv := sv }
           tick := s.tick + 1 }

theorem PlansS.turns (h : PlansS s p sv w i x) :
    (seqFrom 0 3).flatMap (fun k => [x].flatMap fun y => y.turns k) ++ [x].map (fun y => Turn.op { ctx := { core := y.p }, instr := .bundleRepetition }) =
      [.op (opS p sv w i), .op { ctx := { core := p }, instr := .bundleRepetition }] := by
  have hstage := (slotS_plain h.place).stage
  have hturn (k : Nat) : x.turns k = if i.stage = k then [.op (opS p sv w i)] else [] := by
    rw [Plan.turns, h.ops]
    by_cases hk : i.stage = k
    · simp [opS, hk]
    · simp [opS, hk]
  simp only [seqFrom, List.flatMap_cons, List.flatMap_nil, hturn, h.p_eq, List.map_cons, List.map_nil]
  obtain hs | hs | hs : i.stage = 0 ∨ i.stage = 1 ∨ i.stage = 2 := by omega
  all_goals
    rw [hs]; rfl

theorem PlansS.tallyIssue (h : PlansS s p sv w i x) (t : State) :
    t.tallyIssue x = ({ t with cur := { core := p } } : State).tally 0 1 := by
  rw [State.tallyIssue, h.ops, h.p_eq]
  rfl

theorem PlansS.issue (h : PlansS s p sv w i x) (hslots : x.iss.slots = [(2, w)]) :
    s.issue [x] [] = match exec i (s.atSlot p sv w x) with | .next t => State.runOps 1 t | y => y := by
  have henter : s.enterAll [x] [] = s.updCore p fun c => { c with inIssue := x.iss } := by
    have hnone : [x].filter Plan.releases = [] := by simp [h.releases]
    rw [State.enterAll, hnone, List.foldl_cons, List.foldl_nil, State.enter, h.releases, h.p_eq]
    rfl
  have hrecs (c : Core) : c.noteRecs x.iss = c := by
    rw [Core.noteRecs, hslots]
    rfl
  rw [State.issue, henter, h.turns, List.foldl_cons, List.foldl_nil, h.tallyIssue, h.p_eq]
  simp only [hrecs]
  rfl

theorem PlansS.proceed (h : PlansS s p sv w i x) (hretry : ∀ u, s.unitOf p = some u → u.retry = none) :
    s.proceed p [x] = s.issue [x] [] := by
  have hrel : [x].filter Plan.releases = [] := by simp [h.releases]
  have hgate : [x].any s.gateWaits = false := by simp [State.gateWaits, h.releases]
  have hstop : s.stopsHere [x] = false := by simp [State.stopsHere, h.releases]
  have hcons : s.consumptions [x] = ([], []) := by simp [State.consumptions, h.popDamages]
  have htouch : s.touchFaults [x] = (s, []) := by simp [State.touchFaults, h.touchWaits]
  have hpops : s.reportPops [x] = s := by
    rw [State.reportPops, List.foldl_cons, List.foldl_nil]
    exact foldl_fixed _ s _ fun q _ => by rw [h.popFault]
  have hmeet : s.meetRelease p [] ([], []) = (s, none) := meetRelease_of_gates_nil p fun m hm => absurd hm List.not_mem_nil
  simp [State.proceed, hrel, hgate, hstop, hcons, hmeet, agreed_of_retry_none _ hretry, htouch, hpops, h.touchWaits, h.holdRow]

end

/-! ### The turn (01 R16 to R20) -/

/-- The turn of an agent that runs on its own, after the landings of its vc, with no fault waiting: its bundle. -/
theorem beginTurn_alone {s : State} {p : Nat} (hlock : s.lock p = [p]) (hidle : (s.core p).idle = false)
    (hhalt : (s.core p).halted = false) (hstop : (s.core p).stopped = false) (hrest : (s.core p).rest = [])
    (hheld : (s.core p).holdAt = true) (hlate : (s.core p).late = []) : s.beginTurn p = s.bundles p [p] := by
  have hvc (early : Bool) : s.oneVc p early = s.bundles p [p] := by
    have hact : (s.together p).filter (fun m => !(s.core m).idle) = [p] := by
      simp [State.together, hlock, hidle, hhalt, hstop]
    have hother : [p].filter (fun q => !([p].contains q)) = [] := by simp
    have hwait : (s.core p).waiting = [] := by simp [Core.waiting, hlate]
    rw [State.oneVc, hact, hlock]
    dsimp only
    rw [hother, List.foldl_nil, hheld]
    simp [hrest, hstop, hwait]
  rw [State.beginTurn]
  split
  · exact hvc true
  · rw [hvc, hvc]
    split
    case h_1 t ht => rw [← ht]; exact ite_self _
    case h_2 => rfl

/-- A lone bundle without a fault proceeds. -/
theorem bundles_alone {s : State} {p : Nat} {x : Plan} (hplan : s.plan p = (s, x)) (hbad : x.bad = []) (hfaults : x.faults = [])
    (hneed : (s.core x.p).needCk = false) : s.bundles p [p] = s.proceed p [x] := by
  have hall : allFaults [x] = [] := by simp [allFaults, hfaults]
  have hside : s.oneSided p [] = false := by simp [State.oneSided]
  have hdis : disagree [x] = false := rfl
  simp [State.bundles, State.plans, hplan, hdis, hbad, hneed, hfaults, hside, hall]

theorem updCore_restored (s : State) (p : Nat) (f : Core → Core) : { s.updCore p f with cores := s.cores } = s := rfl

/-- Nothing but the issue register, the hold, the counters and the turn's marks differ from the state before it. -/
theorem atSlot_frame (s : State) {p : Nat} (sv : Bool) (w : BitVec 32) (x : Plan) :
    (s.atSlot p sv w x).core p = { s.core p with inIssue := x.iss, hold := 0 } ∧
      (∀ q, q ≠ p → (s.atSlot p sv w x).core q = s.core q) ∧
      { s.atSlot p sv w x with agenda := s.agenda, cur := s.cur, tick := s.tick, cores := s.cores, pow := s.pow } = s := by
  have hself : ((s.updCore p fun c => { c with inIssue := x.iss }).updCore p fun c => { c with hold := 0 }).core p =
      { s.core p with inIssue := x.iss, hold := 0 } := by rw [State.core_updCore_self, State.core_updCore_self]
  have hother : ∀ q, q ≠ p → ((s.updCore p fun c => { c with inIssue := x.iss }).updCore p fun c => { c with hold := 0 }).core q =
      s.core q := fun q hq => by rw [State.core_updCore_other _ _ hq, State.core_updCore_other _ _ hq]
  have hworld : { (s.updCore p fun c => { c with inIssue := x.iss }).updCore p (fun c => { c with hold := 0 }) with
      cores := s.cores } = s :=
    (congrArg (fun t : State => { t with cores := s.cores }) (updCore_restored (s.updCore p fun c => { c with inIssue := x.iss }) p
      fun c => { c with hold := 0 }) :).trans (updCore_restored s p _)
  rw [State.atSlot]
  generalize (s.updCore p fun c => { c with inIssue := x.iss }).updCore p (fun c => { c with hold := 0 }) = t at hself hother hworld ⊢
  refine ⟨hself, hother, ?_⟩
  calc _ = { ({ t with cores := s.cores } : State) with agenda := s.agenda, cur := s.cur, tick := s.tick, pow := s.pow } := rfl
    _ = s := by rw [hworld]

theorem elapse_agenda (s : State) : s.elapse.agenda = s.agenda := by
  obtain ⟨u, hrung, -, -, hrest, -⟩ := ticks_eq s.noteWrites.noteIssues.settleRoute (Config.elapsed s.tick)
  exact (congrArg State.agenda hrest :).trans ((congrArg State.agenda hrung.rest :).trans (settled_kept s).2)

/-- The turn of an agent that runs on its own at a bundle of one S-slot operation: nothing stops, holds or reports it, so
it is issued. -/
theorem beginTurn_bundleS {t : State} {p o : Nat} {w : BitVec 32} {i : Instr} (hlock : t.lock p = [p]) (hclean : Undamaged t)
    (hfilled : ∀ k, t.unfilled p k = false) (hretry : ∀ u, t.unitOf p = some u → u.retry = none)
    (hidle : (t.core p).idle = false) (hhalt : (t.core p).halted = false) (hstop : (t.core p).stopped = false)
    (hrest : (t.core p).rest = []) (hheld : (t.core p).holdAt = true) (hlate : (t.core p).late = [])
    (hneed : (t.core p).needCk = false) (hrep : (t.core p).inIssue.rep = 0)
    (ho : ispOffset (t.core p).ispsel (t.core p).pc.toNat = some o) (hspan : codeSpan (t.core p).pc.toNat 2 = true)
    (hwords : t.ispWords p o 2 = [0xA0000002, w]) (hdec : decodeSlot 2 w = .ok i) (hi : placeOf i = 2)
    (hfaults : (t.plan p).2.faults = []) :
    ∃ x : Plan, x.iss = (t.core p).entering (bundleS w) ∧
      t.beginTurn p = match exec i (t.atSlot p (t.core p).sv w x) with | .next u => State.runOps 1 u | y => y := by
  obtain ⟨x, hplan, hp, hiss, hops, hbad, -, htouch⟩ := plan_bundleS hclean hrep ho hspan hwords hdec hi
  rw [hplan] at hfaults
  have hx : PlansS t p (t.core p).sv w i x :=
    { p_eq := hp, ops := hops, notCk := by rw [hiss]; rfl, place := hi
      touches := fun k hk => (htouch k hk) ▸ hfilled k.2 }
  refine ⟨x, hiss, ?_⟩
  rw [beginTurn_alone hlock hidle hhalt hstop hrest hheld hlate, bundles_alone hplan hbad hfaults (hp ▸ hneed),
    hx.proceed hretry, hx.issue (by rw [hiss, Core.entering, effective_bundleS]; rfl)]

/-- Settles O13: the plan of the two words has one operation, and it is issued. -/
theorem bundleRunsItsInstruction : Obligations.BundleRunsItsInstruction := by
  intro s0 p o w i r s c hagenda hlock hclean _ hfilled hretry hidle hhalt hstop hrest hheld hlate hneed hrep ho hspan hwords
    hdec hi hfaults
  have hstep : step s0 = State.beginTurn ({ s with agenda := r, cur := { core := p } } : State) p := by
    rw [step, elapse_agenda, hagenda]
    rfl
  rw [hstep]
  clear_value s
  obtain ⟨x, hiss, hturn⟩ := beginTurn_bundleS (t := { s with agenda := r, cur := { core := p } }) hlock hclean hfilled hretry
    hidle hhalt hstop hrest hheld hlate hneed hrep ho hspan hwords hdec hi hfaults
  obtain ⟨hcore, hother, hframe⟩ := atSlot_frame { s with agenda := r, cur := { core := p } }
    (({ s with agenda := r, cur := { core := p } } : State).core p).sv w x (p := p)
  refine ⟨_, hturn, rfl, rfl, ?_, ?_, ?_, ?_, rfl, ?_, hother, ?_⟩
  iterate 4
    · rw [hcore, hiss]
      rfl
  · rw [hcore]
    rfl
  · exact (congrArg (fun u : State => { u with agenda := s.agenda, cur := s.cur }) hframe :)

end Sys2Proof.Machine
end
